-- ==== Sys2Proof/Word.lean ====
section
/-!
DEFINITION. The word types of the model and their plainest helpers. Bit 0 is the least significant bit and every
multi-byte field is little-endian (00_scope.md, R4).
-/

namespace Sys2Proof

/-- One byte of a packet, a register, or the brine store. -/
abbrev Byte := BitVec 8

/-- A 32-bit field or register (R9). -/
abbrev Word := BitVec 32

/-- A 64-bit field: tide counts, epochs, addresses, seeds. -/
abbrev Dword := BitVec 64

/-- The bits of an IEEE 754 binary32 value (R5). -/
abbrev F32 := BitVec 32

/-- A little-endian byte string as a number (R4). -/
def leNat : List Byte → Nat
  | [] => 0
  | b :: bs => b.toNat + 256 * leNat bs

/-- The `n` little-endian bytes of a number (R4). -/
def leBytes : Nat → Nat → List Byte
  | 0, _ => []
  | n + 1, v => BitVec.ofNat 8 v :: leBytes n (v / 256)

/-- `n` bytes at offset `off` of a byte string, zeros beyond its end. -/
def sliceBytes (bs : List Byte) (off n : Nat) : List Byte :=
  let t := (bs.drop off).take n
  t ++ List.replicate (n - t.length) 0

/-- The little-endian number in the `n` bytes at offset `off`. -/
def leAt (bs : List Byte) (off n : Nat) : Nat := leNat (sliceBytes bs off n)

/-- Bits [hi:lo] of a number, as a number. -/
def bitsOf (v hi lo : Nat) : Nat := (v / 2 ^ lo) % 2 ^ (hi + 1 - lo)

/-- Bit `i` of a number. -/
def bitOf (v i : Nat) : Bool := (v / 2 ^ i) % 2 == 1

/-- A Bool as one bit of a register. -/
def bit01 (b : Bool) : Nat := if b then 1 else 0

/-- `a / b` rounded up. -/
def ceilDiv (a b : Nat) : Nat := (a + b - 1) / b

/-- Round up to a multiple of 64 (R4: records are whole multiples of 64 bytes). -/
def pad64 (n : Nat) : Nat := 64 * ceilDiv n 64

/-- A byte string padded with zeros to `n` bytes. -/
def padTo (n : Nat) (bs : List Byte) : List Byte := bs ++ List.replicate (n - bs.length) 0

/-- A saturating increment, for counters that stop at `cap`. -/
def satAdd (cap v d : Nat) : Nat := min cap (v + d)

end Sys2Proof
end

