-- ==== Sys2Proof/Syntax.lean ====
section
/-!
DEFINITION. The commands of the block: one constructor per row of spec/opcode_table.json, in the table's order, with the operands each
row takes. A packet command carries the bytes that crossed the switch port; a register command carries the 32 bits written; a
command for something that happened carries what the spec leaves to the physical world (a verdict, a measured value, a level).
-/

namespace Sys2Proof

/-- What a switch-port read of the engine serves (R334, R88, R223). Overflow reads name a position and a chunk. -/
inductive ReadKind where
  | image
  | function
  | mask
  | adapter
  | overflow (leaf chunk : Nat)
  | windowPatch (leaf chunk : Nat)
  | windowReplay (leaf chunk : Nat)
deriving DecidableEq, Repr

/-- A unit that the sluice can fence, or the head tile (Table 14.1). -/
inductive UnitId where
  | pan (p : Nat)
  | cell (p : Nat)
  | head
deriving DecidableEq, Repr

/-- A wait at a boundary port (R24): egress space or host credits, groups that the host chip owes a position, outputs that a remote child
owes, credits or replay space of a link, or the bytes of a load (DESIGN CHOICE, log entry 148). -/
inductive PortWait where
  | egress
  | groups (leaf : Nat)
  | child (k : Nat)
  | link (l : Nat)
  | load (kind : ReadKind)
deriving DecidableEq, Repr

/-- A request of a unit: its channel, the oscillator time since which it has been outstanding, and the boundary wait that its
acknowledgement stands behind, if any (R24) (DESIGN CHOICE, log entry 148). -/
structure Request where
  channel : Nat
  since : Nat
  behind : Option PortWait
deriving DecidableEq, Repr

/-- What ECC found in one 32-byte word of a line (Table 4.4). -/
inductive WordCheck where
  | corrected (word : Nat)
  | uncorrectable (word : Nat)
deriving DecidableEq, Repr

/-- How a fault was detected, with what its record carries (Tables 14.1 and 14.7). -/
inductive Detect where
  /-- Code 1: an uncorrectable brine-store word at a line of the region (R75). -/
  | brineWord (line : Nat)
  /-- One bit in error in a brine-store word that a read other than the scrubber's returned: corrected and counted, no fault unless the
  word was corrected earlier in the same scrub pass (Table 4.4). -/
  | brineCorrected (line word : Nat)
  /-- Code 2: a residue mismatch in a MAC column (R66). -/
  | residue (column : Nat)
  /-- Code 3: an illegal dual-rail code in a column of a leaf pan, or in a merge cell (R67). -/
  | dualRail (column : Nat)
  /-- Code 5: an uncorrectable word of a tile store (store number and word of Table 14.7). -/
  | tileStore (store word : Nat)
  /-- A corrected word of a tile or head-tile store: counted, no fault (R279). -/
  | corrected (store word : Nat)
  /-- Code 8: the head pan's two copies disagreed on a row, for the first time or again (R68). -/
  | headMismatch (repeated : Bool) (row : Nat)
  /-- Code 9: an uncorrectable word of a head-tile store. -/
  | headStore (store word : Nat)
  /-- Code 4: a request of the unit to a neighbour has met its limit (R24). -/
  | timeout (q : Request) (neighbour : UnitId)
  /-- What the scrubber found in the pan's next line (R77). -/
  | scrub (found : List WordCheck)
deriving DecidableEq, Repr

/-- The detections of one handshake: that of a command's unit, and those of other units (Table 14.5). -/
structure Faults where
  own : Detect
  others : List (UnitId × Detect)
deriving DecidableEq, Repr

/-- What the probe of a unit found (R282, R284) (DESIGN CHOICE, log entry 129). -/
structure ProbeVerdict where
  /-- The failing phase, 1 to 7, or none for a pass. -/
  failPhase : Option Nat
  /-- Column, lane or line of the first difference. -/
  place : Nat
  /-- For a time-out raised under R284: the neighbour that the unit's own outstanding request crossed to. -/
  crossed : Option UnitId
deriving DecidableEq, Repr

/-- What a finished start-up step reports (R343): failing units of step 4 with their phase, the head tile's test of step 5 (DESIGN
CHOICE, log entry 129). -/
structure BootReport where
  step : Nat
  failing : List (UnitId × Nat)
  headPass : Bool
deriving DecidableEq, Repr

/-- An arriving flit (Table 13.2): its header, payload and CRC, the symbol errors of each codeword that it is the first flit to overlap, and
whether it overlaps an uncorrectable codeword that an earlier flit has brought (R252, R254). -/
structure FlitHdr where
  type : Nat
  vc : Nat
  seq : Nat
  ack : Nat
  nak : Bool
  ackValid : Bool
  credit : Nat
  cvc : Nat
  payload : List Byte
  crc : Word
  errors : List Nat
  spoilt : Bool
deriving DecidableEq, Repr

/-- What the receiver of one lane has found in LOCK: its last three codewords, as (symbol errors, LANE, GSEQ), and the oscillator time at
which the last arrived (R252). -/
structure LaneSync where
  words : List (Nat × Nat × Nat)
  time : Nat
deriving DecidableEq, Repr

/-- A record header (R257). -/
structure RecHdr where
  kind : Nat
  pass : Nat
  slot : Nat
  len : Nat
deriving DecidableEq, Repr

/-- Which lists of a slot follow its control word: grader entries, a mask, watched tokens (DESIGN CHOICE, log entry 187). -/
structure ListFlags where
  grader : Bool
  mask : Bool
  watch : Bool
deriving DecidableEq, Repr

/-- A control word as SHEET rows carry it over a domain link (Tables 2.2 and 13.6); the spec lists its content, not its bits. -/
structure CtlWord where
  /-- The sheet tag of Table 2.2: the SEQ of the sheet. -/
  tag : Nat
  row : Nat
  mode : Nat
  pass : Nat
  kw : Nat
  useR : Bool
  theta : F32
  resume : Option (Nat × F32)
  level : Nat
  ref : Option F32
  hist : Bool
  strict : Bool
  backward : Bool
  fromBuffer : Bool
  invT : F32
  rho : F32
  invRho : F32
  phi : F32
  pi : F32
  noised : Bool
  gradM : F32
  gradS : F32
  kappa : F32
  cv : F32
  target : Nat
  seed : Dword
  rngStep : Dword
  bufRow : Option Nat
  adapter : Nat
  lists : ListFlags
deriving DecidableEq, Repr

/-- The content of a VECTOR record (Table 13.6). -/
inductive VectorRec where
  | value (x : F32)
  | gradient (chunk : Nat) (xs : List F32)
  | reports (rs : List (Nat × F32))
deriving DecidableEq, Repr

/-- A command of the block. -/
inductive Instr where
  | step (port : Fin 2) (bytes : List Byte)
  | unknownType (port : Fin 2) (bytes : List Byte)
  | ctxOpen (port : Fin 2) (bytes : List Byte)
  | ctxSet (port : Fin 2) (bytes : List Byte)
  | ctxRead (port : Fin 2) (bytes : List Byte)
  | ctxImport (port : Fin 2) (bytes : List Byte)
  | ctxCancel (port : Fin 2) (bytes : List Byte)
  | ctxOpEffect (idx : Nat)
  | rows (port : Fin 2) (bytes : List Byte)
  | seal (port : Fin 2) (bytes : List Byte)
  | arm (port : Fin 2) (bytes : List Byte)
  | disarm (port : Fin 2) (bytes : List Byte)
  | adapterLoad (port : Fin 2) (bytes : List Byte)
  | adapterRetire (port : Fin 2) (bytes : List Byte)
  | sheetEnterStage2
  | sheetEnterStage3
  | sheetEnterStage4
  | scoreBatch (seq leaf slot : Nat)
  | rakeMerge (seq node slot : Nat)
  | headPassEnd (seq row : Nat)
  | sheetCommit
  | outboundSend (port : Fin 2)
  | egressCredit (port : Fin 2) (units : Nat)
  | portRstRise (port : Fin 2) (partialPacket : Bool)
  | portRstFall (port : Fin 2)
  | readResponse (kind : ReadKind) (data : List Byte) (err : Bool)
  | readTimeout (kind : ReadKind)
  | overflowTimeout (leaf chunk : Nat)
  | patchRowRetire (leaf : Nat)
  | sealEffect (leaf : Nat)
  | flipDecision
  | flipFire
  | replayDone (leaf : Nat)
  | flipAbandon
  | windowOpen
  | windowHoldLimit
  | adapterLoadStart
  | adapterWritten
  | maskLoad (value : Word)
  | maskCopy
  | maskLoadEnd
  | fnLoad (value : Word)
  | fnWrite
  | fnReady
  | imgLoad (value : Word)
  | imgReset (headPass : Bool)
  | authVerdict (pass : Bool)
  | authTimeout
  | imageApplied (failing : List (UnitId × Nat))
  | stProbe (value : Word)
  | fault (unit : UnitId) (d : Faults)
  | watchdogExpiry (unit : UnitId) (channel : Request) (neighbour : UnitId)
  | rebuildDone (bed : Nat)
  | shadowRebuildDone (bed : Nat)
  | probeEnd (unit : UnitId) (v : ProbeVerdict)
  | probeTimeout (unit : UnitId)
  | returnCopyDone (bed : Nat)
  | leafMoveBack (bed : Nat)
  | parityDone (bed : Nat)
  | scrubRead (pan : Nat) (found : List WordCheck)
  | mirrorCheck
  | paceUpdate (pace : BitVec 16) (tj : BitVec 8)
  | tideTick
  | tideLost
  | tideExchange
  | oscCalibrate
  | gateOpen
  | gateLatch (value : Word)
  | gateRelease (value : Word)
  | tideLoRead
  | ctxEpochLoRead (ctx : Nat)
  | evClaim (t : Nat)
  | evComplete (t : Nat) (value : Word)
  | flush (t : Nat) (value : Word)
  | evPendingSet (w : Nat) (value : Word)
  | evPendingClr (w : Nat) (value : Word)
  | evMaskSet (w : Nat) (value : Word)
  | evMaskClr (w : Nat) (value : Word)
  | evArbitrate
  | evModerationEnd (t : Nat)
  | sleepChange (t : Nat) (level : Bool)
  | extInputChange (n : Nat) (level : Bool)
  | extPulseAccept (n : Nat)
  | extHoldoffEnd (n : Nat)
  | extStuck (n : Nat)
  | evExtQuarRelease (value : Word)
  | rearm (mg : Bool) (value : Word)
  | freeze (mg : Bool) (value : Word)
  | swMark (value : Word)
  | mgBbSel (value : Word)
  | opptRequest (value : Word)
  | opptRampEnd
  | pwrOn
  | pwrRetain
  | pwrOff
  | retainEnter
  | retainExitDone
  | mgReset (value : Word)
  | alwaysOnSupplyUp
  | powerGood
  | bootStepEnd (r : BootReport)
  | addrAssign (value : Word)
  | mgImgFloor (value : Word)
  | detach (link : Nat) (value : Word)
  | retrain (link : Nat) (value : Word)
  | linkEn (link : Nat) (value : Word)
  | registerWrite (mg : Bool) (offset bytes : Nat) (value : Word)
  | phyReadyRise (lane : Nat)
  | phyReadyFall (lane : Nat)
  | laneLock (link : Nat) (lanes : List LaneSync)
  | linkStateTimeout (link : Nat)
  | linkTimeout (link : Nat)
  | hailResend (link : Nat)
  | hail (link : Nat) (h : FlitHdr) (frame : List Byte)
  | hailCheck (link : Nat)
  | idle (link : Nat) (h : FlitHdr)
  | goodbye (link : Nat) (h : FlitHdr) (addr : Nat)
  | route (link : Nat) (h : FlitHdr) (entries : List (Nat × Nat))
  | routeAdvertise
  | routeAge (addr : Nat)
  | tideReq (link : Nat) (h : FlitHdr) (t1 : Nat) (frac : Fin 16)
  | tideRsp (link : Nat) (h : FlitHdr) (t1 t2 t3 : Nat) (frac : Fin 16)
  | join (link : Nat) (h : FlitHdr) (addr : Nat) (sig : List Byte) (live sealed : Word)
  | admitChild (link : Nat) (h : FlitHdr)
  | refuse (link : Nat) (h : FlitHdr) (reason : Nat)
  | sealed (link : Nat) (h : FlitHdr) (stp : Word)
  | domainArm (link : Nat) (h : FlitHdr) (stp : Word) (tide : Dword)
  | domainDisarm (link : Nat) (h : FlitHdr) (stp : Word) (tide : Dword)
  | fire (link : Nat) (h : FlitHdr) (stp : Word)
  | lost (link : Nat) (h : FlitHdr) (addr : Nat)
  | depart (link : Nat) (h : FlitHdr)
  | domainChange
  | stepTimeout (child : Nat)
  | progressSend
  | sheetOpen (link : Nat) (hs : List FlitHdr) (r : RecHdr) (seq : Nat) (live genId : Word) (slots order : Nat)
  | rowCtl (link : Nat) (hs : List FlitHdr) (r : RecHdr) (c : CtlWord)
  | brine (link : Nat) (hs : List FlitHdr) (r : RecHdr) (bytes : List Byte)
  | grader (link : Nat) (hs : List FlitHdr) (r : RecHdr) (bytes : List Byte)
  | mask (link : Nat) (hs : List FlitHdr) (r : RecHdr) (ref : Nat)
  | watch (link : Nat) (hs : List FlitHdr) (r : RecHdr) (toks : List Nat)
  | pass (link : Nat) (hs : List FlitHdr) (r : RecHdr) (c : CtlWord)
  | abort (link : Nat) (hs : List FlitHdr) (r : RecHdr) (seq : Nat)
  | adapter (link : Nat) (hs : List FlitHdr) (r : RecHdr) (v handle rank : Nat) (bytes : List Byte)
  | adapterFree (link : Nat) (hs : List FlitHdr) (r : RecHdr) (v : Nat)
  | windrow (link : Nat) (hs : List FlitHdr) (r : RecHdr) (entries : List (Nat × F32))
  | stats (link : Nat) (hs : List FlitHdr) (r : RecHdr) (bytes : List Byte)
  | vector (link : Nat) (hs : List FlitHdr) (r : RecHdr) (v : VectorRec)
  | reject (link : Nat) (hs : List FlitHdr) (r : RecHdr) (reason : Nat)
  | progress (link : Nat) (hs : List FlitHdr) (r : RecHdr) (seq : Nat)
  | placement (link : Nat) (hs : List FlitHdr) (r : RecHdr) (bytes : List Byte)
  | adapterDone (link : Nat) (hs : List FlitHdr) (r : RecHdr) (v result : Nat)
  | mcast (link : Nat) (h : FlitHdr) (group : Nat) (segment : List Byte)
  | mcastReport (link : Nat) (h : FlitHdr) (group : Nat) (stp : Word)
  | alwaysOnSupplyLoss (torn : Bool)
  | gradientPacket (seq leaf slot chunk : Nat)
deriving DecidableEq, Repr

end Sys2Proof
end

