-- ==== Sys2Proof/Config.lean ====
section
/-!
DEFINITION. What a part fixes (the licensed configuration, 00_scope.md Table 0.1) and the free values: constants without a body for
what the spec leaves to the part or does not state. Nothing can be proved of a free value but what holds of every value.
-/

namespace Sys2Proof

/-- The three licensed configurations (Table 0.1). -/
inductive Part where
  | d1024
  | d256
  | d64
deriving DecidableEq, Repr

/-- Beds of a configuration (Table 0.1). -/
def Part.beds : Part → Nat
  | .d1024 => 64
  | .d256 => 16
  | .d64 => 4

/-- Active leaf pans. -/
def Part.leaves (p : Part) : Nat := 16 * p.beds

/-- Physical leaf pans, spares included. -/
def Part.pans (p : Part) : Nat := 17 * p.beds

/-- The default fan-out list (Table 0.1), head first. -/
def Part.defaultTree : Part → List Nat
  | .d1024 => [8, 8, 4, 4]
  | .d256 => [8, 8, 4]
  | .d64 => [8, 8]

/-- Whether Vell compatibility is offered (R2). -/
def Part.vell : Part → Bool
  | .d1024 => false
  | .d256 => true
  | .d64 => true

/-- The VARIANT code of CTL_ID (18_registers.md). -/
def Part.variant : Part → Nat
  | .d1024 => 2
  | .d256 => 1
  | .d64 => 0

/-- Free value: which free leaf-tile merge cell serves a composite, left to the part (R31). Its argument is a count of the choices
made so far (DESIGN CHOICE, log entry 5). -/
opaque Config.cellChoice : Nat → Nat

/-- Free value: the WEXP byte of slots 1 to 4 of the built-in generation, which Table 9.6 says is ignored and no rule states (DESIGN
CHOICE, log entry 6). -/
opaque Config.builtinWexp : Nat → Byte

/-- Free value: the bits by which the stored CRC of a torn black-box record differs (R293 says only that the CRC fails). Its argument
is the record's number (DESIGN CHOICE, log entry 7). -/
opaque Config.tornCrc : Nat → Word

/-- Free value: PHYS of CTL_RESIDUE_LAST for a head-pan mismatch: the head tile holds no numbered leaf pan, and no rule states a
number (DESIGN CHOICE, log entry 8). -/
opaque Config.headPhys : Nat

/-- Free value: an argument word of a black-box record that Table 14.7 states for other cases of its kind only, such as the leaf or node of
a unit that serves none. Its argument is the record's number (DESIGN CHOICE, log entry 9). -/
opaque Config.bbArg : Nat → Word

/-- Free value: bytes of an adapter source that belong to the subtree of remote child `c` at rank `r`. R270 orders them in the source;
the spec does not say how the root knows their length (DESIGN CHOICE, log entry 10). -/
opaque Config.subtreeShare : Nat → Nat → Nat

/-- Free value: an entry beyond the 65,536 of the score buffer, which a member reads when its busiest position holds more rows than its
root's. R25 and R160 limit the rows of a sheet by the root's partition only (DESIGN CHOICE, log entry 11). -/
opaque Config.scoreBeyond : Nat → BitVec 32

/-- Free value: the part's device identity, which the shared security block gives it (Table 13.5, R327); the spec gives it no value
(DESIGN CHOICE, log entry 12). -/
opaque Config.deviceId : Dword

/-- Free value: engines admitted below the remote child with an address, that child included. RCH_DOMAIN_STATUS.ENGINES counts them
(13_reach_fabric.md), but no message carries the number to the parent (DESIGN CHOICE, log entry 13). -/
opaque Config.childEngines : Nat → Nat

/-- Free value: handshakes in which rake lanes waited for a special-function unit during one batch or one gradient chunk. FN_STALL sums
them (R177), and no rule states how many there are. Its argument is a count of the values taken so far (DESIGN CHOICE, log entry 131). -/
opaque Config.fnStall : Nat → BitVec 32

/-- Free value: byte `i` of a message whose content a table lists without giving its bits, as a domain message, a control word or a VECTOR
record (Tables 13.6 and 13.7). Its first argument lists the content (DESIGN CHOICE, log entry 144). -/
opaque Config.wireByte : List Nat → Nat → Byte

/-- Free value: the state of a lane's scrambler when its link begins to send. The scrambler is self-synchronous, and no rule states where it
starts (DESIGN CHOICE, log entry 156). -/
opaque Config.scramblerSeed : Nat → Nat

/-- Free value: the sixteenth of a tick at which a TIDE_REQ leaves, by the oscillator's count of that moment. R263 stamps it as it crosses, and
nothing the engine holds says where in the tick that is (DESIGN CHOICE, log entry 157). -/
opaque Config.sendFrac : Nat → Fin 16

end Sys2Proof
end

