-- ==== Sys2Proof/Machine/F32.lean ====
section
/-!
DEFINITION. IEEE 754 binary32 arithmetic with one rounding, to nearest, ties to even (03_arithmetic.md R53, R60, R61;
05_grading.md R90). A value is decoded into an exact sign, integer and exponent, the exact result is formed, and it is
rounded once. Subnormals are kept. Every NaN made here is the quiet NaN 0x7FC0_0000 (R61).
-/

namespace Sys2Proof.Machine

/-- A decoded floating-point value: `fin neg m e` is (-1)^neg * m * 2^e. -/
inductive Num where
  | nan
  | inf (neg : Bool)
  | fin (neg : Bool) (m : Nat) (e : Int)
deriving DecidableEq, Repr

/-- The quiet NaN 0x7FC0_0000 of R61. -/
def f32Nan : F32 := 0x7FC00000#32
/-- +0. -/
def f32Zero : F32 := 0x00000000#32
/-- 1.0. -/
def f32One : F32 := 0x3F800000#32
/-- +infinity. -/
def f32PosInf : F32 := 0x7F800000#32
/-- -infinity, also the log of zero mass of Table 0.7. -/
def f32NegInf : F32 := 0xFF800000#32
/-- The masked score -2^127 of Table 0.7. -/
def f32Masked : F32 := 0xFF000000#32

/-- An infinity of either sign. -/
def f32Inf (neg : Bool) : F32 := if neg then f32NegInf else f32PosInf

/-- The value a binary32 bit pattern stands for. -/
def f32Num (x : F32) : Num :=
  let v := x.toNat
  let neg := v / 2 ^ 31 == 1
  let e : Nat := (v / 2 ^ 23) % 256
  let f : Nat := v % 2 ^ 23
  if e = 255 then (if f = 0 then .inf neg else .nan)
  else if e = 0 then .fin neg f (-149)
  else .fin neg (2 ^ 23 + f) ((e : Int) - 150)

/-- The significand `m * 2^e` rounded to nearest even at binary32's precision, as the 31 magnitude bits.
`sticky` says that the exact value lies a little above `m * 2^e`: callers give `m` at least 26 bits then. -/
def f32RoundMag (m : Nat) (e : Int) (sticky : Bool) : Nat :=
  if m = 0 then 0 else
  let len : Int := (Nat.log2 m : Int) + 1
  let q : Int := max (e + len - 24) (-149)
  let mant : Nat :=
    if q ≤ e then m * 2 ^ (e - q).toNat
    else
      let sh := (q - e).toNat
      let half := 2 ^ (sh - 1)
      let base := m / 2 ^ sh
      let rem := m % 2 ^ sh
      if rem > half || (rem == half && (sticky || base % 2 == 1)) then base + 1 else base
  min (((q + 149).toNat) * 2 ^ 23 + mant) 0x7F800000

/-- The binary32 value nearest `(-1)^neg * m * 2^e`, ties to even; beyond the range it is an infinity. -/
def f32Pack (neg : Bool) (m : Nat) (e : Int) (sticky : Bool := false) : F32 :=
  BitVec.ofNat 32 ((if neg then 2 ^ 31 else 0) + f32RoundMag m e sticky)

/-- Whether a value is a NaN. -/
def fIsNan (x : F32) : Bool := match f32Num x with | .nan => true | _ => false

/-- Whether a value is an infinity. -/
def fIsInf (x : F32) : Bool := match f32Num x with | .inf _ => true | _ => false

/-- Whether a value is finite. -/
def fIsFinite (x : F32) : Bool := match f32Num x with | .fin _ _ _ => true | _ => false

/-- Sign flip. -/
def fNeg (x : F32) : F32 := x ^^^ 0x80000000#32

/-- Magnitude. -/
def fAbs (x : F32) : F32 := x &&& 0x7FFFFFFF#32

/-- A signed integer times a power of two, rounded once; a zero result is +0 (R60). -/
def fScaled (p : Int) (e : Int) : F32 := f32Pack (decide (p < 0)) p.natAbs e |> fun r =>
  if r &&& 0x7FFFFFFF#32 = 0#32 then f32Zero else r

/-- An integer converted to binary32. -/
def fOfInt (p : Int) : F32 := fScaled p 0

/-- A natural number converted to binary32. -/
def fOfNat (n : Nat) : F32 := f32Pack false n 0

/-- The exact sum of two finite values, before rounding, as a signed integer and an exponent. -/
def numSum (n1 : Bool) (m1 : Nat) (e1 : Int) (n2 : Bool) (m2 : Nat) (e2 : Int) : Int × Int :=
  let e := min e1 e2
  let a : Int := (m1 * 2 ^ (e1 - e).toNat : Nat)
  let b : Int := (m2 * 2 ^ (e2 - e).toNat : Nat)
  ((if n1 then -a else a) + (if n2 then -b else b), e)

/-- rne(x + y): an exact zero sum is +0 unless both operands are -0; Inf + (-Inf) is the quiet NaN (R61). -/
def fAdd (x y : F32) : F32 :=
  match f32Num x, f32Num y with
  | .nan, _ => f32Nan
  | _, .nan => f32Nan
  | .inf a, .inf b => if a = b then f32Inf a else f32Nan
  | .inf a, .fin _ _ _ => f32Inf a
  | .fin _ _ _, .inf b => f32Inf b
  | .fin n1 m1 e1, .fin n2 m2 e2 =>
    if m1 = 0 ∧ m2 = 0 then (if n1 && n2 then 0x80000000#32 else f32Zero)
    else
      let s := numSum n1 m1 e1 n2 m2 e2
      if s.1 = 0 then f32Zero else f32Pack (decide (s.1 < 0)) s.1.natAbs s.2

/-- rne(x - y). -/
def fSub (x y : F32) : F32 := if fIsNan y then f32Nan else fAdd x (fNeg y)

/-- rne(x * y). -/
def fMul (x y : F32) : F32 :=
  match f32Num x, f32Num y with
  | .nan, _ => f32Nan
  | _, .nan => f32Nan
  | .inf a, .inf b => f32Inf (a != b)
  | .inf a, .fin n m _ => if m = 0 then f32Nan else f32Inf (a != n)
  | .fin n m _, .inf b => if m = 0 then f32Nan else f32Inf (n != b)
  | .fin n1 m1 e1, .fin n2 m2 e2 => f32Pack (n1 != n2) (m1 * m2) (e1 + e2)

/-- rne(x / y), correctly rounded (R92): 60 extra quotient bits and a sticky remainder feed one rounding. -/
def fDiv (x y : F32) : F32 :=
  match f32Num x, f32Num y with
  | .nan, _ => f32Nan
  | _, .nan => f32Nan
  | .inf _, .inf _ => f32Nan
  | .inf a, .fin n _ _ => f32Inf (a != n)
  | .fin n _ _, .inf b => if n != b then 0x80000000#32 else f32Zero
  | .fin n1 m1 e1, .fin n2 m2 e2 =>
    if m2 = 0 then (if m1 = 0 then f32Nan else f32Inf (n1 != n2))
    else
      let num := m1 * 2 ^ 60
      f32Pack (n1 != n2) (num / m2) (e1 - e2 - 60) (num % m2 != 0)

/-- The place of a non-NaN value on the number line: -0 and +0 share a place. -/
def f32Ord (x : F32) : Int :=
  let v := x.toNat
  if v < 2 ^ 31 then (v : Int) else -((v : Int) - 2 ^ 31)

/-- x < y; false when either is a NaN. -/
def fLt (x y : F32) : Bool := !fIsNan x && !fIsNan y && decide (f32Ord x < f32Ord y)

/-- x ≤ y; false when either is a NaN. -/
def fLe (x y : F32) : Bool := !fIsNan x && !fIsNan y && decide (f32Ord x ≤ f32Ord y)

/-- x = y as numbers; false when either is a NaN. -/
def fEq (x y : F32) : Bool := !fIsNan x && !fIsNan y && decide (f32Ord x = f32Ord y)

/-- The larger of two non-NaN values, the first where they are equal. -/
def fMax (x y : F32) : F32 := if fLt x y then y else x

/-- -0 becomes +0 (R90 stage 5). -/
def fNoNegZero (x : F32) : F32 := if x = 0x80000000#32 then f32Zero else x

/-- A BF16 bit pattern as the binary32 value it stands for. -/
def fOfBf16 (b : BitVec 16) : F32 := BitVec.ofNat 32 (b.toNat * 2 ^ 16)

/-- `m * 2^e` rounded to the nearest integer, ties to even. -/
def roundInt (m : Nat) (e : Int) : Nat :=
  if 0 ≤ e then m * 2 ^ e.toNat
  else
    let sh := (-e).toNat
    if sh > Nat.log2 m + 2 then 0 else
    let half := 2 ^ (sh - 1)
    let base := m / 2 ^ sh
    let rem := m % 2 ^ sh
    if rem > half || (rem == half && base % 2 == 1) then base + 1 else base

/-- `floor (m * 2^e)`. -/
def floorNat (m : Nat) (e : Int) : Nat :=
  if 0 ≤ e then m * 2 ^ e.toNat else if (-e).toNat > Nat.log2 m + 1 then 0 else m / 2 ^ (-e).toNat

/-- The next level of an adjacent-pairs sum (R53). -/
def pairLevel : List F32 → List F32
  | a :: b :: r => fAdd a b :: pairLevel r
  | l => l

/-- A sum by adjacent pairs over `levels` levels (R53, R108). -/
def pairSum : Nat → List F32 → F32
  | 0, l => l.headD f32Zero
  | n + 1, l => pairSum n (pairLevel l)

end Sys2Proof.Machine
end

