-- ==== Sys2Proof/Machine/Arith.lean ====
section
/-!
DEFINITION. Number formats, conditioning and the exact dot product (03_arithmetic.md, R48 to R63), and the chunk bytes of
overflow groups (04_brine_store.md, Table 4.5).
-/

namespace Sys2Proof.Machine

/-- Input-format codes of Table 3.1 (R49). -/
inductive InFmt where
  | bf16
  | e4m3
  | e5m2
deriving DecidableEq, Repr

/-- The input format of a code, none for any other code (R49). -/
def inFmtOf : Nat → Option InFmt
  | 0 => some .bf16
  | 1 => some .e4m3
  | 2 => some .e5m2
  | _ => none

/-- Payload bytes of one row, before padding (Table 3.1). -/
def payloadBytes (f : InFmt) (h : Nat) : Nat :=
  match f with
  | .bf16 => 2 * h
  | _ => 33 * h / 32

/-- The bytes of an array as a reader, zero beyond its end. -/
def readerOf (a : Array Byte) (i : Nat) : Byte := a.getD i 0

/-- Weight formats of Table 3.3 (R56). -/
inductive WFmt where
  | mxfp4
  | ternary
  | e2m3
  | e3m2
  | e4m3
  | e5m2
  | bf16
deriving DecidableEq, Repr

/-- The weight format of a code of Table 3.3. -/
def wFmtOf : Nat → Option WFmt
  | 0 => some .mxfp4
  | 1 => some .ternary
  | 2 => some .e2m3
  | 3 => some .e3m2
  | 4 => some .e4m3
  | 5 => some .e5m2
  | 6 => some .bf16
  | _ => none

/-- The code of a weight format in Table 3.3. -/
def wFmtCode : WFmt → Nat
  | .mxfp4 => 0
  | .ternary => 1
  | .e2m3 => 2
  | .e3m2 => 3
  | .e4m3 => 4
  | .e5m2 => 5
  | .bf16 => 6

/-- Bytes of the element section of a weight row of `h` weights (Table 3.3). -/
def elemBytes (f : WFmt) (h : Nat) : Nat :=
  match f with
  | .mxfp4 => h / 2
  | .ternary => ceilDiv h 5
  | .e2m3 => 3 * h / 4
  | .e3m2 => 3 * h / 4
  | .e4m3 => h
  | .e5m2 => h
  | .bf16 => 2 * h

/-- Bytes of the scale section of a weight row. -/
def scaleBytes (f : WFmt) (h : Nat) : Nat :=
  match f with
  | .bf16 => 0
  | _ => h / 32

/-- Row bytes of Table 3.3. -/
def rowBytes (f : WFmt) (h : Nat) : Nat := elemBytes f h + scaleBytes f h

/-- Rows per sweep of Table 3.5. -/
def rowsPerSweep (f : WFmt) : Nat :=
  match f with
  | .ternary => 128
  | _ => 64

/-! ### Element decoding -/

/-- A small float of `eb` exponent bits with bias `bias` and `mb` mantissa bits, all encodings finite, scaled by an
exact power of two: the value times 2^(bias - 1 + mb), which is an integer. -/
def miniInt (eb mb : Nat) (code : Nat) : Int :=
  let s := bitOf code (eb + mb)
  let e := bitsOf code (eb + mb - 1) mb
  let f := code % 2 ^ mb
  let mag : Nat := if e = 0 then f else (2 ^ mb + f) * 2 ^ (e - 1)
  if s then -(mag : Int) else mag

/-- Code of the weight at index `i` in a row's element section, as raw bits. -/
def elemCode (f : WFmt) (rd : Nat → Byte) (i : Nat) : Nat :=
  match f with
  | .mxfp4 => let b := (rd (i / 2)).toNat; if i % 2 = 0 then b % 16 else b / 16
  | .ternary => ((rd (i / 5)).toNat / 3 ^ (i % 5)) % 3
  | .e2m3 | .e3m2 =>
    let g := 3 * (i / 4)
    ((rd g).toNat + 256 * (rd (g + 1)).toNat + 65536 * (rd (g + 2)).toNat) / 2 ^ (6 * (i % 4)) % 64
  | .e4m3 | .e5m2 => (rd i).toNat
  | .bf16 => (rd (2 * i)).toNat + 256 * (rd (2 * i + 1)).toNat

/-- Scale byte `b` of a row of `h` weights. -/
def scaleByte (f : WFmt) (h : Nat) (rd : Nat → Byte) (b : Nat) : Nat := (rd (elemBytes f h + b)).toNat

/-- A BF16 code as sign, integer and exponent. -/
def bf16Num (c : Nat) : Num := f32Num (BitVec.ofNat 32 (c * 2 ^ 16))

/-- floor(log2 |w|) of a finite non-zero value. -/
def numLog2 : Num → Option Int
  | .fin _ m e => if m = 0 then none else some ((Nat.log2 m : Int) + e)
  | _ => none

/-- The largest of a list of exponents, none for an empty list. -/
def maxInt? : List (Option Int) → Option Int
  | [] => none
  | none :: r => maxInt? r
  | some a :: r => match maxInt? r with
    | none => some a
    | some b => some (max a b)

/-- An integer form of 32 values: integers and the block exponent (R59). -/
structure IntBlock where
  ints : List Int
  exp : Int
deriving DecidableEq, Repr

/-- The integer form of a BF16 weight block: wi = w * 2^(22 - Emax), ew = Emax - 22 (R59). A block of zeros has every
integer 0. -/
def bf16Block (codes : List Nat) : IntBlock :=
  match maxInt? (codes.map fun c => numLog2 (bf16Num c)) with
  | none => ⟨codes.map fun _ => 0, 0⟩
  | some em =>
    ⟨codes.map fun c =>
      match bf16Num c with
      | .fin n m e =>
        let r : Int := roundInt m (e + 22 - em)
        if n then -r else r
      | _ => 0, em - 22⟩

/-- Block `b` of a weight row of `h` weights in integer form (Table 3.4). -/
def weightBlock (f : WFmt) (h : Nat) (rd : Nat → Byte) (b : Nat) : IntBlock :=
  let codes := (List.range 32).map fun i => elemCode f rd (32 * b + i)
  let sc : Int := scaleByte f h rd b
  match f with
  | .mxfp4 => ⟨codes.map (miniInt 2 1), sc - 128⟩
  | .ternary => ⟨codes.map fun d => Int.ofNat d - 1, sc - 127⟩
  | .e2m3 => ⟨codes.map (miniInt 2 3), sc - 130⟩
  | .e3m2 => ⟨codes.map (miniInt 3 2), sc - 131⟩
  | .e4m3 => ⟨codes.map (miniInt 4 3), sc - 136⟩
  | .e5m2 => ⟨codes.map (miniInt 5 2), sc - 143⟩
  | .bf16 => bf16Block codes

/-- Whether the element code is one that R58 refuses. -/
def badElem (f : WFmt) (c : Nat) : Bool :=
  match f with
  | .e4m3 => c % 128 == 127
  | .e5m2 => (c / 4) % 32 == 31
  | .bf16 => (c / 128) % 256 == 255
  | _ => false

/-- Whether a weight row of `h` weights holds data that R58 refuses. -/
def badWeightRow (f : WFmt) (h : Nat) (rd : Nat → Byte) : Bool :=
  ((List.range h).any fun i => badElem f (elemCode f rd i)) ||
  ((List.range (scaleBytes f h)).any fun b => scaleByte f h rd b == 255) ||
  (match f with
   | .ternary =>
     ((List.range (elemBytes f h)).any fun i => (rd i).toNat > 242) ||
     ((List.range (5 * elemBytes f h - h)).any fun k => elemCode f rd (h + k) != 1)
   | _ => false)

/-! ### Hidden-state input (R49 to R51) -/

/-- Element `i` of a payload decoded exactly, with -0 taken as +0 (R50, R51). -/
def inputNum (f : InFmt) (h : Nat) (rd : Nat → Byte) (i : Nat) : Num :=
  let scaled (n : Bool) (m : Nat) (e : Int) : Num :=
    let sc := (rd (h + i / 32)).toNat
    if sc = 255 then .nan else .fin (n && m != 0) m (e + sc - 127)
  match f with
  | .bf16 =>
    match bf16Num ((rd (2 * i)).toNat + 256 * (rd (2 * i + 1)).toNat) with
    | .fin n m e => .fin (n && m != 0) m e
    | x => x
  | .e4m3 =>
    let c := (rd i).toNat
    if c % 128 = 127 then .nan
    else
      let v := miniInt 4 3 c
      scaled (decide (v < 0)) v.natAbs (-9)
  | .e5m2 =>
    let c := (rd i).toNat
    if (c / 4) % 32 = 31 then
      (if c % 4 = 0 then (if (rd (h + i / 32)).toNat = 255 then .nan else .inf (c ≥ 128)) else .nan)
    else
      let v := miniInt 5 2 c
      scaled (decide (v < 0)) v.natAbs (-16)

/-- Out-of-range policies of R51. -/
inductive RangePolicy where
  | clamp
  | poison
deriving DecidableEq, Repr

/-- What Table 3.2 makes of one element. -/
inductive InClass where
  | value (x : F32)
  | clamped (x : F32)
  | poison
deriving DecidableEq, Repr

/-- Whether |m * 2^e| > 2^b, compared exactly. -/
def beyondBound (m : Nat) (e : Int) (b : Nat) : Bool :=
  let d := e - b
  if 0 ≤ d then decide (m * 2 ^ d.toNat > 1) else decide (m > 2 ^ (-d).toNat)

/-- The classification of a decoded element (Table 3.2). -/
def classify (pol : RangePolicy) (b : Nat) (x : Num) : InClass :=
  let out (n : Bool) : InClass :=
    match pol with
    | .clamp => .clamped (f32Pack n 1 b)
    | .poison => .poison
  match x with
  | .nan => .poison
  | .inf n => out n
  | .fin n m e => if beyondBound m e b then out n else .value (f32Pack n m e)

/-- The value a classified element continues with. -/
def InClass.val : InClass → F32
  | .value x => x
  | .clamped x => x
  | .poison => f32Nan

/-! ### Conditioning (R53) -/

/-- Normalisation modes of R53. -/
inductive NormMode where
  | rmsGain
  | gainOnly
  | none
deriving DecidableEq, Repr

/-- Sum of squares in ascending chunks of 128, each chunk by adjacent pairs over 7 levels (R53). -/
def sumSquares : Nat → F32 → List F32 → F32
  | 0, acc, _ => acc
  | c + 1, acc, xs =>
    sumSquares c (fAdd acc (pairSum 7 ((xs.take 128).map fun x => fMul x x))) (xs.drop 128)

/-- 1/H rounded to nearest even (R53). -/
def invH (h : Nat) : F32 := fDiv f32One (fOfNat h)

/-- The RMS scale r of a row; `rsqrt` is the special function in force (R53, R54). -/
def rmsScale (rsqrt : F32 → F32) (h : Nat) (eps : F32) (xs : List F32) : F32 :=
  rsqrt (fAdd (fMul (sumSquares (h / 128) f32Zero xs) (invH h)) eps)

/-- The conditioned row y (R53). The gain is the image's list of H BF16 values. -/
def conditionRow (norm : NormMode) (r : F32) (gain : List (BitVec 16)) (xs : List F32) : List F32 :=
  match norm with
  | .rmsGain => List.zipWith (fun x g => fMul (fMul x r) (fOfBf16 g)) xs gain
  | .gainOnly => List.zipWith (fun x g => fMul x (fOfBf16 g)) xs gain
  | .none => xs

/-! ### Brine blocks (R55) -/

/-- floor(log2) of the largest magnitude of a list of finite values, none when all are zero. -/
def maxLog2 (ys : List F32) : Option Int := maxInt? (ys.map fun y => numLog2 (f32Num y))

/-- One brine block from 32 conditioned elements (R55). -/
def brineBlock (ys : List F32) : IntBlock :=
  match maxLog2 ys with
  | none => ⟨ys.map fun _ => 0, 0⟩
  | some l =>
    let eb := l - 14
    ⟨ys.map fun y =>
      match f32Num y with
      | .fin n m e =>
        let r : Int := min (roundInt m (e - eb)) 32767
        if n then -r else r
      | _ => 0, eb⟩

/-- The brine blocks of a row, `n` of them. -/
def brineBlocks : Nat → List F32 → List IntBlock
  | 0, _ => []
  | n + 1, ys => brineBlock (ys.take 32) :: brineBlocks n (ys.drop 32)

/-! ### The exact dot product (R60 to R62) -/

/-- Σ wi × m[i] (R60). -/
def intDot : List Int → List Int → Int
  | a :: as, b :: bs => a * b + intDot as bs
  | _, _ => 0

/-- The block value of R60. -/
def blockValue (w m : IntBlock) : F32 := fScaled (intDot w.ints m.ints) (w.exp + m.exp)

/-- The chunk value rne(rne(s0 + s1) + rne(s2 + s3)); blocks that are absent enter as +0 (R61, R83). -/
def chunkValue (s : List F32) : F32 :=
  fAdd (fAdd (s.getD 0 f32Zero) (s.getD 1 f32Zero)) (fAdd (s.getD 2 f32Zero) (s.getD 3 f32Zero))

/-- Chunk values added in ascending order (R61). -/
def sumChunks : Nat → F32 → List F32 → F32
  | 0, acc, _ => acc
  | n + 1, acc, s => sumChunks n (fAdd acc (chunkValue (s.take 4))) (s.drop 4)

/-- The dot product of two block lists, with `chunks` chunks of 4 blocks (R61). -/
def dotBlocks (chunks : Nat) (w m : List IntBlock) : F32 :=
  sumChunks chunks f32Zero (List.zipWith blockValue w m)

/-- The weight term of a row of `h` weights against a brine row (R61). -/
def weightTerm (f : WFmt) (h : Nat) (rd : Nat → Byte) (brine : List IntBlock) : F32 :=
  dotBlocks (h / 128) ((List.range (h / 32)).map (weightBlock f h rd)) brine

/-- The raw score (R62). -/
def rawScore (wterm : F32) (aterm : Option F32) : F32 :=
  match aterm with
  | none => wterm
  | some a => fAdd wterm a

/-! ### Chunk groups of overflow windows (R86, Table 4.5) -/

/-- Chunk bytes cb of Table 4.5. -/
def chunkBytes (f : WFmt) : Nat :=
  match f with
  | .mxfp4 => 68
  | .ternary => 30
  | .e2m3 => 100
  | .e3m2 => 100
  | .e4m3 => 132
  | .e5m2 => 132
  | .bf16 => 256

/-- The block `b` (0 to 3) of one chunk held in `chunkBytes` bytes: the layout of a row of 128 weights. -/
def chunkBlock (f : WFmt) (rd : Nat → Byte) (b : Nat) : IntBlock := weightBlock f 128 rd b

/-- Chunk `c` of a stored weight row of `h` weights, re-cut to the layout of Table 4.5 (R86, R88). -/
def rowChunkBytes (f : WFmt) (h : Nat) (rd : Nat → Byte) (c : Nat) : List Byte :=
  let scales := (List.range (scaleBytes f 128)).map fun b => rd (elemBytes f h + 4 * c + b)
  match f with
  | .ternary =>
    let digit (i : Nat) : Nat := if i < 128 then elemCode f rd (128 * c + i) else 1
    ((List.range 26).map fun k =>
      BitVec.ofNat 8 (digit (5 * k) + 3 * digit (5 * k + 1) + 9 * digit (5 * k + 2) + 27 * digit (5 * k + 3) + 81 * digit (5 * k + 4)))
      ++ scales
  | _ => ((List.range (elemBytes f 128)).map fun k => rd (elemBytes f 128 * c + k)) ++ scales

end Sys2Proof.Machine
end

