-- ==== Sys2Proof/Machine/Grading.lean ====
section
/-!
DEFINITION. Grading: the five rake-lane stages, race noise, the statistics block and windrow insertion
(05_grading.md, R90 to R112).
-/

namespace Sys2Proof.Machine

/-- LN2 of R104, binary32 0x3F31_7218. -/
def constLn2 : F32 := 0x3F317218#32
/-- L2E of R108, binary32 0x3FB8_AA3B. -/
def constL2e : F32 := 0x3FB8AA3B#32
/-- -150.0, below which no exp2 is evaluated (R108). -/
def constM150 : F32 := 0xC3160000#32

/-- A grader entry: J, L, COUNT and BIAS with the flags of Table 5.2 (R94). -/
structure GraderEntry where
  pos : Nat
  leaf : Nat
  count : Nat
  bias : F32
  ban : Bool
  hasBias : Bool
  hasCount : Bool
deriving DecidableEq, Repr

/-- Word 0 of a grader entry (Table 5.2). -/
def GraderEntry.word0 (e : GraderEntry) : Word :=
  BitVec.ofNat 32 (e.pos % 4096 + 4096 * (e.leaf % 1024) + 2 ^ 29 * bit01 e.ban + 2 ^ 30 * bit01 e.hasBias
    + 2 ^ 31 * bit01 e.hasCount)

/-- COUNT and BIAS of a grader entry, bytes 4 to 11 (Table 5.2). -/
def GraderEntry.tail (e : GraderEntry) : List Byte := leBytes 4 (e.count % 2 ^ 24) ++ leBytes 4 e.bias.toNat

/-- The 12 bytes of a grader entry (R94, Table 5.2). -/
def GraderEntry.bytes (e : GraderEntry) : List Byte := leBytes 4 e.word0.toNat ++ e.tail

/-- The neutral grader entry (R95): no bias, no count, no ban. -/
def graderNeutral : GraderEntry := ⟨0, 0, 0, f32Zero, false, false, false⟩

/-- The sampling parameters of a row as its control word carries them (R92, R104). -/
structure GradeParams where
  invT : F32
  rho : F32
  invRho : F32
  phi : F32
  pi : F32
  noised : Bool
  seed : Dword
  rngStep : Dword
deriving DecidableEq, Repr

/-- The neutral parameters: every stage passes its input unchanged (R90). -/
def gradeNeutral : GradeParams := ⟨f32One, f32One, f32One, f32Zero, f32Zero, false, 0, 0⟩

/-! ### Philox-4x32-10 and race noise (R104) -/

/-- The two 32-bit halves of a 64-bit product. -/
def mulHiLo (a b : Nat) : Nat × Nat := (a * b / 2 ^ 32, a * b % 2 ^ 32)

/-- The four words of a Philox counter or output. -/
structure Quad where
  x0 : Nat
  x1 : Nat
  x2 : Nat
  x3 : Nat
deriving DecidableEq, Repr

/-- `n` rounds of Philox-4x32 with the published multipliers and key increments (R104) (PRESUMED, log entry 128). -/
def philoxRounds : Nat → Quad → Nat → Nat → Quad
  | 0, c, _, _ => c
  | n + 1, c, k0, k1 =>
    let p := mulHiLo 0xD2511F53 c.x0
    let q := mulHiLo 0xCD9E8D57 c.x2
    philoxRounds n ⟨Nat.xor (Nat.xor q.1 c.x1) k0, q.2, Nat.xor (Nat.xor p.1 c.x3) k1, p.2⟩
      ((k0 + 0x9E3779B9) % 2 ^ 32) ((k1 + 0xBB67AE85) % 2 ^ 32)

/-- The first output word of Philox-4x32-10 for a seed, an RNG step, a token and a draw index (R104). -/
def philoxWord (seed step : Dword) (t d : Nat) : Nat :=
  (philoxRounds 10 ⟨step.toNat % 2 ^ 32, step.toNat / 2 ^ 32, t % 2 ^ 32, d % 2 ^ 32⟩
    (seed.toNat % 2 ^ 32) (seed.toNat / 2 ^ 32)).x0

/-- u = (2 * (x0 >> 9) + 1) * 2^-24, exact (R104). -/
def uniformOf (x0 : Nat) : F32 := f32Pack false (2 * (x0 / 512) + 1) (-24)

/-- -ln x as rne(-log2(x) * LN2) (R104). -/
def negLn (log2 : F32 → F32) (x : F32) : F32 := fMul (fNeg (log2 x)) constLn2

/-- The race noise G of a token and draw index (R104). -/
def raceNoise (log2 : F32 → F32) (seed step : Dword) (t d : Nat) : F32 :=
  negLn log2 (negLn log2 (uniformOf (philoxWord seed step t d)))

/-! ### The five stages (Table 5.1) -/

/-- What stage 4 makes of a score (Table 5.3). -/
inductive GradeKind where
  | valid
  | masked
  | nan
  | infinite
deriving DecidableEq, Repr

/-- A graded score: g, the key r, and what stage 4 decided. -/
structure Graded where
  g : F32
  r : F32
  kind : GradeKind
deriving DecidableEq, Repr

/-- Stage 1 (R90): neutral when inv_t is 1.0. -/
def stageTemp (p : GradeParams) (raw : F32) : F32 := if p.invT = f32One then raw else fMul raw p.invT

/-- Stage 2 (R97). -/
def stageBias (e : GraderEntry) (g : F32) : F32 := if e.hasBias then fAdd g e.bias else g

/-- Stage 3 (R98): repetition, frequency, presence. -/
def stagePenalty (p : GradeParams) (e : GraderEntry) (g : F32) : F32 :=
  if e.hasCount then
    let g1 := if fLt f32Zero g then fMul g p.invRho else fMul g p.rho
    let g2 := fSub g1 (fMul (fOfNat e.count) p.phi)
    fSub g2 p.pi
  else g

/-- Stage 4's verdict, in the precedence of Table 5.3 (R102). -/
def stageMask (maskBit : Bool) (e : GraderEntry) (g : F32) : GradeKind :=
  if maskBit = false || e.ban then .masked
  else if fIsNan g then .nan
  else if fIsInf g then .infinite
  else .valid

/-- The whole lane: g, r and the verdict of one score (R90, R91, R106). -/
def gradeScore (log2 : F32 → F32) (p : GradeParams) (e : GraderEntry) (maskBit : Bool) (tok draw : Nat) (raw : F32) :
    Graded :=
  let g := stagePenalty p e (stageBias e (stageTemp p raw))
  match stageMask maskBit e g with
  | .valid =>
    let r := if p.noised then fAdd g (raceNoise log2 p.seed p.rngStep tok draw) else g
    ⟨fNoNegZero g, fNoNegZero r, .valid⟩
  | k => ⟨f32Masked, f32Masked, k⟩

/-! ### The statistics block (R107 to R110) -/

/-- A statistics block (Table 5.4). -/
structure Stats where
  m : F32
  s : F32
  w : F32
  valid : Nat
  masked : Nat
  nonfinite : Nat
  level : Nat
  ref : Bool
  hist : Bool
  hcount : List Nat
  hmass : List F32
deriving DecidableEq, Repr

/-- The block of a row with no valid score (R107). -/
def statsEmpty (level : Nat) (ref hist : Bool) : Stats :=
  ⟨f32Masked, f32Zero, f32Zero, 0, 0, 0, level, ref, hist, List.replicate 16 0, List.replicate 16 f32Zero⟩

/-- exp2 with the skip below -150 (R108). -/
def exp2Skip (exp2 : F32 → F32) (d : F32) : F32 := if fLt d constM150 then f32Zero else exp2 d

/-- The histogram bin min(15, floor(-d)), with a positive d taken as bin 0 (R110). -/
def histBin (d : F32) : Nat :=
  match f32Num d with
  | .fin true m e => min 15 (floorNat m e)
  | .inf true => 15
  | _ => 0

/-- The largest of a list of non-NaN values, starting from `a`. -/
def fMaxList : F32 → List F32 → F32
  | a, [] => a
  | a, b :: r => fMaxList (fMax a b) r

/-- The block of one batch of up to 64 graded scores; absent lanes are left out of the list's tail or are `none`
(R108, R110). `mref` is the reference maximum when the control word carries one. -/
def batchStats (exp2 : F32 → F32) (level : Nat) (mref : Option F32) (hist : Bool) (lanes : List (Option Graded)) : Stats :=
  let oks := lanes.filterMap fun l => match l with | some x => if x.kind = .valid then some x.g else none | none => none
  let cnt (k : GradeKind) : Nat := (lanes.filter fun l => match l with | some x => x.kind = k | none => false).length
  let e0 := statsEmpty level mref.isSome hist
  let base : Stats := { e0 with valid := oks.length, masked := cnt .masked, nonfinite := cnt .nan + cnt .infinite }
  match oks with
  | [] => base
  | g0 :: gs =>
    let m := match mref with | some x => x | none => fMaxList g0 gs
    if level = 0 then { base with m := m }
    else
      let pad := lanes ++ List.replicate (64 - lanes.length) none
      let terms : List (Option (F32 × F32 × F32)) := pad.map fun l =>
        match l with
        | some x =>
          if x.kind = .valid then
            let dg := fSub x.g m
            let d := fMul dg constL2e
            let e := exp2Skip exp2 d
            some (e, fMul e dg, d)
          else none
        | none => none
      let es := terms.map fun t => match t with | some (e, _, _) => e | none => f32Zero
      let ws := terms.map fun t => match t with | some (_, w, _) => w | none => f32Zero
      let withHist : Stats :=
        if hist then
          let inBin (i : Nat) (t : Option (F32 × F32 × F32)) : Bool := match t with | some (_, _, d) => histBin d == i | none => false
          { base with
            hcount := (List.range 16).map fun i => (terms.filter (inBin i)).length
            hmass := (List.range 16).map fun i => pairSum 6 (terms.map fun t => if inBin i t then (match t with | some (e, _, _) => e | none => f32Zero) else f32Zero) }
        else base
      { withHist with m := m, s := pairSum 6 es, w := if level = 2 then pairSum 6 ws else f32Zero }

/-- The three sums of combine, under the two maxima (R109). -/
def combineSums (exp2 : F32 → F32) (level : Nat) (a b : Stats) : F32 × F32 × F32 :=
  if b.valid = 0 then (a.m, a.s, a.w)
  else if a.valid = 0 then (b.m, b.s, b.w)
  else if level = 0 then (if fLt a.m b.m then b.m else a.m, f32Zero, f32Zero)
  else if fEq a.m b.m then (a.m, fAdd a.s b.s, if level = 2 then fAdd a.w b.w else f32Zero)
  else
    let hi := if fLt a.m b.m then b else a
    let lo := if fLt a.m b.m then a else b
    let dm := fSub lo.m hi.m
    let f := exp2Skip exp2 (fMul dm constL2e)
    (hi.m, fAdd hi.s (fMul lo.s f),
      if level = 2 then fAdd hi.w (fMul f (fAdd lo.w (fMul lo.s dm))) else f32Zero)

/-- combine(a, b) of R109, with the histogram of R110. -/
def combineStats (exp2 : F32 → F32) (a b : Stats) : Stats :=
  let r := combineSums exp2 a.level a b
  { m := r.1, s := r.2.1, w := r.2.2
    valid := a.valid + b.valid, masked := a.masked + b.masked, nonfinite := a.nonfinite + b.nonfinite
    level := a.level, ref := a.ref, hist := a.hist
    hcount := List.zipWith (· + ·) a.hcount b.hcount
    hmass := List.zipWith fAdd a.hmass b.hmass }

/-! ### Windrows (R29, R111, R112) -/

/-- A windrow entry: token ID in bits [31:0], sort key in bits [63:32] (R29). -/
structure Entry where
  tok : Nat
  key : F32
deriving DecidableEq, Repr

/-- The order of R29: descending key, equal keys by ascending token. -/
def ranksBefore (a b : Entry) : Bool := fLt b.key a.key || (fEq b.key a.key && decide (a.tok < b.tok))

/-- Place an entry in a sorted list (R29). -/
def placeEntry (e : Entry) : List Entry → List Entry
  | [] => [e]
  | x :: xs => if ranksBefore e x then e :: x :: xs else x :: placeEntry e xs

/-- Insert an eligible entry in a windrow of at most `kw` entries (R111). -/
def insertEntry (kw : Nat) (w : List Entry) (e : Entry) : List Entry := (placeEntry e w).take kw

/-- Fold the lanes of a batch into a windrow: not masked and key at least theta (R111). `useR` picks the key. -/
def insertBatch (kw : Nat) (theta : F32) (useR : Bool) : List Entry → List (Nat × Graded) → List Entry
  | w, [] => w
  | w, (t, x) :: r =>
    let key := if useR then x.r else x.g
    if x.kind = .valid && fLe theta key then insertBatch kw theta useR (insertEntry kw w ⟨t, key⟩) r
    else insertBatch kw theta useR w r

end Sys2Proof.Machine
end

