-- ==== Sys2Proof/Machine/Selection.lean ====
section
/-!
DEFINITION. Selection: cuts and thresholds, the rake merge, the walk over delivered entries, harvest masses, and the finalisation of
RACE and LEDGER rows (06_selection.md R114 to R129, 07_race_and_ledger.md R133 to R141).
-/

namespace Sys2Proof.Machine

/-- The two special functions a decision needs, in the generation its sheet latched (R182). -/
structure Sfu where
  exp2 : F32 → F32
  log2 : F32 → F32

/-! ### Cuts (R114, R115, R117) -/

/-- Cut parameters of a row (Table 6.2). -/
structure CutParams where
  kTop : Nat
  pMin : F32
  eps : F32
  pTop : F32
  passLimit : Nat
deriving DecidableEq, Repr

/-- The cuts at their off values. -/
def cutsOff : CutParams := ⟨0, f32Zero, f32Zero, f32One, 1⟩

/-- Top-k is active (R114). -/
def CutParams.kOn (c : CutParams) : Bool := c.kTop != 0
/-- Min-p is active: compared as a number, so -0 is off (R114). -/
def CutParams.minOn (c : CutParams) : Bool := !fEq c.pMin f32Zero
/-- Epsilon is active (R114). -/
def CutParams.epsOn (c : CutParams) : Bool := !fEq c.eps f32Zero
/-- Top-p is active (R114). -/
def CutParams.topOn (c : CutParams) : Bool := !fEq c.pTop f32One
/-- One or more cuts active. -/
def CutParams.anyOn (c : CutParams) : Bool := c.kOn || c.minOn || c.epsOn || c.topOn

/-- PASS_LIMIT with 0 taken as 1 (R115). -/
def CutParams.limit (c : CutParams) : Nat := max 1 c.passLimit

/-- The ranges of Table 6.2 but for PASS_LIMIT (R115). -/
def CutParams.rangesOk (c : CutParams) : Bool :=
  decide (c.kTop ≤ 4096) &&
  fIsFinite c.pMin && fLe f32Zero c.pMin && fLe c.pMin f32One &&
  fIsFinite c.eps && fLe f32Zero c.eps && fLt c.eps f32One &&
  fIsFinite c.pTop && fLt f32Zero c.pTop && fLe c.pTop f32One

/-- PASS_LIMIT and K_TOP against it, checked for RACE and LEDGER rows only (R115). -/
def CutParams.passOk (c : CutParams) : Bool := decide (c.passLimit ≤ 16) && decide (c.kTop ≤ 256 * c.limit)

/-- Thresholds in force for a row, none where a cut is off (R117). -/
structure Thresholds where
  k : Option Nat
  tauMin : Option F32
  tauEps : Option F32
  target : Option F32
deriving DecidableEq, Repr

/-- ln S as rne(log2(S) * LN2). -/
def lnOf (f : Sfu) (s : F32) : F32 := fMul (f.log2 s) constLn2

/-- lse = rne(M + ln S) (R117). -/
def lseOf (f : Sfu) (m s : F32) : F32 := fAdd m (lnOf f s)

/-- The entropy of R135, with a rounded negative or -0 reported as +0. -/
def entropyOf (f : Sfu) (s w : F32) : F32 :=
  let e := fSub (lnOf f s) (fDiv w s)
  if fLt f32Zero e then e else f32Zero

/-- The thresholds of R117 from the row's statistics. -/
def thresholdsOf (f : Sfu) (c : CutParams) (m s : F32) : Thresholds :=
  ⟨if c.kOn then some c.kTop else none,
   if c.minOn then some (fAdd m (fMul (f.log2 c.pMin) constLn2)) else none,
   if c.epsOn then some (fAdd (lseOf f m s) (fMul (f.log2 c.eps) constLn2)) else none,
   if c.topOn then some (fMul c.pTop s) else none⟩

/-- theta of a further pass: tau_min, tau_eps, or the larger of both (R124). -/
def Thresholds.theta (t : Thresholds) : F32 :=
  match t.tauMin, t.tauEps with
  | some a, some b => fMax a b
  | some a, none => a
  | none, some b => b
  | none, none => f32NegInf

/-- exp(g - M) as R108 and R117 form it, with the skip below -150. -/
def expTerm (f : Sfu) (g m : F32) : F32 := exp2Skip f.exp2 (fMul (fSub g m) constL2e)

/-! ### The rake merge (R119, R121) -/

/-- The child whose first entry ranks before the others, the lowest index on a tie (R119). -/
def pickBest : Nat → List (List Entry) → Option (Nat × Entry)
  | _, [] => none
  | i, w :: ws =>
    match w.head?, pickBest (i + 1) ws with
    | none, r => r
    | some e, none => some (i, e)
    | some e, some (j, x) => if ranksBefore x e then some (j, x) else some (i, e)

/-- Drop the first entry of child `i`. -/
def dropHead (i : Nat) (ws : List (List Entry)) : List (List Entry) := ws.modify i List.tail

/-- A merged windrow and the dropped duplicates as (child index, token). -/
structure MergeOut where
  out : List Entry
  dups : List (Nat × Nat)
deriving DecidableEq, Repr

/-- The rake merge of R119. `fuel` bounds the entries looked at; `acc` holds the emitted entries newest first. -/
def rakeMergeAux : Nat → Nat → List (List Entry) → List Entry → List (Nat × Nat) → MergeOut
  | 0, _, _, acc, d => ⟨acc.reverse, d.reverse⟩
  | fuel + 1, kw, ws, acc, d =>
    if kw ≤ acc.length then ⟨acc.reverse, d.reverse⟩
    else
      match pickBest 0 ws with
      | none => ⟨acc.reverse, d.reverse⟩
      | some (i, e) =>
        if acc.any (fun x => x.tok == e.tok) then rakeMergeAux fuel kw (dropHead i ws) acc ((i, e.tok) :: d)
        else rakeMergeAux fuel kw (dropHead i ws) (e :: acc) d

/-- The rake merge over children's windrows in child order (R119). -/
def rakeMerge (kw : Nat) (ws : List (List Entry)) : MergeOut :=
  rakeMergeAux ((ws.map List.length).sum + 1) kw ws [] []

/-- The fold of the children's statistics from the left (R120). -/
def foldStats (exp2 : F32 → F32) : List Stats → Option Stats
  | [] => none
  | s :: r => some (r.foldl (combineStats exp2) s)

/-! ### The walk over delivered entries (R116 to R118, R125, R126) -/

/-- What the head pan keeps of a row's selection between passes. -/
structure SelWalk where
  delivered : Nat
  count : Nat
  c : F32
  closed : Bool
  best : Option Entry
  bestG : F32
  passes : Nat
deriving DecidableEq, Repr

/-- The walk before the first entry. -/
def selStart : SelWalk := ⟨0, 0, f32Zero, false, none, f32Zero, 0⟩

/-- Whether g lies below a threshold cut that is active (R116: equality keeps the token). -/
def belowCut (t : Thresholds) (g : F32) : Bool :=
  (match t.tauMin with | some a => fLt g a | none => false) || (match t.tauEps with | some a => fLt g a | none => false)

/-- One entry of the walk in rank order: the first always belongs, and the first prefix to end fixes the harvest (R116, R125). `key`
gives the race key of the entry (R126) (DEDUCED, log entry 122). -/
def walkEntry (f : Sfu) (t : Thresholds) (m : F32) (key : Entry → F32) (w : SelWalk) (e : Entry) : SelWalk :=
  let w1 := { w with delivered := w.delivered + 1 }
  if w.closed then w1
  else if w.count != 0 && belowCut t e.key then { w1 with closed := true }
  else
    let c := fAdd w.c (expTerm f e.key m)
    let n := w.count + 1
    let r := key e
    let ent : Entry := ⟨e.tok, r⟩
    let win := match w.best with | none => true | some b => ranksBefore ent b
    let closed := belowCut t e.key || t.k == some n || (match t.target with | some x => fLe x c | none => false)
    { w1 with count := n, c := c, closed := closed, best := if win then some ent else w.best, bestG := if win then e.key else w.bestG }

/-- The walk over one slice. -/
def walkSlice (f : Sfu) (t : Thresholds) (m : F32) (key : Entry → F32) (w : SelWalk) (es : List Entry) : SelWalk :=
  es.foldl (walkEntry f t m key) w

/-- What follows a selection pass (R125). -/
inductive PassEnd where
  | done
  | capped
  | more
deriving DecidableEq, Repr

/-- The end of a pass that delivered `n` entries under windrow length `kw`, `passes` taken so far (R125) (DEDUCED, log entry 122). -/
def passEnd (c : CutParams) (w : SelWalk) (n kw : Nat) : PassEnd :=
  if w.closed then .done
  else if n < kw then .done
  else if c.limit ≤ w.passes then .capped
  else .more

/-- kw of a further pass (R122). -/
def furtherKw (c : CutParams) (delivered : Nat) : Nat := if c.kOn then min 256 (c.kTop - delivered) else 256

/-- kw of a cut row's first pass (Table 6.1). -/
def cutKw (c : CutParams) : Nat := if c.kOn then min c.kTop 256 else 256

/-- Entries offered after a resume point (R122). -/
def afterResume (resume : Option Entry) (e : Entry) : Bool := match resume with | none => true | some p => ranksBefore p e

/-- The harvest mass min(1.0, Sh / S) (R118). -/
def harvestMass (sh s : F32) : F32 :=
  let q := fDiv sh s
  if fLt f32One q then f32One else q

/-- The bittern mass rne(1.0 - h) (R118). -/
def bitternMass (h : F32) : F32 := fSub f32One h

/-- The probability of an entry: its exponential over S (R140). -/
def probOf (f : Sfu) (g m s : F32) : F32 := fDiv (expTerm f g m) s

/-- A list entry of a LEDGER row: token, p, lp (R140). -/
def ledgerItem (f : Sfu) (m s : F32) (e : Entry) : Nat × F32 × F32 := (e.tok, probOf f e.key m s, fSub e.key (lseOf f m s))

end Sys2Proof.Machine
end

