-- ==== Sys2Proof/Machine/Sparse.lean ====
section
/-!
DEFINITION. Sparse arrays in one canonical form: a list of (index, value) pairs with strictly rising indices and no value equal to
the array's default. Brine-store memory is such a list of (address, byte) pairs with default 0.
-/

namespace Sys2Proof.Machine

variable {α : Type} [DecidableEq α]

/-- The value at index `k`, the default where nothing is listed. -/
def spGet (d : α) : List (Nat × α) → Nat → α
  | [], _ => d
  | (i, v) :: r, k => if i = k then v else spGet d r k

/-- Put a value at index `k` of a sorted list, whatever the value. -/
def spPut : List (Nat × α) → Nat → α → List (Nat × α)
  | [], k, v => [(k, v)]
  | (i, w) :: r, k, v => if k < i then (k, v) :: (i, w) :: r else if i = k then (k, v) :: r else (i, w) :: spPut r k v

/-- Remove index `k`. -/
def spDel (l : List (Nat × α)) (k : Nat) : List (Nat × α) := l.filter fun p => p.1 != k

/-- Write a value: writing the default removes the entry. -/
def spSet (d : α) (l : List (Nat × α)) (k : Nat) (v : α) : List (Nat × α) := if v = d then spDel l k else spPut l k v

/-- The canonical form: strictly rising indices, no default value. -/
def spWf (d : α) : List (Nat × α) → Bool
  | [] => true
  | [(_, v)] => v != d
  | (i, v) :: (j, w) :: r => v != d && decide (i < j) && spWf d ((j, w) :: r)

/-- Write a list of values from index `k` upward. -/
def spWrite (d : α) : List (Nat × α) → Nat → List α → List (Nat × α)
  | l, _, [] => l
  | l, k, v :: vs => spWrite d (spSet d l k v) (k + 1) vs

/-- Read `n` values from index `k` upward. -/
def spRead (d : α) (l : List (Nat × α)) (k n : Nat) : List α :=
  let near := l.filter fun p => decide (k ≤ p.1) && decide (p.1 < k + n)
  (List.range n).map fun i => spGet d near (k + i)

/-- Drop every entry with `lo ≤ index < hi`: those indices then read as the default. -/
def spClear (l : List (Nat × α)) (lo hi : Nat) : List (Nat × α) := l.filter fun p => decide (p.1 < lo) || decide (hi ≤ p.1)

/-- The entries of one range, moved to start at index 0. -/
def spSlice (l : List (Nat × α)) (lo hi : Nat) : List (Nat × α) :=
  (l.filter fun p => decide (lo ≤ p.1) && decide (p.1 < hi)).map fun p => (p.1 - lo, p.2)

/-- Write sparse entries at offset `off`. -/
def spOverlay (d : α) (l : List (Nat × α)) (off : Nat) : List (Nat × α) → List (Nat × α)
  | [] => l
  | (i, v) :: r => spOverlay d (spSet d l (off + i) v) off r

end Sys2Proof.Machine
end

