-- ==== Sys2Proof/Machine/Contexts.lean ====
section
/-!
DEFINITION. The context: its layout, the checks and effects of OPEN, SET and IMPORT, the token update at commit and prefix-block
hashing (10_contexts_and_packets.md, R191 to R203).
-/

namespace Sys2Proof.Machine

/-- Context states (R191). -/
inductive CtxPhase where
  | free
  | opened
  | closing
deriving DecidableEq, Repr

/-- A context (Tables 10.4 and 10.5). Reserved bytes are 0 and are not held. The ring lists its non-zero places. -/
structure Ctx where
  phase : CtxPhase
  temp : F32
  rho : F32
  phi : F32
  pi : F32
  cuts : CutParams
  hashBlock : Nat
  countMode : Nat
  listLen : Nat
  maskRef : Nat
  adapter : Nat
  seed : Dword
  rngStep : Dword
  epoch : Dword
  hashChain : Dword
  hashAcc : Dword
  hashPos : Nat
  histLen : Nat
  histHead : Nat
  pin : Nat
  countDrops : Nat
  bias : List (Nat × F32)
  counts : List (Nat × Nat)
  ring : List (Nat × Nat)
deriving DecidableEq, Repr

/-- A FREE context: every byte reads 0 (R191). -/
def ctxFree : Ctx :=
  ⟨.free, f32Zero, f32Zero, f32Zero, f32Zero, ⟨0, f32Zero, f32Zero, f32Zero, 0⟩, 0, 0, 0, 0, 0, 0, 0, 0, 0, 0, 0, 0, 0, 0, 0, [], [], []⟩

/-- No adapter, no mask, no pin: 0xFFFF. -/
def none16 : Nat := 0xFFFF

/-- H0 of R199. -/
def hashH0 : Dword := 0x726F6C75626D6144#64
/-- M1 of R199. -/
def hashM1 : Dword := 0x8F3AD5C16B27E94D#64
/-- M2 of R199. -/
def hashM2 : Dword := 0x5E91C0B73A4D82F7#64

/-- mix of R199. -/
def hashMix (x : Dword) : Dword :=
  let a := (x ^^^ (x >>> 32)) * hashM1
  let b := (a ^^^ (a >>> 29)) * hashM2
  b ^^^ (b >>> 32)

/-- hash_token of R199 on one token; the second part says whether a block completed. -/
def hashToken (c : Ctx) (t : Nat) : Ctx × Bool :=
  if c.hashBlock = 0 then (c, false)
  else
    let acc := hashMix (c.hashAcc ^^^ BitVec.ofNat 64 t)
    if c.hashPos + 1 = c.hashBlock then
      let ch := hashMix (acc ^^^ (BitVec.ofNat 64 c.hashBlock <<< 56))
      ({ c with hashChain := ch, hashAcc := ch ^^^ hashH0, hashPos := 0 }, true)
    else ({ c with hashAcc := acc, hashPos := c.hashPos + 1 }, false)

/-- The count of a token in a count table, 0 where it has no entry. -/
def countOf (cs : List (Nat × Nat)) (t : Nat) : Nat := spGet 0 cs t

/-- A leaving token's count falls by 1 under WINDOW; an entry that reaches 0 is removed (R198). -/
def leaveCount (cs : List (Nat × Nat)) (t : Nat) : List (Nat × Nat) := spSet 0 cs t (countOf cs t - 1)

/-- Step 1 of R198: a full window loses its oldest token. -/
def histLeave (c : Ctx) : Ctx :=
  if c.histLen = 4096 then
    let old := spGet 0 c.ring c.histHead
    { c with
      histHead := (c.histHead + 1) % 4096
      histLen := 4095
      counts := if c.countMode = 1 then leaveCount c.counts old else c.counts }
  else c

/-- What applying one token reports to the row's record (R198, R199). -/
structure TokenEffect where
  ctx : Ctx
  dropped : Bool
  blockDone : Bool
deriving DecidableEq, Repr

/-- One token of R198: window, count, hash. -/
def applyToken (c0 : Ctx) (t : Nat) : TokenEffect :=
  let c1 := histLeave c0
  let c2 := { c1 with ring := spSet 0 c1.ring ((c1.histHead + c1.histLen) % 4096) t, histLen := c1.histLen + 1 }
  let cur := countOf c2.counts t
  let full := cur = 0 ∧ c2.counts.length = 8192
  let c3 :=
    if full then { c2 with countDrops := satAdd 0xFFFFFFFF c2.countDrops 1 }
    else { c2 with counts := spSet 0 c2.counts t (satAdd 0xFFFFFFFF cur 1) }
  let h := hashToken c3 t
  ⟨h.1, decide full, h.2⟩

/-- What a row's tokens report: drops, completed blocks, and the chain after the last of them. -/
structure TokensEffect where
  ctx : Ctx
  drops : Nat
  blocks : Nat
  hash : Dword
deriving DecidableEq, Repr

/-- A row's tokens in order (R198). -/
def applyTokens : TokensEffect → List Nat → TokensEffect
  | e, [] => e
  | e, t :: ts =>
    let r := applyToken e.ctx t
    applyTokens ⟨r.ctx, e.drops + bit01 r.dropped, e.blocks + bit01 r.blockDone, if r.blockDone then r.ctx.hashChain else e.hash⟩ ts

/-! ### The byte layout (Tables 10.4 and 10.5) -/

/-- A binary32 field at an offset. -/
def f32At (bs : List Byte) (off : Nat) : F32 := BitVec.ofNat 32 (leAt bs off 4)

/-- Bytes 0 to 103 of the parameter block (Table 10.5). -/
def paramBytes (c : Ctx) : List Byte :=
  leBytes 4 c.temp.toNat ++ leBytes 4 c.rho.toNat ++ leBytes 4 c.phi.toNat ++ leBytes 4 c.pi.toNat ++
  leBytes 4 c.cuts.kTop ++ leBytes 4 c.cuts.pMin.toNat ++ leBytes 4 c.cuts.eps.toNat ++ leBytes 4 c.cuts.pTop.toNat ++
  leBytes 1 c.cuts.passLimit ++ leBytes 1 c.hashBlock ++ leBytes 1 c.countMode ++ leBytes 1 0 ++
  leBytes 2 c.listLen ++ leBytes 2 c.maskRef ++ leBytes 2 c.adapter ++ leBytes 6 0 ++
  leBytes 8 c.seed.toNat ++ leBytes 8 c.rngStep.toNat ++
  leBytes 8 c.epoch.toNat ++ leBytes 8 c.hashChain.toNat ++ leBytes 8 c.hashAcc.toNat ++
  leBytes 2 c.hashPos ++ leBytes 2 c.counts.length ++ leBytes 2 c.bias.length ++
  leBytes 2 c.histLen ++ leBytes 2 c.histHead ++ leBytes 2 c.pin ++ leBytes 4 c.countDrops

/-- The 98,304 bytes of a context (Table 10.4). -/
def ctxBytes (c : Ctx) : List Byte :=
  padTo 0x2000 (paramBytes c) ++
  padTo 0x2000 (c.bias.flatMap fun p => leBytes 4 p.1 ++ leBytes 4 p.2.toNat) ++
  ((List.range 4096).flatMap fun i => leBytes 4 (spGet 0 c.ring i)) ++
  padTo 0x10000 (c.counts.flatMap fun p => leBytes 4 p.1 ++ leBytes 4 p.2)

/-- Token and bias entries in `n` 8-byte entries. -/
def biasAt (bs : List Byte) (off n : Nat) : List (Nat × F32) :=
  (List.range n).map fun i => (leAt bs (off + 8 * i) 4, f32At bs (off + 8 * i + 4))

/-- Token and count entries in `n` 8-byte entries. -/
def countsAt (bs : List Byte) (off n : Nat) : List (Nat × Nat) :=
  (List.range n).map fun i => (leAt bs (off + 8 * i) 4, leAt bs (off + 8 * i + 4) 4)

/-- `n` tokens. -/
def tokensAt (bs : List Byte) (off n : Nat) : List Nat := (List.range n).map fun i => leAt bs (off + 4 * i) 4

/-- A ring that holds tokens from index 0 upward. -/
def ringOf (ts : List Nat) : List (Nat × Nat) := spWrite 0 [] 0 ts

/-- Bytes 0 to 63 of a parameter block read into a context. -/
def readSampling (c : Ctx) (bs : List Byte) : Ctx :=
  { c with
    temp := f32At bs 0, rho := f32At bs 4, phi := f32At bs 8, pi := f32At bs 12
    cuts := ⟨leAt bs 16 4, f32At bs 20, f32At bs 24, f32At bs 28, leAt bs 32 1⟩
    listLen := leAt bs 36 2 }

/-- HASH_BLOCK and HASH_CHAIN under bit 1 of Table 10.7. -/
def readHash (c : Ctx) (bs : List Byte) : Ctx :=
  let ch : Dword := BitVec.ofNat 64 (leAt bs 72 8)
  { c with hashBlock := leAt bs 33 1, hashChain := ch, hashAcc := ch ^^^ hashH0, hashPos := 0 }

/-- The context an OPEN writes, before its pin (R194). `bs` is the body: parameter block, bias, counts, history, each padded to 64. -/
def openCtx (bs : List Byte) (nBias nCount nHist : Nat) : Ctx :=
  let o1 := 256
  let o2 := o1 + pad64 (8 * nBias)
  let o3 := o2 + pad64 (8 * nCount)
  let c := readHash (readSampling ctxFree bs) bs
  { c with
    phase := .opened
    countMode := leAt bs 34 1
    maskRef := leAt bs 38 2
    adapter := leAt bs 40 2
    seed := BitVec.ofNat 64 (leAt bs 48 8)
    rngStep := BitVec.ofNat 64 (leAt bs 56 8)
    pin := none16
    bias := biasAt bs o1 nBias
    counts := countsAt bs o2 nCount
    ring := ringOf (tokensAt bs o3 nHist)
    histLen := nHist
    histHead := 0 }

/-- The context a SET leaves, before a re-pin (R194, Table 10.7) (DEDUCED, log entry 24). -/
def setCtx (c : Ctx) (mask : Nat) (bs : List Byte) (nBias nCount nHist : Nat) : Ctx :=
  let o1 := 256
  let o2 := o1 + pad64 (8 * nBias)
  let o3 := o2 + pad64 (8 * nCount)
  let c := if bitOf mask 0 then readSampling c bs else c
  let c := if bitOf mask 1 then readHash c bs else c
  let c := if bitOf mask 2 then { c with countMode := leAt bs 34 1 } else c
  let c := if bitOf mask 3 then { c with maskRef := leAt bs 38 2 } else c
  let c := if bitOf mask 4 then { c with adapter := leAt bs 40 2 } else c
  let c := if bitOf mask 5 then { c with seed := BitVec.ofNat 64 (leAt bs 48 8) } else c
  let c := if bitOf mask 6 then { c with rngStep := BitVec.ofNat 64 (leAt bs 56 8) } else c
  let c := if bitOf mask 7 then { c with bias := biasAt bs o1 nBias } else c
  let c := if bitOf mask 8 then { c with counts := countsAt bs o2 nCount, countDrops := 0 } else c
  let c := if bitOf mask 9 then { c with ring := ringOf (tokensAt bs o3 nHist), histLen := nHist, histHead := 0 } else c
  { c with epoch := c.epoch + 1 }

/-- The context an IMPORT writes, before its pin (R195) (DESIGN CHOICE, log entry 137). -/
def importCtx (bs : List Byte) : Ctx :=
  let c := readSampling ctxFree bs
  { c with
    phase := .opened
    hashBlock := leAt bs 33 1, countMode := leAt bs 34 1, maskRef := leAt bs 38 2, adapter := leAt bs 40 2
    seed := BitVec.ofNat 64 (leAt bs 48 8), rngStep := BitVec.ofNat 64 (leAt bs 56 8)
    epoch := BitVec.ofNat 64 (leAt bs 64 8), hashChain := BitVec.ofNat 64 (leAt bs 72 8)
    hashAcc := BitVec.ofNat 64 (leAt bs 80 8), hashPos := leAt bs 88 2
    histLen := leAt bs 94 2, histHead := leAt bs 96 2, pin := none16, countDrops := leAt bs 100 4
    bias := biasAt bs 0x2000 (min 1024 (leAt bs 92 2))
    counts := countsAt bs 0x8000 (min 8192 (leAt bs 90 2))
    ring := ringOf (tokensAt bs 0x4000 4096) }

/-! ### Checks (R195) -/

/-- Whether all bytes of a range are zero. -/
def zerosAt (bs : List Byte) (off n : Nat) : Bool := (sliceBytes bs off n).all (· == 0)

/-- Strictly ascending keys. -/
def ascending : List Nat → Bool
  | a :: b :: r => decide (a < b) && ascending (b :: r)
  | _ => true

/-- HASH_BLOCK is one of the values of Table 10.5. -/
def hashBlockOk (b : Nat) : Bool := b == 0 || b == 8 || b == 16 || b == 32 || b == 64

/-- The structural checks of R195 on the context that an operation would leave. Of the history ring, the tokens of the window are checked:
slots outside HIST_LEN may hold any value, and are kept (DESIGN CHOICE, log entry 137). -/
def ctxOk (vocab : Nat) (c : Ctx) : Bool :=
  (c.bias.all fun p => decide (p.1 < vocab)) && (c.counts.all fun p => decide (p.1 < vocab) && decide (1 ≤ p.2)) &&
  ((List.range c.histLen).all fun i => decide (spGet 0 c.ring ((c.histHead + i) % 4096) < vocab)) &&
  ascending (c.bias.map (·.1)) && ascending (c.counts.map (·.1)) &&
  decide (c.bias.length ≤ 1024) && decide (c.counts.length ≤ 8192) && decide (c.histLen ≤ 4096) &&
  hashBlockOk c.hashBlock && (if c.hashBlock = 0 then c.hashPos == 0 else decide (c.hashPos < c.hashBlock)) &&
  decide (c.countMode ≤ 1) && decide (c.histHead < 4096)

/-- Reserved bytes of bytes 0 to 63 of a body's parameter block (Table 10.5). -/
def paramReservedOk (bs : List Byte) : Bool := zerosAt bs 35 1 && zerosAt bs 42 6

/-- Reserved areas and unused table entries of an imported context (R195). -/
def importReservedOk (bs : List Byte) : Bool :=
  paramReservedOk bs && zerosAt bs 104 (0x2000 - 104) && decide (leAt bs 92 2 ≤ 1024) && decide (leAt bs 90 2 ≤ 8192) &&
  zerosAt bs (0x2000 + 8 * leAt bs 92 2) (0x2000 - 8 * leAt bs 92 2) &&
  zerosAt bs (0x8000 + 8 * leAt bs 90 2) (0x10000 - 8 * leAt bs 90 2)

/-! ### Grader list (R93) -/

/-- Tokens of two ascending key lists in one ascending list without repeats. -/
def mergeKeys : Nat → List Nat → List Nat → List Nat
  | 0, a, b => a ++ b
  | _, [], b => b
  | _, a, [] => a
  | f + 1, a :: as, b :: bs =>
    if a < b then a :: mergeKeys f as (b :: bs)
    else if b < a then b :: mergeKeys f (a :: as) bs
    else a :: mergeKeys f as bs

/-- A bias of +infinity or NaN (R93). -/
def badBias (b : F32) : Bool := fIsNan b || b == f32PosInf

/-- The bias of a token, none where the table has no entry. -/
def biasOf (bs : List (Nat × F32)) (t : Nat) : Option F32 := (bs.find? fun p => p.1 == t).map (·.2)

/-- The grader entry of a token from its count and bias, without its place (R93, R94). -/
def graderFor (count : Nat) (bias : Option F32) : GraderEntry :=
  let ban := bias == some f32NegInf
  ⟨0, 0, min count 16777215, if ban then f32Zero else bias.getD f32Zero, ban, bias.isSome && !ban, decide (0 < count)⟩

/-- The parameter checks of R92. -/
def paramsOk (c : Ctx) : Bool :=
  let posNormal (x : F32) : Bool := fIsFinite x && fLe 0x00800000#32 x
  (c.temp == f32Zero || posNormal c.temp) && posNormal c.rho && fIsFinite c.phi && fIsFinite c.pi

/-- The control-word parameters of a row (R92, R104): noise on for a RACE or VERIFY row with T > 0. -/
def gradeParamsOf (c : Ctx) (noised : Bool) : GradeParams :=
  ⟨if c.temp = f32Zero then f32One else fDiv f32One c.temp, c.rho, fDiv f32One c.rho, c.phi, c.pi,
   noised && c.temp != f32Zero, c.seed, c.rngStep⟩

end Sys2Proof.Machine
end

