-- ==== Sys2Proof/Machine/BuiltinTables.lean ====
section
/-!
DEFINITION. The endpoints of the built-in generation (09_functions.md, R173): every native endpoint y[0..64] of slots 1 to 8 is
the exact function value at its point, rounded once to the nearest binary32. The words were computed from that definition in
80-digit decimal arithmetic. The Vell points are every fourth native point (R169, R170).
-/

namespace Sys2Proof.Machine

/-- Endpoints of slot 1, exp2: 2^(i/64) (R173). -/
def builtinExp2 : List F32 :=
  [0x3F800000#32, 0x3F8164D2#32, 0x3F82CD87#32, 0x3F843A29#32, 0x3F85AAC3#32, 0x3F871F62#32, 0x3F88980F#32, 0x3F8A14D5#32] ++
  [0x3F8B95C2#32, 0x3F8D1ADF#32, 0x3F8EA43A#32, 0x3F9031DC#32, 0x3F91C3D3#32, 0x3F935A2B#32, 0x3F94F4F0#32, 0x3F96942D#32] ++
  [0x3F9837F0#32, 0x3F99E046#32, 0x3F9B8D3A#32, 0x3F9D3EDA#32, 0x3F9EF532#32, 0x3FA0B051#32, 0x3FA27043#32, 0x3FA43516#32] ++
  [0x3FA5FED7#32, 0x3FA7CD94#32, 0x3FA9A15B#32, 0x3FAB7A3A#32, 0x3FAD583F#32, 0x3FAF3B79#32, 0x3FB123F6#32, 0x3FB311C4#32] ++
  [0x3FB504F3#32, 0x3FB6FD92#32, 0x3FB8FBAF#32, 0x3FBAFF5B#32, 0x3FBD08A4#32, 0x3FBF179A#32, 0x3FC12C4D#32, 0x3FC346CD#32] ++
  [0x3FC5672A#32, 0x3FC78D75#32, 0x3FC9B9BE#32, 0x3FCBEC15#32, 0x3FCE248C#32, 0x3FD06334#32, 0x3FD2A81E#32, 0x3FD4F35B#32] ++
  [0x3FD744FD#32, 0x3FD99D16#32, 0x3FDBFBB8#32, 0x3FDE60F5#32, 0x3FE0CCDF#32, 0x3FE33F89#32, 0x3FE5B907#32, 0x3FE8396A#32] ++
  [0x3FEAC0C7#32, 0x3FED4F30#32, 0x3FEFE4BA#32, 0x3FF28177#32, 0x3FF5257D#32, 0x3FF7D0DF#32, 0x3FFA83B3#32, 0x3FFD3E0C#32] ++
  [0x40000000#32]

/-- Endpoints of slot 2, log2: log2(1 + i/64) (R173). -/
def builtinLog2 : List F32 :=
  [0x00000000#32, 0x3CB73CB4#32, 0x3D35D69C#32, 0x3D8759C5#32, 0x3DB31FB8#32, 0x3DDE4212#32, 0x3E0462C4#32, 0x3E19574F#32] ++
  [0x3E2E00D2#32, 0x3E42615F#32, 0x3E567AF1#32, 0x3E6A4F72#32, 0x3E7DE0B6#32, 0x3E88983F#32, 0x3E92203D#32, 0x3E9B8926#32] ++
  [0x3EA4D3C2#32, 0x3EAE00D2#32, 0x3EB7110E#32, 0x3EC0052B#32, 0x3EC8DDD4#32, 0x3ED19BB0#32, 0x3EDA3F60#32, 0x3EE2C97D#32] ++
  [0x3EEB3A9F#32, 0x3EF39355#32, 0x3EFBD42B#32, 0x3F01FED4#32, 0x3F060828#32, 0x3F0A0650#32, 0x3F0DF989#32, 0x3F11E20F#32] ++
  [0x3F15C01A#32, 0x3F1993E3#32, 0x3F1D5DA0#32, 0x3F211D84#32, 0x3F24D3C2#32, 0x3F28808C#32, 0x3F2C2411#32, 0x3F2FBE80#32] ++
  [0x3F335004#32, 0x3F36D8CB#32, 0x3F3A58FF#32, 0x3F3DD0C8#32, 0x3F41404F#32, 0x3F44A7BA#32, 0x3F480731#32, 0x3F4B5ED7#32] ++
  [0x3F4EAED0#32, 0x3F51F740#32, 0x3F553848#32, 0x3F587209#32, 0x3F5BA4A4#32, 0x3F5ED039#32, 0x3F61F4E5#32, 0x3F6512C7#32] ++
  [0x3F6829FB#32, 0x3F6B3A9F#32, 0x3F6E44CD#32, 0x3F7148A1#32, 0x3F744636#32, 0x3F773DA4#32, 0x3F7A2F04#32, 0x3F7D1A71#32] ++
  [0x3F800000#32]

/-- Endpoints of slot 3, reciprocal: 1/(1 + i/64) (R173). -/
def builtinRecip : List F32 :=
  [0x3F800000#32, 0x3F7C0FC1#32, 0x3F783E10#32, 0x3F74898D#32, 0x3F70F0F1#32, 0x3F6D7304#32, 0x3F6A0EA1#32, 0x3F66C2B4#32] ++
  [0x3F638E39#32, 0x3F607038#32, 0x3F5D67C9#32, 0x3F5A740E#32, 0x3F579436#32, 0x3F54C77B#32, 0x3F520D21#32, 0x3F4F6475#32] ++
  [0x3F4CCCCD#32, 0x3F4A4588#32, 0x3F47CE0C#32, 0x3F4565C8#32, 0x3F430C31#32, 0x3F40C0C1#32, 0x3F3E82FA#32, 0x3F3C5264#32] ++
  [0x3F3A2E8C#32, 0x3F381703#32, 0x3F360B61#32, 0x3F340B41#32, 0x3F321643#32, 0x3F302C0B#32, 0x3F2E4C41#32, 0x3F2C7692#32] ++
  [0x3F2AAAAB#32, 0x3F28E83F#32, 0x3F272F05#32, 0x3F257EB5#32, 0x3F23D70A#32, 0x3F2237C3#32, 0x3F20A0A1#32, 0x3F1F1166#32] ++
  [0x3F1D89D9#32, 0x3F1C09C1#32, 0x3F1A90E8#32, 0x3F191F1A#32, 0x3F17B426#32, 0x3F164FDA#32, 0x3F14F209#32, 0x3F139A86#32] ++
  [0x3F124925#32, 0x3F10FDBC#32, 0x3F0FB824#32, 0x3F0E7835#32, 0x3F0D3DCB#32, 0x3F0C08C1#32, 0x3F0AD8F3#32, 0x3F09AE41#32] ++
  [0x3F088889#32, 0x3F0767AB#32, 0x3F064B8A#32, 0x3F053408#32, 0x3F042108#32, 0x3F03126F#32, 0x3F020821#32, 0x3F010204#32] ++
  [0x3F000000#32]

/-- Endpoints of slot 4, reciprocal square root: 32 segments on [1, 2), then 32 on [2, 4) (R173). -/
def builtinRsqrt : List F32 :=
  [0x3F800000#32, 0x3F7C1764#32, 0x3F785B42#32, 0x3F74C867#32, 0x3F715BEF#32, 0x3F6E133E#32, 0x3F6AEBF5#32, 0x3F67E3ED#32] ++
  [0x3F64F92E#32, 0x3F6229ED#32, 0x3F5F7483#32, 0x3F5CD76E#32, 0x3F5A514A#32, 0x3F57E0CF#32, 0x3F5584CD#32, 0x3F533C2E#32] ++
  [0x3F5105EC#32, 0x3F4EE116#32, 0x3F4CCCCD#32, 0x3F4AC83F#32, 0x3F48D2AB#32, 0x3F46EB5A#32, 0x3F4511A3#32, 0x3F4344E6#32] ++
  [0x3F41848F#32, 0x3F3FD012#32, 0x3F3E26EB#32, 0x3F3C889F#32, 0x3F3AF4BA#32, 0x3F396ACE#32, 0x3F37EA74#32, 0x3F36734A#32] ++
  [0x3F3504F3#32, 0x3F32416A#32, 0x3F2F9D53#32, 0x3F2D166C#32, 0x3F2AAAAB#32, 0x3F285835#32, 0x3F261D5F#32, 0x3F23F8A2#32] ++
  [0x3F21E89B#32, 0x3F1FEC04#32, 0x3F1E01B3#32, 0x3F1C2896#32, 0x3F1A5FB2#32, 0x3F18A61F#32, 0x3F16FB06#32, 0x3F155DA2#32] ++
  [0x3F13CD3A#32, 0x3F124925#32, 0x3F10D0C3#32, 0x3F0F6381#32, 0x3F0E00D5#32, 0x3F0CA83F#32, 0x3F0B5948#32, 0x3F0A137D#32] ++
  [0x3F08D677#32, 0x3F07A1D2#32, 0x3F067532#32, 0x3F05503E#32, 0x3F0432A5#32, 0x3F031C1A#32, 0x3F020C52#32, 0x3F01030A#32] ++
  [0x3F000000#32]

/-- Endpoints of slot 5, tanh: tanh(i/16) (R173). -/
def builtinTanh : List F32 :=
  [0x00000000#32, 0x3D7FAACD#32, 0x3DFEACC9#32, 0x3E3DC7FD#32, 0x3E7ACBF5#32, 0x3E9AFCC5#32, 0x3EB77A9F#32, 0x3ED2B94F#32] ++
  [0x3EEC9A9F#32, 0x3F028438#32, 0x3F0DFA3F#32, 0x3F18ABF0#32, 0x3F22991F#32, 0x3F2BC480#32, 0x3F343328#32, 0x3F3BEC1C#32] ++
  [0x3F42F7D6#32, 0x3F495FDA#32, 0x3F4F2E5B#32, 0x3F546DE6#32, 0x3F59291E#32, 0x3F5D6A85#32, 0x3F613C53#32, 0x3F64A852#32] ++
  [0x3F67B7CC#32, 0x3F6A737A#32, 0x3F6CE37D#32, 0x3F6F0F5B#32, 0x3F70FDFD#32, 0x3F72B5B8#32, 0x3F743C4F#32, 0x3F7596FF#32] ++
  [0x3F76CA83#32, 0x3F77DB1E#32, 0x3F78CCA7#32, 0x3F79A28F#32, 0x3F7A5FEB#32, 0x3F7B077E#32, 0x3F7B9BBB#32, 0x3F7C1ED6#32] ++
  [0x3F7C92C1#32, 0x3F7CF939#32, 0x3F7D53CA#32, 0x3F7DA3D0#32, 0x3F7DEA85#32, 0x3F7E28FB#32, 0x3F7E6026#32, 0x3F7E90E0#32] ++
  [0x3F7EBBE9#32, 0x3F7EE1E8#32, 0x3F7F0376#32, 0x3F7F2115#32, 0x3F7F3B3D#32, 0x3F7F5254#32, 0x3F7F66B6#32, 0x3F7F78B4#32] ++
  [0x3F7F8896#32, 0x3F7F969B#32, 0x3F7FA2FB#32, 0x3F7FADE8#32, 0x3F7FB78C#32, 0x3F7FC00E#32, 0x3F7FC791#32, 0x3F7FCE32#32] ++
  [0x3F7FD40C#32]

/-- Endpoints of slot 6, sigmoid: sigmoid(i/8) (R173). -/
def builtinSigmoid : List F32 :=
  [0x3F000000#32, 0x3F07FD56#32, 0x3F0FEACD#32, 0x3F17B900#32, 0x3F1F597F#32, 0x3F26BF31#32, 0x3F2DDEA8#32, 0x3F34AE54#32] ++
  [0x3F3B26A8#32, 0x3F41421C#32, 0x3F46FD20#32, 0x3F4C55F8#32, 0x3F514C90#32, 0x3F55E240#32, 0x3F5A1994#32, 0x3F5DF60E#32] ++
  [0x3F617BEB#32, 0x3F64AFED#32, 0x3F67972D#32, 0x3F6A36F3#32, 0x3F6C948F#32, 0x3F6EB543#32, 0x3F709E29#32, 0x3F725429#32] ++
  [0x3F73DBE6#32, 0x3F7539BD#32, 0x3F7671BF#32, 0x3F7787AD#32, 0x3F787EFE#32, 0x3F795ADC#32, 0x3F7A1E28#32, 0x3F7ACB80#32] ++
  [0x3F7B6541#32, 0x3F7BED8F#32, 0x3F7C6653#32, 0x3F7CD148#32, 0x3F7D2FF6#32, 0x3F7D83BF#32, 0x3F7DCDDE#32, 0x3F7E0F6B#32] ++
  [0x3F7E4961#32, 0x3F7E7C9D#32, 0x3F7EA9E5#32, 0x3F7ED1E8#32, 0x3F7EF542#32, 0x3F7F147D#32, 0x3F7F3013#32, 0x3F7F4870#32] ++
  [0x3F7F5DF4#32, 0x3F7F70F4#32, 0x3F7F81BB#32, 0x3F7F908B#32, 0x3F7F9D9E#32, 0x3F7FA92A#32, 0x3F7FB35B#32, 0x3F7FBC5A#32] ++
  [0x3F7FC44B#32, 0x3F7FCB4E#32, 0x3F7FD17E#32, 0x3F7FD6F4#32, 0x3F7FDBC6#32, 0x3F7FE007#32, 0x3F7FE3C8#32, 0x3F7FE719#32] ++
  [0x3F7FEA06#32]

/-- Endpoints of slot 7, SiLU: (i/8) * sigmoid(i/8) (R173). -/
def builtinSilu : List F32 :=
  [0x00000000#32, 0x3D87FD56#32, 0x3E0FEACD#32, 0x3E63957F#32, 0x3E9F597F#32, 0x3ED06EFE#32, 0x3F0266FE#32, 0x3F1E1889#32] ++
  [0x3F3B26A8#32, 0x3F596A5F#32, 0x3F78BC68#32, 0x3F8C7B1A#32, 0x3F9CF96C#32, 0x3FADC7D4#32, 0x3FBED662#32, 0x3FD016AD#32] ++
  [0x3FE17BEB#32, 0x3FF2FAEC#32, 0x4002450A#32, 0x400B10A0#32, 0x4013DCD9#32, 0x401CA6F4#32, 0x40256CBC#32, 0x402E2C7D#32] ++
  [0x4036E4EC#32, 0x403F951C#32, 0x40483C6B#32, 0x4050DA7A#32, 0x40596F1F#32, 0x4061FA57#32, 0x406A7C45#32, 0x4072F524#32] ++
  [0x407B6541#32, 0x4081E67E#32, 0x4086165C#32, 0x408A4273#32, 0x408E6AFA#32, 0x4092902A#32, 0x4096B23C#32, 0x409AD165#32] ++
  [0x409EEDDC#32, 0x40A307D4#32, 0x40A71F7E#32, 0x40AB3508#32, 0x40AF489E#32, 0x40B35A68#32, 0x40B76A8E#32, 0x40BB7932#32] ++
  [0x40BF8677#32, 0x40C3927B#32, 0x40C79D5A#32, 0x40CBA72E#32, 0x40CFB011#32, 0x40D3B817#32, 0x40D7BF55#32, 0x40DBC5DD#32] ++
  [0x40DFCBC2#32, 0x40E3D111#32, 0x40E7D5DA#32, 0x40EBDA29#32, 0x40EFDE0A#32, 0x40F3E187#32, 0x40F7E4AA#32, 0x40FBE77D#32] ++
  [0x40FFEA06#32]

/-- Endpoints of slot 8, tanh-GELU at i/8 (R173). -/
def builtinGelu : List F32 :=
  [0x00000000#32, 0x3D8CBB9A#32, 0x3E19447F#32, 0x3E781F87#32, 0x3EB1016D#32, 0x3EEADD80#32, 0x3F14784C#32, 0x3F353C63#32] ++
  [0x3F57585C#32, 0x3F7A6CF1#32, 0x3F8F1142#32, 0x3FA11627#32, 0x3FB32529#32, 0x3FC5251C#32, 0x3FD70389#32, 0x3FE8B431#32] ++
  [0x3FFA3042#32, 0x4005BAB0#32, 0x400E4255#32, 0x4016B0DC#32, 0x401F08DC#32, 0x40274D5A#32, 0x402F8177#32, 0x4037A83A#32] ++
  [0x403FC468#32, 0x4047D86B#32, 0x404FE64D#32, 0x4057EFB3#32, 0x405FF5E7#32, 0x4067F9E7#32, 0x406FFC68#32, 0x4077FDF0#32] ++
  [0x407FFED9#32, 0x4083FFB0#32, 0x4087FFD6#32, 0x408BFFEA#32, 0x408FFFF5#32, 0x4093FFFB#32, 0x4097FFFE#32, 0x409BFFFF#32] ++
  [0x40A00000#32, 0x40A40000#32, 0x40A80000#32, 0x40AC0000#32, 0x40B00000#32, 0x40B40000#32, 0x40B80000#32, 0x40BC0000#32] ++
  [0x40C00000#32, 0x40C40000#32, 0x40C80000#32, 0x40CC0000#32, 0x40D00000#32, 0x40D40000#32, 0x40D80000#32, 0x40DC0000#32] ++
  [0x40E00000#32, 0x40E40000#32, 0x40E80000#32, 0x40EC0000#32, 0x40F00000#32, 0x40F40000#32, 0x40F80000#32, 0x40FC0000#32] ++
  [0x41000000#32]

end Sys2Proof.Machine
end

