-- ==== Sys2Proof/Machine/Crc.lean ====
section
/-!
DEFINITION. The check codes the spec names: CRC-32C (04_brine_store.md R86), CRC-64/ECMA-182 (02_pans_and_tree.md R44) and
SHA-384, the digest of Chegazia images (16_image.md).
-/

namespace Sys2Proof.Machine

/-- One bit step of the reflected CRC-32C register, polynomial 0x1EDC_6F41 (R86). -/
def crc32Bit (c : Nat) : Nat := if c % 2 = 1 then Nat.xor (c / 2) 0x82F63B78 else c / 2

/-- `n` bit steps. -/
def crc32Bits : Nat → Nat → Nat
  | 0, c => c
  | n + 1, c => crc32Bits n (crc32Bit c)

/-- The CRC-32C register after a byte string. -/
def crc32Reg : Nat → List Byte → Nat
  | c, [] => c
  | c, b :: bs => crc32Reg (crc32Bits 8 (Nat.xor c b.toNat)) bs

/-- CRC-32C: initial value and final XOR 0xFFFF_FFFF (R86) (PRESUMED, log entry 128). -/
def crc32c (bs : List Byte) : Word := BitVec.ofNat 32 (Nat.xor (crc32Reg 0xFFFFFFFF bs) 0xFFFFFFFF)

/-- One bit step of the unreflected CRC-64/ECMA-182 register (R44). -/
def crc64Bit (c : Nat) : Nat :=
  if c / 2 ^ 63 = 1 then Nat.xor ((c * 2) % 2 ^ 64) 0x42F0E1EBA9EA3693 else c * 2

/-- `n` bit steps. -/
def crc64Bits : Nat → Nat → Nat
  | 0, c => c
  | n + 1, c => crc64Bits n (crc64Bit c)

/-- The CRC-64 register after a byte string. -/
def crc64Reg : Nat → List Byte → Nat
  | c, [] => c
  | c, b :: bs => crc64Reg (crc64Bits 8 (Nat.xor c (b.toNat * 2 ^ 56))) bs

/-- CRC-64/ECMA-182: initial value 0, no reflection, no final XOR (R44). -/
def crc64 (bs : List Byte) : Dword := BitVec.ofNat 64 (crc64Reg 0 bs)

/-! ### SHA-384 -/

/-- The 80 round constants of SHA-512 and SHA-384. -/
def shaK : List Nat :=
  [0x428A2F98D728AE22, 0x7137449123EF65CD, 0xB5C0FBCFEC4D3B2F, 0xE9B5DBA58189DBBC, 0x3956C25BF348B538] ++
  [0x59F111F1B605D019, 0x923F82A4AF194F9B, 0xAB1C5ED5DA6D8118, 0xD807AA98A3030242, 0x12835B0145706FBE] ++
  [0x243185BE4EE4B28C, 0x550C7DC3D5FFB4E2, 0x72BE5D74F27B896F, 0x80DEB1FE3B1696B1, 0x9BDC06A725C71235] ++
  [0xC19BF174CF692694, 0xE49B69C19EF14AD2, 0xEFBE4786384F25E3, 0x0FC19DC68B8CD5B5, 0x240CA1CC77AC9C65] ++
  [0x2DE92C6F592B0275, 0x4A7484AA6EA6E483, 0x5CB0A9DCBD41FBD4, 0x76F988DA831153B5, 0x983E5152EE66DFAB] ++
  [0xA831C66D2DB43210, 0xB00327C898FB213F, 0xBF597FC7BEEF0EE4, 0xC6E00BF33DA88FC2, 0xD5A79147930AA725] ++
  [0x06CA6351E003826F, 0x142929670A0E6E70, 0x27B70A8546D22FFC, 0x2E1B21385C26C926, 0x4D2C6DFC5AC42AED] ++
  [0x53380D139D95B3DF, 0x650A73548BAF63DE, 0x766A0ABB3C77B2A8, 0x81C2C92E47EDAEE6, 0x92722C851482353B] ++
  [0xA2BFE8A14CF10364, 0xA81A664BBC423001, 0xC24B8B70D0F89791, 0xC76C51A30654BE30, 0xD192E819D6EF5218] ++
  [0xD69906245565A910, 0xF40E35855771202A, 0x106AA07032BBD1B8, 0x19A4C116B8D2D0C8, 0x1E376C085141AB53] ++
  [0x2748774CDF8EEB99, 0x34B0BCB5E19B48A8, 0x391C0CB3C5C95A63, 0x4ED8AA4AE3418ACB, 0x5B9CCA4F7763E373] ++
  [0x682E6FF3D6B2B8A3, 0x748F82EE5DEFB2FC, 0x78A5636F43172F60, 0x84C87814A1F0AB72, 0x8CC702081A6439EC] ++
  [0x90BEFFFA23631E28, 0xA4506CEBDE82BDE9, 0xBEF9A3F7B2C67915, 0xC67178F2E372532B, 0xCA273ECEEA26619C] ++
  [0xD186B8C721C0C207, 0xEADA7DD6CDE0EB1E, 0xF57D4F7FEE6ED178, 0x06F067AA72176FBA, 0x0A637DC5A2C898A6] ++
  [0x113F9804BEF90DAE, 0x1B710B35131C471B, 0x28DB77F523047D84, 0x32CAAB7B40C72493, 0x3C9EBE0A15C9BEBC] ++
  [0x431D67C49C100D4C, 0x4CC5D4BECB3E42B6, 0x597F299CFC657E2A, 0x5FCB6FAB3AD6FAEC, 0x6C44198C4A475817]

/-- Rotate a 64-bit word right. -/
def ror64 (x n : Nat) : Nat := (x / 2 ^ n) + (x % 2 ^ n) * 2 ^ (64 - n)

/-- The message schedule, newest word first, extended `n` times from its 16 latest words. -/
def shaSchedule : Nat → List Nat → List Nat
  | 0, w => w
  | n + 1, w =>
    let x2 := w.getD 1 0
    let x15 := w.getD 14 0
    let s0 := Nat.xor (Nat.xor (ror64 x15 1) (ror64 x15 8)) (x15 / 2 ^ 7)
    let s1 := Nat.xor (Nat.xor (ror64 x2 19) (ror64 x2 61)) (x2 / 2 ^ 6)
    shaSchedule n (((w.getD 15 0) + s0 + (w.getD 6 0) + s1) % 2 ^ 64 :: w)

/-- The eight working words. -/
structure ShaState where
  a : Nat
  b : Nat
  c : Nat
  d : Nat
  e : Nat
  f : Nat
  g : Nat
  h : Nat
deriving DecidableEq, Repr

/-- The 80 rounds over constants and schedule. -/
def shaRounds : List Nat → List Nat → ShaState → ShaState
  | k :: ks, w :: ws, s =>
    let t1 := s.h + Nat.xor (Nat.xor (ror64 s.e 14) (ror64 s.e 18)) (ror64 s.e 41)
      + Nat.xor (Nat.land s.e s.f) (Nat.land (2 ^ 64 - 1 - s.e) s.g) + k + w
    let t2 := Nat.xor (Nat.xor (ror64 s.a 28) (ror64 s.a 34)) (ror64 s.a 39)
      + Nat.xor (Nat.xor (Nat.land s.a s.b) (Nat.land s.a s.c)) (Nat.land s.b s.c)
    shaRounds ks ws ⟨(t1 + t2) % 2 ^ 64, s.a, s.b, s.c, (s.d + t1) % 2 ^ 64, s.e, s.f, s.g⟩
  | _, _, s => s

/-- Big-endian value of a byte string. -/
def beNat (bs : List Byte) : Nat := leNat bs.reverse

/-- The 16 big-endian words of a block, first word first. -/
def shaWords : Nat → List Byte → List Nat
  | 0, _ => []
  | n + 1, bs => beNat (bs.take 8) :: shaWords n (bs.drop 8)

/-- One compression. -/
def shaBlock (s : ShaState) (blk : List Byte) : ShaState :=
  let w := (shaSchedule 64 (shaWords 16 blk).reverse).reverse
  let r := shaRounds shaK w s
  ⟨(s.a + r.a) % 2 ^ 64, (s.b + r.b) % 2 ^ 64, (s.c + r.c) % 2 ^ 64, (s.d + r.d) % 2 ^ 64,
   (s.e + r.e) % 2 ^ 64, (s.f + r.f) % 2 ^ 64, (s.g + r.g) % 2 ^ 64, (s.h + r.h) % 2 ^ 64⟩

/-- `n` blocks in turn. -/
def shaBlocks : Nat → ShaState → List Byte → ShaState
  | 0, s, _ => s
  | n + 1, s, bs => shaBlocks n (shaBlock s (bs.take 128)) (bs.drop 128)

/-- The SHA-384 initial hash value. -/
def sha384Init : ShaState :=
  ⟨0xCBBB9D5DC1059ED8, 0x629A292A367CD507, 0x9159015A3070DD17, 0x152FECD8F70E5939, 0x67332667FFC00B31, 0x8EB44A8768581511, 0xDB0C2E0D64F98FA7, 0x47B5481DBEFA4FA4⟩

/-- The big-endian bytes of a number. -/
def beBytes (n v : Nat) : List Byte := (leBytes n v).reverse

/-- The 48-byte SHA-384 digest of a byte string. -/
def sha384 (bs : List Byte) : List Byte :=
  let n := bs.length
  let z := (128 - (n + 17) % 128) % 128
  let m := bs ++ [0x80#8] ++ List.replicate z 0 ++ beBytes 16 (8 * n)
  let s := shaBlocks (m.length / 128) sha384Init m
  beBytes 8 s.a ++ beBytes 8 s.b ++ beBytes 8 s.c ++ beBytes 8 s.d ++ beBytes 8 s.e ++ beBytes 8 s.f

end Sys2Proof.Machine
end

