-- ==== Sys2Proof/Machine/Functions.lean ====
section
/-!
DEFINITION. Special functions: function-table generations, their checks, and the evaluation of a slot
(09_functions.md, R169 to R181).
-/

namespace Sys2Proof.Machine

/-- One slot of a generation (Table 9.6): codes as stored, 65 native and 17 Vell endpoints. -/
structure FnSlot where
  reduction : Nat
  mono : Nat
  wexp : Byte
  x0 : F32
  y : List F32
  v : List F32
deriving DecidableEq, Repr

/-- A generation: its ID and its present slots in ascending slot number (R180). -/
structure FnGen where
  id : Word
  slots : List (Nat × FnSlot)
deriving DecidableEq, Repr

/-- A generation buffer (R180): empty, the built-in generation, or a loaded one. -/
inductive GenBuf where
  | empty
  | builtin
  | loaded (g : FnGen)
deriving DecidableEq, Repr

/-- Every fourth entry, `n` of them: the Vell points of a native run (R169, R170). -/
def everyFourth (l : List F32) (n : Nat) : List F32 := (List.range n).map fun i => l.getD (4 * i) f32Zero

/-- A built-in slot (R173) (DESIGN CHOICE, log entry 6). -/
def builtinSlot (red mono : Nat) (wexp : Byte) (y : List F32) : FnSlot := ⟨red, mono, wexp, f32Zero, y, everyFourth y 17⟩

/-- The built-in generation, ID 0x0000_0001 (R173, R181). -/
def builtinGen : FnGen :=
  ⟨1, [(1, builtinSlot 4 1 (Config.builtinWexp 1) builtinExp2),
       (2, builtinSlot 5 1 (Config.builtinWexp 2) builtinLog2),
       (3, builtinSlot 6 2 (Config.builtinWexp 3) builtinRecip),
       (4, builtinSlot 7 2 (Config.builtinWexp 4) builtinRsqrt),
       (5, builtinSlot 1 1 0xFC#8 builtinTanh),
       (6, builtinSlot 2 1 0xFD#8 builtinSigmoid),
       (7, builtinSlot 3 0 0xFD#8 builtinSilu),
       (8, builtinSlot 3 0 0xFD#8 builtinGelu)]⟩

/-- The generation a buffer holds; an empty buffer holds no slot. -/
def genOf : GenBuf → FnGen
  | .empty => ⟨0, []⟩
  | .builtin => builtinGen
  | .loaded g => g

/-- The slot numbered `k`, none where it is empty. -/
def slotOf (g : FnGen) (k : Nat) : Option FnSlot := (g.slots.find? fun p => p.1 == k).map (·.2)

/-! ### Evaluation (R170 to R172, R179) -/

/-- x scaled by 2^k with one rounding (R171). -/
def fScale2 (x : F32) (k : Int) : F32 :=
  match f32Num x with
  | .fin n m e => f32Pack n m (e + k)
  | _ => x

/-- floor of a non-negative value. -/
def fFloorNat (x : F32) : Nat := match f32Num x with | .fin false m e => floorNat m e | _ => 0

/-- floor of a finite value. -/
def fFloorInt (x : F32) : Int :=
  match f32Num x with
  | .fin false m e => floorNat m e
  | .fin true m e =>
    let f := floorNat m e
    if m * 2 ^ e.toNat = f * 2 ^ (-e).toNat then -(f : Int) else -(f : Int) - 1
  | _ => 0

/-- The segment value v (R170). -/
def segValue (y : List F32) (n : Nat) (x0 : F32) (wexp : Int) (r : F32) (vell : Bool) : F32 :=
  let s := fScale2 (fSub r x0) (-wexp)
  let i := min (fFloorNat s) (n - 1)
  let t0 := fSub s (fOfNat i)
  let t := if vell then f32Pack false (fFloorNat (fScale2 t0 16)) (-16) else t0
  let yi := y.getD i f32Zero
  fAdd yi (fMul t (fSub (y.getD (i + 1) f32Zero) yi))

/-- x normalised as (e, m) with |x| = m * 2^e and m in [1, 2), for a finite non-zero x (R171). -/
def normParts (x : F32) : Int × F32 :=
  match f32Num x with
  | .fin _ m e =>
    let l : Int := Nat.log2 m
    (e + l, f32Pack false m (-l))
  | _ => (0, f32Zero)

/-- rne(a + y - z) with one rounding of the exact sum: rne(a + c) with c = y - z formed exactly (R171, SHIFT). -/
def fAddDiff (a y z : F32) : F32 :=
  match f32Num a, f32Num y, f32Num z with
  | .fin na ma ea, .fin ny my ey, .fin nz mz ez =>
    let c := numSum ny my ey (!nz) mz ez
    let s := numSum na ma ea (decide (c.1 < 0)) c.1.natAbs c.2
    if s.1 = 0 then f32Zero else f32Pack (decide (s.1 < 0)) s.1.natAbs s.2
  | _, _, _ => fAdd a (fSub y z)

/-- The signed value of a WEXP byte. -/
def wexpInt (b : Byte) : Int := b.toInt

/-- n * w, the width of the whole run of a slot: 64 native segments, or 16 Vell segments four times as wide. -/
def runWidth (s : FnSlot) : F32 := f32Pack false 64 (wexpInt s.wexp)

/-- The run of a slot under a setting: endpoints, segment count, and the width exponent of a native exponent (R170, R179). -/
def slotRun (s : FnSlot) (vell : Bool) : List F32 × Nat := if vell then (s.v, 16) else (s.y, 64)

/-- The last endpoint of the run in force. -/
def lastPoint (s : FnSlot) (vell : Bool) : F32 := if vell then s.v.getD 16 f32Zero else s.y.getD 64 f32Zero

/-- A reduction applied to a value that is neither NaN nor -0 (Table 9.2) (DEDUCED, log entry 121). -/
def reduceEval (s : FnSlot) (vell : Bool) (x : F32) : F32 :=
  let up : Int := if vell then 2 else 0
  let n := if vell then 16 else 64
  let y := if vell then s.v else s.y
  let neg := fLt x f32Zero
  let a := fAbs x
  let w := wexpInt s.wexp + up
  let inside := fLt a (runWidth s)
  let yn := lastPoint s vell
  match s.reduction with
  | 4 =>
    if fLe 0x43000000#32 x then f32PosInf
    else if fLt x 0xC3200000#32 then f32Zero
    else
      let k := fFloorInt x
      fScale2 (segValue y n f32Zero (-6 + up) (fSub x (fOfInt k)) vell) k
  | 5 =>
    if neg then f32Nan else if x = f32Zero then f32NegInf else if fIsInf x then f32PosInf
    else
      let p := normParts x
      fAdd (fOfInt p.1) (segValue y n f32One (-6 + up) p.2 vell)
  | 6 =>
    if x = f32Zero then f32PosInf else if fIsInf x then f32Zero
    else
      let p := normParts x
      let v := fScale2 (segValue y n f32One (-6 + up) p.2 vell) (-p.1)
      if neg then fNeg v else v
  | 7 =>
    if neg then f32Nan else if x = f32Zero then f32PosInf else if fIsInf x then f32Zero
    else
      let p := normParts x
      let k := p.1 / 2
      let r := if p.1 % 2 = 0 then p.2 else fScale2 p.2 1
      let h := n / 2
      let v := if fLt r 0x40000000#32 then segValue (y.take (h + 1)) h f32One (-5 + up) r vell
        else segValue (y.drop h) h 0x40000000#32 (-4 + up) r vell
      fScale2 v (-k)
  | 1 =>
    let v := if inside then segValue y n f32Zero w a vell else yn
    if neg then fNeg v else v
  | 2 =>
    let v := if inside then segValue y n f32Zero w a vell else yn
    if neg then fSub f32One v else v
  | 3 =>
    if fIsInf x then (if neg then f32Zero else f32PosInf)
    else
      let v := if inside then segValue y n f32Zero w a vell else fAddDiff a yn (runWidth s)
      if neg then fSub v a else v
  | _ =>
    if fLt x s.x0 then y.getD 0 f32Zero
    else
      match f32Num x, f32Num s.x0 with
      | .fin nx mx ex, .fin n0 m0 e0 =>
        let d := numSum nx mx ex (!n0) m0 e0
        let past := numSum (decide (d.1 < 0)) d.1.natAbs d.2 true 64 (wexpInt s.wexp)
        if 0 ≤ past.1 then yn else segValue y n s.x0 w x vell
      | _, _ => yn

/-- Special results: a zero is +0, a NaN is the quiet NaN, and Vell flushes subnormals to +0 (R172, R179). -/
def fnFinish (vell : Bool) (v : F32) : F32 :=
  if fIsNan v then f32Nan
  else if v &&& 0x7FFFFFFF#32 = 0#32 then f32Zero
  else if vell && (v &&& 0x7F800000#32 = 0#32) then f32Zero
  else v

/-- The value of slot `k` of a generation at x (R170 to R172). An empty slot gives the quiet NaN: R180 keeps every slot that a caller
names present. -/
def fnEval (g : FnGen) (vell : Bool) (k : Nat) (x : F32) : F32 :=
  if fIsNan x then f32Nan
  else
    match slotOf g k with
    | none => f32Nan
    | some s => fnFinish vell (reduceEval s vell (fNoNegZero x))

/-- fn_exp2 (slot 1). -/
def fnExp2 (g : FnGen) (vell : Bool) (x : F32) : F32 := fnEval g vell 1 x
/-- fn_log2 (slot 2). -/
def fnLog2 (g : FnGen) (vell : Bool) (x : F32) : F32 := fnEval g vell 2 x
/-- fn_rsqrt (slot 4). -/
def fnRsqrt (g : FnGen) (vell : Bool) (x : F32) : F32 := fnEval g vell 4 x
/-- fn_sigmoid (slot 6). -/
def fnSigmoid (g : FnGen) (vell : Bool) (x : F32) : F32 := fnEval g vell 6 x

/-! ### The byte layout and its checks (R174, R180, R181) -/

/-- The 2,048 bytes of a slot region (Table 9.6). -/
def slotBytes (s : FnSlot) : List Byte :=
  padTo 2048 ([BitVec.ofNat 8 s.reduction, BitVec.ofNat 8 s.mono, s.wexp, 0] ++ leBytes 4 s.x0.toNat ++ List.replicate 8 0
    ++ s.y.flatMap (fun w => leBytes 4 w.toNat) ++ s.v.flatMap (fun w => leBytes 4 w.toNat))

/-- SLOT_MASK: bit 0 is 1 and bit s is 1 for a present slot (Table 9.6). -/
def slotMask (g : FnGen) : Nat := 1 + (g.slots.map fun p => 2 ^ p.1).sum

/-- Bytes 4 to 65,535 of a generation (Table 9.6). -/
def genBody (g : FnGen) : List Byte :=
  padTo 2044 (leBytes 4 (slotMask g)) ++
  (List.range 31).flatMap fun i =>
    match slotOf g (i + 1) with
    | some s => slotBytes s
    | none => List.replicate 2048 0

/-- The 65,536 bytes of a generation (Table 9.6). -/
def genBytes (g : FnGen) : List Byte := leBytes 4 g.id.toNat ++ genBody g

/-- The 16,384 words that FN_TABLE returns (R184). -/
def genWord (g : FnGen) (w : Nat) : Word := BitVec.ofNat 32 (leAt (genBytes g) (4 * w) 4)

/-- The slot in a region of a generation's bytes. -/
def slotOfBytes (bs : List Byte) (k : Nat) : FnSlot :=
  let b := bs.drop (2048 * k)
  ⟨leAt b 0 1, leAt b 1 1, BitVec.ofNat 8 (leAt b 2 1), BitVec.ofNat 32 (leAt b 4 4),
   (List.range 65).map fun i => BitVec.ofNat 32 (leAt b (16 + 4 * i) 4),
   (List.range 17).map fun i => BitVec.ofNat 32 (leAt b (276 + 4 * i) 4)⟩

/-- Whether a byte range holds zeros only. -/
def zeroRange (bs : List Byte) (off n : Nat) : Bool := (sliceBytes bs off n).all (· == 0)

/-- The difference of two finite values is exactly a binary32 value (R174 item 2). -/
def exactDiff (a b : F32) : Bool :=
  match f32Num a, f32Num b with
  | .fin na ma ea, .fin nb mb eb =>
    let s := numSum na ma ea (!nb) mb eb
    match f32Num (f32Pack (decide (s.1 < 0)) s.1.natAbs s.2) with
    | .fin _ m e => let d := numSum (decide (s.1 < 0)) s.1.natAbs s.2 (decide (0 ≤ s.1)) m e; d.1 == 0
    | _ => false
  | _, _ => false

/-- Items 1 to 3 of R174 on one run of endpoints. -/
def runOk (mono : Nat) (y : List F32) : Bool :=
  (y.all fun w => fIsFinite w && w != 0x80000000#32) &&
  ((y.zip (y.drop 1)).all fun p =>
    exactDiff p.2 p.1 && (mono != 1 || fLe p.1 p.2) && (mono != 2 || fLe p.2 p.1))

/-- Items 4 and 5 of R174 on the first and last endpoint. -/
def endsOk (red : Nat) (y0 yn : F32) : Bool :=
  match red with
  | 4 => y0 == f32One && yn == 0x40000000#32
  | 5 => y0 == f32Zero && yn == f32One
  | 6 => y0 == f32One && yn == 0x3F000000#32
  | 7 => y0 == f32One && yn == 0x3F000000#32
  | 1 => y0 == f32Zero
  | 3 => y0 == f32Zero
  | 2 => y0 == 0x3F000000#32
  | _ => true

/-- The reduction and direction Table 9.1 fixes for slots 1 to 8 (R174 item 6). -/
def slotFixed : Nat → Option (Nat × Nat)
  | 1 => some (4, 1)
  | 2 => some (5, 1)
  | 3 => some (6, 2)
  | 4 => some (7, 2)
  | 5 => some (1, 1)
  | 6 => some (2, 1)
  | 7 => some (3, 0)
  | 8 => some (3, 0)
  | _ => none

/-- X0 and WEXP under Table 9.6: +0 but for PLAIN, where it is a multiple of 2^WEXP with a finite end of run. -/
def x0Ok (s : FnSlot) : Bool :=
  let w := wexpInt s.wexp
  let inRange := decide (-24 ≤ w) && decide (w ≤ 24)
  match s.reduction with
  | 0 => inRange &&
    (match f32Num s.x0 with
     | .fin n m e =>
       let d := e - w
       (0 ≤ d || m % 2 ^ (-d).toNat == 0) &&
       (let t := numSum n m e false 64 w
        fIsFinite (f32Pack (decide (t.1 < 0)) t.1.natAbs t.2))
     | _ => false)
  | 1 => inRange && s.x0 == f32Zero
  | 2 => inRange && s.x0 == f32Zero
  | 3 => inRange && s.x0 == f32Zero
  | _ => s.x0 == f32Zero

/-- The checks of one present slot (R174, R180). -/
def slotOk (bs : List Byte) (k : Nat) : Bool :=
  let s := slotOfBytes bs k
  decide (s.reduction ≤ 7) && decide (s.mono ≤ 2) &&
  (match slotFixed k with
   | some p => s.reduction == p.1 && s.mono == p.2
   | none => decide (s.reduction ≤ 3)) &&
  zeroRange bs (2048 * k + 3) 1 && zeroRange bs (2048 * k + 8) 8 && zeroRange bs (2048 * k + 344) 1704 &&
  x0Ok s && runOk s.mono s.y && runOk s.mono s.v &&
  endsOk s.reduction (s.y.getD 0 0) (s.y.getD 64 0) && endsOk s.reduction (s.v.getD 0 0) (s.v.getD 16 0)

/-- The header checks of R180 and R183: bit 0, slots 1 to 8, the slots that FN_CFG names, and zero reserved bytes. -/
def genHeaderOk (bs : List Byte) (act deriv : Nat) : Bool :=
  let m := leAt bs 4 4
  ((List.range 9).all fun i => bitOf m i) && (act == 0 || bitOf m act) && (deriv == 0 || bitOf m deriv) && zeroRange bs 8 2040

/-- The generation that 65,536 bytes spell. -/
def genOfBytes (bs : List Byte) : FnGen :=
  ⟨BitVec.ofNat 32 (leAt bs 0 4),
   ((List.range 32).filter fun k => k != 0 && bitOf (leAt bs 4 4) k).map fun k => (k, slotOfBytes bs k)⟩

/-- The ID a generation must carry: 1 for the built-in bytes, otherwise the CRC-32C of bytes 4 to 65,535 with bit 31 set (R181). -/
def genIdOf (g : FnGen) : Word := if g.slots = builtinGen.slots then 1 else crc32c (genBody g) ||| 0x80000000#32

/-- Why a generation is refused (R183). -/
inductive GenError where
  | slotCheck (slot : Nat)
  | idMismatch
deriving DecidableEq, Repr

/-- The first failure of a generation in the order of R183 step 2: header, slots in order, then the ID. -/
def genCheck (bs : List Byte) (act deriv : Nat) : Except GenError FnGen :=
  if !genHeaderOk bs act deriv then .error (.slotCheck 0)
  else
    let m := leAt bs 4 4
    let bad := (List.range 32).find? fun k => k != 0 &&
      (if bitOf m k then !slotOk bs k else !zeroRange bs (2048 * k) 2048)
    match bad with
    | some k => .error (.slotCheck k)
    | none =>
      let g := genOfBytes bs
      if g.id = genIdOf g then .ok g else .error .idMismatch

/-- The buffer a checked generation fills: the built-in bytes are the built-in generation (R181). -/
def bufOfGen (g : FnGen) : GenBuf := if g.slots = builtinGen.slots then .builtin else .loaded g

/-- The ID FN_GEN_ID shows for a buffer: an empty buffer reads 0 (R181). -/
def genBufId : GenBuf → Word
  | .empty => 0
  | .builtin => 1
  | .loaded g => g.id

end Sys2Proof.Machine
end

