-- ==== Sys2Proof/Machine/Verify.lean ====
section
/-!
DEFINITION. The VERIFY acceptance walk, the SCORE outputs, the value head and the gradient arithmetic
(08_verify_and_score.md, R146 to R167).
-/

namespace Sys2Proof.Machine

/-- A draft node (Table 8.1): proposed token, drafter's probability, parent position. -/
structure DraftNode where
  tok : Nat
  q : F32
  parent : Nat
deriving DecidableEq, Repr

/-- The children of a position, as node numbers from 1 in ascending order (R148). -/
def childrenOf (ns : List DraftNode) (p : Nat) : List Nat :=
  (List.range ns.length).filterMap fun i => match ns[i]? with | some n => if n.parent = p then some (i + 1) else none | none => none

/-- The node numbered `i` (from 1). -/
def nodeAt (ns : List DraftNode) (i : Nat) : DraftNode := ns.getD (i - 1) ⟨0, f32Zero, 0⟩

/-- The path of node numbers from position 0 to a position, own node first; parents lie below their node (R148, R149). -/
def pathOf (ns : List DraftNode) : Nat → Nat → List Nat
  | 0, _ => []
  | _, 0 => []
  | f + 1, p => p :: pathOf ns f (nodeAt ns p).parent

/-- The depth of a position (R148). -/
def depthOf (ns : List DraftNode) (p : Nat) : Nat := (pathOf ns (ns.length + 1) p).length

/-- The checks of R148 on the draft tree alone; `placed` says which tokens the engine or its domain places. -/
def draftOk (placed : Nat → Bool) (ns : List DraftNode) : Bool :=
  ((List.range ns.length).all fun i =>
    let n := nodeAt ns (i + 1)
    decide (n.parent ≤ i) && placed n.tok && fIsFinite n.q && fLe 0x00800000#32 n.q && fLe n.q f32One) &&
  ((List.range (ns.length + 1)).all fun p =>
    let cs := childrenOf ns p
    let toks := cs.map fun c => (nodeAt ns c).tok
    decide (cs.length ≤ 16) && decide toks.Nodup &&
    fLe ((cs.map fun c => (nodeAt ns c).q).foldl fAdd f32Zero) f32One)

/-- What reaches the head pan for one slot's pass: statistics, windrow and watch reports (R147). -/
structure SlotOut where
  stats : Stats
  wind : List Entry
  reports : List (Nat × F32)
deriving DecidableEq, Repr

/-- The watch report of a token, the first where several have come (DESIGN CHOICE, log entry 177); -2^127 where none arrived. -/
def reportOf (rs : List (Nat × F32)) (t : Nat) : F32 := match rs.find? fun r => r.1 == t with | some r => r.2 | none => f32Masked

/-- The outcome of the acceptance loop at one position. -/
inductive Accept where
  | child (k : Nat)
  | residual (a : List F32)
deriving DecidableEq, Repr

/-- The residual update of R151 over the untried children from `k` on: the new A and the cut. -/
def residualCut (z q : F32) (qs : List F32) (k : Nat) : Nat → List F32 → F32 → List F32 × F32
  | _, [], cut => ([], cut)
  | j, a :: as, cut =>
    if j < k then
      let r := residualCut z q qs k (j + 1) as cut
      (a :: r.1, r.2)
    else
      let want := fMul z (fDiv (qs.getD j f32Zero) q)
      let take := if fLt a want then a else want
      let r := residualCut z q qs k (j + 1) as (fAdd cut take)
      (fSub a take :: r.1, r.2)

/-- The acceptance loop of R151 from child `k`, `fuel` children left. `us` are the children's uniforms. -/
def acceptLoop (qs us : List F32) : Nat → Nat → List F32 → F32 → F32 → Accept
  | 0, _, a, _, _ => .residual a
  | fuel + 1, k, a, z, q =>
    if fLt f32Zero q then
      let qk := fDiv (qs.getD k f32Zero) q
      if fLe (fMul (fMul (us.getD k f32Zero) qk) z) (a.getD k f32Zero) then .child k
      else
        let r := residualCut z q qs k 0 a f32Zero
        acceptLoop qs us fuel (k + 1) r.1 (fSub z r.2) (fSub q (qs.getD k f32Zero))
    else .residual a

/-- A token the walk emits: token, its g, and whether g was reconstructed (R167). -/
structure Emitted where
  tok : Nat
  g : F32
  recon : Bool
  pos : Nat
deriving DecidableEq, Repr

/-- The result of a walk: emitted tokens in order and children accepted (R151 to R153). -/
structure WalkOut where
  emitted : List Emitted
  accepted : Nat
deriving DecidableEq, Repr

/-- What the walk needs of the row: noise on or off, seed, committed step, nodes, slot outputs by position. -/
structure VerifyCtx where
  noised : Bool
  seed : Dword
  rngStep : Dword
  nodes : List DraftNode
  outs : List SlotOut

/-- g of a windrow's first entry at depth d: from the key under T = +0, otherwise reconstructed as rne(r - G) (R136, R167). -/
def windG (f : Sfu) (v : VerifyCtx) (d : Nat) (e : Entry) : F32 :=
  if v.noised then fSub e.key (raceNoise f.log2 v.seed (v.rngStep + BitVec.ofNat 64 d) e.tok 0) else e.key

/-- The residual race of R152. -/
def residualRace (f : Sfu) (v : VerifyCtx) (d : Nat) (o : SlotOut) (toks : List Nat) (a : List F32) : Option Entry :=
  let lse := lseOf f o.stats.m o.stats.s
  let own := (o.wind.find? fun e => !toks.contains e.tok).toList
  let kids := (toks.zip a).filterMap fun p =>
    if fLt f32Zero p.2 then
      let g := fAdd lse (fMul (f.log2 p.2) constLn2)
      some (⟨p.1, fNoNegZero (fAdd g (raceNoise f.log2 v.seed (v.rngStep + BitVec.ofNat 64 d) p.1 0))⟩ : Entry)
    else none
  match (own ++ kids).foldl (fun b e => match b with | none => some e | some x => if ranksBefore e x then some e else some x) (none : Option Entry) with
  | some e => some e
  | none => o.wind.head?

/-- The walk from a position (R151 to R153). -/
def verifyWalk (f : Sfu) (v : VerifyCtx) : Nat → Nat → Nat → WalkOut → WalkOut
  | 0, _, _, w => w
  | fuel + 1, p, d, w =>
    match v.outs[p]? with
    | none => w
    | some o =>
      if o.stats.valid = 0 then w
      else
        let cs := childrenOf v.nodes p
        let toks := cs.map fun c => (nodeAt v.nodes c).tok
        let emitWind (e : Entry) : WalkOut := { w with emitted := w.emitted ++ [⟨e.tok, windG f v d e, v.noised, p⟩] }
        let acceptKid (k : Nat) : WalkOut :=
          let t := toks.getD k 0
          verifyWalk f v fuel (cs.getD k 0) (d + 1)
            ⟨w.emitted ++ [⟨t, reportOf o.reports t, false, p⟩], w.accepted + 1⟩
        match cs with
        | [] => match o.wind with | [] => w | e :: _ => emitWind e
        | _ :: _ =>
          if v.noised then
            let a := toks.map fun t => fDiv (expTerm f (reportOf o.reports t) o.stats.m) o.stats.s
            let qs := cs.map fun c => (nodeAt v.nodes c).q
            let us := toks.map fun t => uniformOf (philoxWord v.seed (v.rngStep + BitVec.ofNat 64 d) t 1)
            match acceptLoop qs us cs.length 0 a f32One f32One with
            | .child k => acceptKid k
            | .residual a' =>
              match residualRace f v d o toks a' with
              | none => w
              | some e =>
                if toks.contains e.tok then
                  { w with emitted := w.emitted ++ [⟨e.tok, reportOf o.reports e.tok, false, p⟩] }
                else emitWind e
          else
            match o.wind with
            | [] => w
            | e :: _ =>
              match (List.range cs.length).find? fun k => toks.getD k 0 == e.tok with
              | some k => acceptKid k
              | none => emitWind e

/-- The whole walk of a VERIFY row from position 0. -/
def verifyRow (f : Sfu) (v : VerifyCtx) : WalkOut := verifyWalk f v (v.nodes.length + 1) 0 0 ⟨[], 0⟩

/-- A list entry of a VERIFY row: token, p at its position, lp at its position (R167). -/
def verifyItem (f : Sfu) (v : VerifyCtx) (e : Emitted) : Nat × F32 × F32 :=
  match v.outs[e.pos]? with
  | some o => (e.tok, probOf f e.g o.stats.m o.stats.s, fSub e.g (lseOf f o.stats.m o.stats.s))
  | none => (e.tok, f32Zero, f32Zero)

/-! ### SCORE (R157, R164) -/

/-- The forward outputs of a SCORE row (R157). -/
structure ScoreOut where
  masked : Bool
  logprob : F32
  logratio : F32
  sqLogratio : F32
deriving DecidableEq, Repr

/-- 0.5. -/
def f32Half : F32 := 0x3F000000#32

/-- LOGPROB, LOGRATIO and SQ_LOGRATIO (R157). -/
def scoreForward (f : Sfu) (m s gt : F32) (refLp : Option F32) : ScoreOut :=
  if gt = f32Masked then ⟨true, f32NegInf, f32Zero, f32Zero⟩
  else
    let lp := fSub gt (lseOf f m s)
    match refLp with
    | none => ⟨false, lp, f32Zero, f32Zero⟩
    | some r =>
      let k1 := fSub lp r
      ⟨false, lp, k1, fMul f32Half (fMul k1 k1)⟩

/-- kappa = rne(CL * inv_t) (R161). -/
def kappaOf (cl invT : F32) : F32 := fMul cl invT

/-- One export entry: token, p, logit gradient (R164). -/
def exportItem (f : Sfu) (m s kappa : F32) (target : Nat) (t : Nat) (g : F32) : Nat × F32 × F32 :=
  let p := probOf f g m s
  (t, p, fMul kappa (fSub p (if t = target then f32One else f32Zero)))

/-! ### The value head and the gradient (R158, R161, R162) -/

/-- o of one value unit: rne(rne(silu(a) * b) * down) (R158). -/
def valueUnit (act : F32 → F32) (a b down : F32) : F32 := fMul (fMul (act a) b) down

/-- The factor of a batch with maximum `mb` (R161). -/
def batchFactor (f : Sfu) (mb m s : F32) : F32 := fDiv (expTerm f mb m) s

/-- The coefficient of one score (R161). -/
def gradCoef (kappa e fb : F32) (isTarget : Bool) : F32 :=
  fMul kappa (fSub (fMul e fb) (if isTarget then f32One else f32Zero))

/-- SiLU'(a) by the sigmoid formula (R161). -/
def siluDeriv (sigmoid : F32 → F32) (a : F32) : F32 :=
  let sg := sigmoid a
  fMul sg (fAdd f32One (fMul a (fSub f32One sg)))

/-- Gate and up coefficients of a value unit, given its derivative and activation at a (R161). -/
def valueCoefs (cv down sd actA b : F32) : F32 × F32 :=
  (fMul cv (fMul down (fMul sd b)), fMul cv (fMul down actA))

end Sys2Proof.Machine
end

