-- ==== Sys2Proof/Machine/State.lean ====
section
/-!
DEFINITION. The state of the block as plain data, its faults and refusals, and the state after reset. Registers whose fields are views
of other state (maps, counts, status words) are not stored twice: Machine/Registers.lean forms their values. Each group of fields
has its own structure, so that a frame can name the groups a command leaves alone.
-/

namespace Sys2Proof.Machine

/-- Why a step stops with a fault. -/
inductive Fault where
  /-- A command names a pan, bed, leaf, target, input, lane, link or child that the part does not have. The spec lays out no such unit,
  so nothing is said of it. Raised by every command that carries a unit number. Safe: the block stops where no hardware exists. -/
  | noSuchUnit
deriving DecidableEq, Repr

/-- Why a step is refused. -/
inductive Refusal where
  /-- A command that has no meaning in the model yet. Raised by its arm of exec alone. Safe. -/
  | notModelled (mnemonic : String)
deriving DecidableEq, Repr

/-! ### Power, supplies and start-up (17_integration.md) -/

/-- Power states of the logic domain (R340). -/
inductive PowerState where
  | on
  | retain
  | off
deriving DecidableEq, Repr

/-- Operating points (Table 0.3), coded as CTL_PACE.OPPT. -/
inductive OpPoint where
  | low
  | nominal
  | high
deriving DecidableEq, Repr

/-- Supplies, power states, operating point, start-up and pace (R335 to R345, R23, R351). -/
structure Power where
  /-- The always-on supply is up (R344). -/
  aoUp : Bool
  /-- The logic domain is ON: from reset release until it begins to leave ON (R335). -/
  logicOn : Bool
  /-- MG_PWR_STATUS.STATE. -/
  st : PowerState
  /-- MG_PWR_STATUS.IN_TRANSITION: the state a transition leads to. -/
  target : Option PowerState
  /-- A request queued behind the transition (R340). -/
  queued : Option PowerState
  /-- MG_PWR_CTL.STATE. -/
  reqState : PowerState
  /-- MG_PWR_STATUS.WATCHER_WAKE (R310). -/
  watcherWake : Bool
  /-- MG_OPPT.CUR. -/
  cur : OpPoint
  /-- MG_OPPT.REQ. -/
  req : OpPoint
  /-- The ramp in progress, MG_OPPT.BUSY (R339). -/
  ramp : Option OpPoint
  /-- MG_OPPT.QUEUED. -/
  rampQueued : Option OpPoint
  /-- VDD_CORE and VDD_BRINE are good and logic reset is held (step 1 of Table 17.4). -/
  resetHeld : Bool
  /-- Start-up steps that have begun and not finished (Table 17.4). -/
  bootSteps : List Nat
  /-- CTL_BOOT_STATUS.READY. -/
  ready : Bool
  /-- CTL_BOOT_STATUS.HEAD_FAIL. -/
  headFail : Bool
  /-- CTL_BOOT_STATUS.FENCED. -/
  bootFenced : Nat
  /-- CTL_PACE.VALID, TJ and PACE. -/
  paceValid : Bool
  tj : BitVec 8
  pace : BitVec 16
  /-- The tide count of the last pace update (R23). -/
  paceAt : Nat
  /-- MG_PACE: the last copy and STALE (R351). -/
  mgPace : Word
  mgPaceStale : Bool
  /-- The version floor the management block holds, MG_IMG_FLOOR (R327). -/
  imgFloor : Word
deriving DecidableEq, Repr

/-! ### The tide (12_determinism.md) -/

/-- Tide states, coded as TIDE_STATUS.STATE. -/
inductive TidePhase where
  | unlocked
  | locked
  | slewing
  | holdover
deriving DecidableEq, Repr

/-- The slew in force (Table 12.5). -/
inductive Slew where
  | none
  | extra
  | withhold
  | half
deriving DecidableEq, Repr

/-- The tide counter, its alignment and the launch gate (R244 to R249, R337). -/
structure TideSt where
  /-- The 64-bit count. -/
  count : Dword
  phase : TidePhase
  refOk : Bool
  /-- The image in force makes the engine a follower (R245). -/
  follower : Bool
  /-- A follower has loaded its first measured count (R245). -/
  measured : Bool
  hops : Nat
  /-- TIDE_OFFSET.THETA. -/
  theta : Word
  /-- TIDE_STATUS.STEPS. -/
  steps : Nat
  slew : Slew
  /-- Edges since the last extra or withheld count. -/
  slewEdges : Nat
  /-- θ still to be worked off by the slew in force. -/
  slewLeft : Int
  /-- The always-on oscillator, in ns since the always-on supply came up (R337). -/
  osc : Nat
  /-- Oscillator time of the last reference edge (R247). -/
  lastEdge : Nat
  /-- The oscillator has been calibrated against the reference (R337). -/
  calibrated : Bool
  /-- Tide counts of the last exchange and the last calibration. -/
  exchangeAt : Nat
  calibrateAt : Nat
  /-- TIDE_HI_LATCH of the chip port. -/
  hiLatch : Word
  /-- TIDE_GATE_CTL.EN and the latched gate count (R248). -/
  gateEn : Bool
  gateCount : Nat
  /-- TIDE_GATE_CTL.OPENED. -/
  gateOpened : Word
deriving DecidableEq, Repr

/-! ### Software-set registers -/

/-- Registers that hold what software wrote, each its spec's register of the same name. -/
structure SoftRegs where
  scrubEn : Bool
  scrubInterval : Nat
  ovfBaseLoA : Word
  ovfBaseHiA : Word
  ovfBaseLoB : Word
  ovfBaseHiB : Word
  maskSrcLo : Word
  maskSrcHi : Word
  fnSrcLo : Word
  fnSrcHi : Word
  imgSrcLo : Word
  imgSrcHi : Word
  flipHoldLimit : Word
  patchShare : Nat
  gateLo : Word
  gateHi : Word
  stepTimeout : Nat
  linkTimeout : Nat
  flapWindow : Nat
  flapLimit : Nat
  readLimit : Nat
deriving DecidableEq, Repr

/-! ### Counters that no chapter's own state forms -/

/-- Counters of conditioning, stores, grading and selection (chapters 03 to 08). -/
structure CountersA where
  clamped : Word
  poisoned : Word
  residueHead : Nat
  residueArray : Nat
  residueLast : Word
  eccUe : Nat
  eccCe : Nat
  eccLast : Word
  ovfStalls : Nat
  ovfRetries : Nat
  scoreNan : Word
  scoreInf : Word
  graderOvf : Word
  graderPeak : Nat
  selExtra : Word
  selCapped : Word
  selDup : Word
  selLast : Word
  verNodes : Word
  verAccepted : Word
  verAllRej : Word
  scoreTmask : Word
deriving DecidableEq, Repr

/-- Counters of functions, packets, weights, reach, faults and ports (chapters 09 to 17). -/
structure CountersB where
  fnStall : Word
  /-- Values of Config.fnStall taken so far: the model's own field. -/
  fnDraws : Nat
  fnDone : Word
  maskDone : Word
  imgDone : Word
  egressStall : Word
  malformed : Nat
  ackErr : Nat
  cancelRows : Nat
  countDrops : Word
  patchRows : Word
  patchFrozen : Word
  patchStale : Nat
  patchNotPlaced : Nat
  patchBadData : Nat
  loose : Word
  fltLasting : Nat
  fltTransient : Nat
  fltReruns : Nat
  tileUe : Nat
  headCe : Nat
  tileCe : Nat
  truncated : Nat
  readTimeouts : Nat
  domAborted : Nat
  domLosses : Nat
deriving DecidableEq, Repr

/-! ### Packets and ports (10_contexts_and_packets.md) -/

/-- A result record (Table 10.9), its list and its gradient section. -/
structure ResultRec where
  token : Nat
  status : Nat
  mode : Nat
  row : Nat
  ctx : Nat
  listCount : Nat
  flags : Nat
  logprob : F32
  lse : F32
  entropy : F32
  harvestMass : F32
  bitternMass : F32
  harvestCount : Nat
  validCount : Nat
  logratio : F32
  sqLogratio : F32
  value : F32
  rmsScale : F32
  accepted : Nat
  hashBlocks : Nat
  hash : Dword
  epoch : Dword
  rngStep : Dword
  listSlots : Nat
  hashPos : Nat
  list : List (Nat × F32 × F32)
  gradient : List F32
deriving DecidableEq, Repr

/-- The patch block of Table 11.1. -/
structure PatchBlock where
  op : Nat
  ack : Nat
  n : Nat
  stp : Word
  tide : Dword
  handle : Nat
  rank : Nat
  aflags : Nat
  version : Nat
  outcome : Nat
  applied : Nat
  skipped : Nat
  stale : Nat
  frozen : Nat
  notPlaced : Nat
  badData : Nat
  source : Dword
deriving DecidableEq, Repr

/-- What an outbound packet carries after its header (Tables 10.1, 10.6 and 11.1). -/
inductive OutBody where
  | result (recs : List ResultRec)
  | ctxAck (ctx op ack mask nBias nCount nHist dropped : Nat) (epoch : Dword) (copy : Option Ctx)
  | patchAck (b : PatchBlock)
  | reject
deriving DecidableEq, Repr

/-- An outbound packet (Table 10.2). -/
structure OutPkt where
  port : Nat
  tag : Dword
  seq : Dword
  tide : Dword
  hstatus : Nat
  body : OutBody
deriving DecidableEq, Repr

/-- One switch port: PORT_RST, ingress credit outstanding, and the host's egress credits, both in units of 128 B (R208, R333). -/
structure PortSt where
  rst : Bool
  credit : Nat
  egress : Nat
deriving DecidableEq, Repr

/-- A CTX packet waiting for its moment (R196, R202). -/
structure CtxWait where
  order : Nat
  port : Nat
  tag : Dword
  bytes : List Byte
deriving DecidableEq, Repr

/-- A context that a CANCEL made CLOSING, with the CANCEL to answer (R201). -/
structure Closing where
  order : Nat
  port : Nat
  tag : Dword
  ctx : Nat
  dropped : Nat
deriving DecidableEq, Repr

/-- A read request whose response is awaited (R334). -/
structure ReadReq where
  kind : ReadKind
  addr : Nat
  len : Nat
  /-- The port it left on, none while both ports are held by PORT_RST (R333). -/
  port : Option Nat
  issued : Nat
  /-- Where an overflow group that is patched or replayed is written back (R88). -/
  back : Nat
deriving DecidableEq, Repr

/-- Ports and everything that waits on them (R208, R333, R334). -/
structure Ports where
  p0 : PortSt
  p1 : PortSt
  /-- Produced outbound packets, in order of production. -/
  out : List OutPkt
  /-- Packets that have left, oldest first: what the host chip has seen. -/
  sent : List OutPkt
  /-- Packets held in arrival order while an image is applied (R328). -/
  held : List (Nat × List Byte)
  /-- Read requests outstanding. -/
  reads : List ReadReq
  /-- Engine writes to host-chip memory, oldest first (R88). -/
  hostWrites : List (Nat × List Byte)
  /-- Arrival order given to the next packet. -/
  order : Nat
  /-- The port whose turn it is to take a read request (R334). -/
  turn : Nat
deriving DecidableEq, Repr

/-! ### Sheets in the pipeline -/

/-- Failure conditions found for a row (bits 11 to 15 of Table 10.10). -/
structure FailFlags where
  poisoned : Bool
  aborted : Bool
  partnerLost : Bool
  overflow : Bool
  adapter : Bool
deriving DecidableEq, Repr

/-- The control settings of a row's rake pass (Tables 2.2, 6.1 and 7.1). -/
structure PassCtl where
  pass : Nat
  useR : Bool
  kw : Nat
  theta : F32
  resume : Option Entry
  level : Nat
  ref : Option F32
  hist : Bool
  strict : Bool
  /-- Scores come from the score buffer. -/
  fromBuffer : Bool
  /-- A first rake pass: its grading is counted (R102) and its scores are stored where the mode says so. -/
  first : Bool
deriving DecidableEq, Repr

/-- What a pan sends its parent for a slot's pass (Table 2.2). -/
structure ChildOut where
  wind : List Entry
  stats : Stats
  reports : List (Nat × F32)
  value : F32
deriving DecidableEq, Repr

/-- A leaf position's progress on a slot's pass. -/
structure LeafRow where
  nextBatch : Nat
  wind : List Entry
  stats : Stats
  reports : List (Nat × F32)
  /-- Batch maxima of a GRAD row (R160). -/
  maxima : List F32
  sent : Bool
  /-- In a rerun of a parent's row: the first pass has been graded again (R143). -/
  redone : Bool
deriving DecidableEq, Repr

/-- What has arrived of a remote child's output for a slot's pass (Table 13.6). -/
structure RemotePart where
  wind : Option (List Entry)
  stats : Option Stats
  value : Option F32
  reports : Option (List (Nat × F32))
deriving DecidableEq, Repr

/-- A composite node's progress on a slot's pass: its children's outputs in order of arrival, and remote outputs not yet whole. -/
structure NodeRow where
  arrived : List (Nat × ChildOut)
  /-- Children in the order in which their statistics blocks, and their value sums, have come (R237). -/
  statsOrder : List Nat
  valueOrder : List Nat
  parts : List (Nat × RemotePart)
  sent : Bool
  /-- Its fold took its children in another order than child order (R237). -/
  late : Bool
deriving DecidableEq, Repr

/-- A gradient packet's fold at one node for one chunk, in order of arrival (R163). -/
structure GradNode where
  chunk : Nat
  node : Nat
  arrived : List (Nat × List F32)
deriving DecidableEq, Repr

/-- One slot of a row (R146): its brine, control, grader list, watched tokens and progress. -/
structure Slot where
  brine : List IntBlock
  params : GradeParams
  /-- The grader list for positions of this engine, in the order sent (R93, R95). -/
  grader : List GraderEntry
  /-- Entries for tokens that remote children place, by token (R93, Table 13.6). -/
  remote : List (Nat × GraderEntry)
  watch : List Nat
  zBlocks : Option (List IntBlock)
  ctl : PassCtl
  /-- In a rerun of a parent's row: the first pass that every position grades again before the current one (R143). -/
  redo : Option PassCtl
  leaves : List (Nat × LeafRow)
  nodes : List (Nat × NodeRow)
  /-- The head merge's output of the pass in progress, with the dropped duplicates. -/
  head : Option ChildOut
  /-- Outputs of passes that the head pan has already used and needs again. -/
  headFirst : Option ChildOut
  grads : List GradNode
  /-- Leaf positions and chunks whose gradient packets have been sent. -/
  gradSent : List (Nat × Nat)
  /-- Composites and chunks whose folded packets have been sent (R163). -/
  gradUp : List (Nat × Nat)
  /-- dy chunks finished at the head. -/
  dy : List (Nat × List F32)
  /-- Outputs that each remote child still owes, by child. -/
  due : List (Nat × Nat)
  /-- At a member: lists that the slot's control word announced and that have not come (R267, R268) (DESIGN CHOICE, log entry 187). -/
  awaits : ListFlags
deriving DecidableEq, Repr

/-- Where a row stands. -/
inductive RowPhase where
  /-- Passes in progress. -/
  | running
  /-- LEDGER pass 1 or 2 done, waiting for the sheet's other LEDGER rows (R139). -/
  | ledgerWait
  /-- GRAD row's forward statistics in, waiting for the others (R161). -/
  | gradWait
  /-- Backward pass in progress. -/
  | backward
  /-- Decided. -/
  | done
deriving DecidableEq, Repr

/-- A row of a sheet. -/
structure Row where
  /-- The record's bytes. -/
  bytes : List Byte
  /-- First slot of the row in the sheet's count, and its number of slots; 0 slots for a row that took none (R146, R353). -/
  slot0 : Nat
  nslots : Nat
  /-- The score-buffer row q of R81 and R160. -/
  bufRow : Option Nat
  fail : FailFlags
  /-- The row's mask latch: the 0 bits, none for a row with no mask (R101). -/
  mask : Option (List Nat)
  /-- A member's row: the last control word of its slot (Table 13.6). -/
  dom : Option CtlWord
  /-- A member's row: the control settings of its first pass. -/
  domFirst : Option PassCtl
  rms : F32
  slots : List Slot
  /-- The committed context the row was checked against at stage 3. -/
  snap : Ctx
  phase : RowPhase
  walk : SelWalk
  list : List (Nat × F32 × F32)
  extra : Bool
  capped : Bool
  dup : Bool
  /-- The decided record, before the context's update. -/
  result : Option ResultRec
  /-- Tokens the row adds to its context at commit, and by how much its RNG step rises (R145, R155, R165). -/
  tokens : List Nat
  steps : Nat
  /-- Fenced pans whose takeover must end before the row is rerun (R281). -/
  rerun : List Nat
  /-- The current pass's number in the order in which the sheet's passes were issued (R166). -/
  issue : Nat
deriving DecidableEq, Repr

/-- A sheet (R12, R146). For a domain member, `parentLink` names the link that opened it. -/
structure Sheet where
  seq : Nat
  order : Nat
  port : Nat
  tag : Dword
  bytes : List Byte
  rows : List Row
  /-- 1 to 6 of Table 1.2. -/
  stage : Nat
  /-- Function buffer latched at stage 2 (R182). -/
  gen : Nat
  /-- Live step of the sheet's control words (R220). -/
  live : Word
  /-- Bases of windows A and B in force when the sheet entered stage 3 (R88). -/
  ovfBase : Nat × Nat
  /-- Overflow groups of the pass received, as (leaf, chunk, bytes), and groups read again. -/
  groups : List (Nat × Nat × List Byte)
  retried : List (Nat × Nat)
  /-- Every overflow group that has arrived for the sheet, whose rows' scores a takeover forms anew: the model's own field (log entry 154). -/
  seen : List (Nat × Nat × List Byte)
  /-- Positions that fetch groups, with the pass and the sweep they fetch for; a backward pass fetches for all its sweeps (R87). -/
  fetch : List (Nat × Nat × Option Nat)
  /-- Passes issued so far (R166). -/
  issues : Nat
  parentLink : Option Nat
  /-- Slots that SHEET_OPEN announced at a member. -/
  slotsDue : Nat
  /-- Oscillator time of the last UP record of each remote child, and of the last PROGRESS sent. -/
  upAt : List (Nat × Nat)
  progressAt : Nat
deriving DecidableEq, Repr

/-- Sheets waiting in stage 1, sheets in flight, and CTX operations that wait. -/
structure Pipe where
  /-- Sheets in stage 1, in the order of R12. -/
  waiting : List Sheet
  /-- Sheets past stage 1, at most two, in order (R13). -/
  flight : List Sheet
  ops : List CtxWait
  closings : List Closing
  /-- SEQ the next sheet takes. -/
  nextSeq : Nat
  /-- CTL_SHEET_SEQ. -/
  lastSeq : Word
  /-- CTL_FLIP_SEQ (R242), and whether the first sheet projected in the live step is still to come. -/
  flipSeq : Word
  flipDue : Bool
  /-- CTX_EPOCH_HI_LATCH of the chip port. -/
  epochLatch : Word
  /-- The contexts that are not FREE (R191). -/
  ctxs : List (Nat × Ctx)
deriving DecidableEq, Repr

/-! ### Masks and function tables -/

/-- Where a mask load stands (R103). -/
inductive MaskPhase where
  | idle
  | reading
  | staged
  | copying
deriving DecidableEq, Repr

/-- The mask store: bitmaps as lists of the tokens whose bit is 0, in placement order; and the load (R99 to R103) (DEDUCED, log entry 51). -/
structure MaskSt where
  zeros : List (Nat × List Nat)
  phase : MaskPhase
  err : Bool
  kind : Nat
  bitmap : Nat
  src : Dword
  staging : List Byte
deriving DecidableEq, Repr

/-- Where a function-table load stands (R183). -/
inductive FnPhase where
  | idle
  | reading
  | waiting (g : GenBuf)
  | writing (g : GenBuf)
  | ready
deriving DecidableEq, Repr

/-- The generation buffers and the load (R180 to R185). -/
structure FnSt where
  buf0 : GenBuf
  buf1 : GenBuf
  /-- FN_CFG.IN_FORCE. -/
  inForce : Nat
  phase : FnPhase
  err : Bool
  kind : Nat
  slot : Nat
  src : Dword
  staging : List Byte
deriving DecidableEq, Repr

/-! ### Brine store (04_brine_store.md) -/

/-- The brine store: its bytes by physical address P × 0x28_0000 + offset, unlisted bytes 0; and the scrubber. -/
structure BrineSt where
  mem : List Host.Cell
  /-- CTL_BANK_CFG.LIVE. -/
  live : Nat
  /-- Next line each pan scrubs, and the tide of its last scrub read (R77). -/
  scrubAt : List (Nat × Nat)
  scrubTide : List (Nat × Nat)
  /-- Words corrected in the pass in progress, as (pan, word) (Table 4.4). -/
  corrected : List (Nat × Nat)
  /-- PAN_ECC: corrected and uncorrectable words by pan. -/
  panCe : List (Nat × Nat)
  panUe : List (Nat × Nat)
  /-- Block of 256 KiB that each pan's read port last addressed, 0 before its first read (R282) (DEDUCED, log entry 164). -/
  lastBlock : List (Nat × Nat)
deriving DecidableEq, Repr

/-! ### Weights and adapters (11_live_weights.md) -/

/-- Flip states, coded as CTL_FLIP_STATUS.STATE. -/
inductive FlipPhase where
  | idle
  | armed
  | firing
  | held
  | window
deriving DecidableEq, Repr

/-- A row patch in the journal (R214). -/
structure JEntry where
  pkt : Nat
  leaf : Nat
  pos : Nat
  stp : Word
  bytes : List Byte
deriving DecidableEq, Repr

/-- A PATCH packet in progress: its block with the counts so far, entries not yet in the journal, and entries in the journal. -/
structure PatchPkt where
  id : Nat
  port : Nat
  tag : Dword
  block : PatchBlock
  units : Nat
  todo : List (Nat × List Byte)
  inJournal : Nat
  /-- A multicast packet is applied but not answered (R276). -/
  answer : Bool
deriving DecidableEq, Repr

/-- An accepted SEAL and the packets ordered before it (R216). -/
structure SealWait where
  port : Nat
  tag : Dword
  block : PatchBlock
  before : Nat
  answer : Bool
deriving DecidableEq, Repr

/-- An accepted ARM (R218). -/
structure ArmWait where
  port : Nat
  tag : Dword
  block : PatchBlock
deriving DecidableEq, Repr

/-- Flips, seals, the journal and row versions (R210 to R226, R230). -/
structure Weights where
  wLive : Word
  wSealed : Word
  flip : FlipPhase
  /-- The ARM in force and its latched hold limit. -/
  arm : Option ArmWait
  holdLimit : Word
  splitValid : Bool
  splitRemote : Bool
  splitWho : Nat
  splitStep : Word
  flipTarget : Word
  flipTide : Dword
  firedTide : Dword
  /-- A sealed step has changed since the last decision (R221). -/
  recheck : Bool
  /-- A Single-bank window's FLIP_SPLIT has been raised (R225). -/
  windowRaised : Bool
  /-- Sealed step each position reports; unlisted positions report the sealed step (R216). -/
  posSealed : List (Nat × Word)
  seals : List SealWait
  /-- Positions whose replay is not complete (R223). -/
  replay : List Nat
  journal : List JEntry
  pkts : List PatchPkt
  nextPkt : Nat
  /-- VER0 and VER1 of the row directories by L × 4,096 + j (R73). -/
  ver0 : List (Nat × Word)
  ver1 : List (Nat × Word)
  /-- The XOR of a bed's 16 directories in its spare's tile, by bed × 4,096 + j: word 0, VER0 and VER1 (R73). -/
  spareTok : List (Nat × Word)
  spareVer0 : List (Nat × Word)
  spareVer1 : List (Nat × Word)
deriving DecidableEq, Repr

/-- Adapter version states, coded as CTL_ADAPTER_A.STATE. -/
inductive AdPhase where
  | free
  | loading
  | current
  | retiring
deriving DecidableEq, Repr

/-- An adapter table entry (R227, R228). -/
structure AdEntry where
  phase : AdPhase
  handle : Nat
  rank : Nat
  first : Nat
  slots : Nat
  move : Bool
deriving DecidableEq, Repr

/-- An ADAPTER_LOAD in progress or waiting (R227, R270). -/
structure AdLoad where
  port : Nat
  tag : Dword
  block : PatchBlock
  /-- The table entry taken, once started. -/
  ver : Option Nat
  src : Dword
  data : List Byte
  written : Bool
  /-- Remote children whose ADAPTER_DONE is awaited (R270). -/
  await : List Nat
  waited : Bool
deriving DecidableEq, Repr

/-- An ADAPTER record that a member has written: its version, handle, rank and bytes, and the remote children that have not answered for
it (R270). -/
structure Relay where
  ver : Nat
  handle : Nat
  rank : Nat
  bytes : List Byte
  await : List Nat
deriving DecidableEq, Repr

/-- The adapter table and loads in order of arrival (R227 to R230, R270). -/
structure Adapters where
  table : List AdEntry
  loads : List AdLoad
  /-- Versions to re-pin from at the next sheet that names the context (MOVE, R228): (context, version). -/
  moves : List (Nat × Nat)
  /-- For a member: ADAPTER records that wait for a free run (R270): version, handle, rank, bytes. -/
  records : List (Nat × Nat × Nat × List Byte)
  /-- For a member: versions written here whose remote children have not all answered, with the record's bytes (R270). -/
  relays : List Relay
deriving DecidableEq, Repr

/-! ### The image (16_image.md) -/

/-- A remote child named by the image (R322). -/
structure ChildCfg where
  addr : Nat
  alt : Nat
  sig : Dword
deriving DecidableEq, Repr

/-- The settings of the applied image (R315 to R323). -/
structure ImageCfg where
  version : Word
  zynfein : Word
  wfmt : WFmt
  arr : Nat
  norm : NormMode
  policy : RangePolicy
  hchunks : Nat
  boundExp : Nat
  fanout : List Nat
  remote : Nat
  vhFmt : WFmt
  vocab : Nat
  eps : F32
  valueBias : F32
  vhUnits : Nat
  actSlot : Nat
  derivSlot : Nat
  /-- Token and FROZEN of every row, by leaf in storage order (R318). -/
  rows : List (List (Nat × Bool))
  gain : List (BitVec 16)
  wdog : Nat
  ovfLimit : Nat
  modes : Nat
  passCap : Nat
  role : Nat
  tide : Nat
  allowOverlap : Bool
  links : Nat
  parent : Nat
  children : List ChildCfg
  loose : Bool
  vell : Bool
deriving DecidableEq, Repr

/-- What the engine passes to the shared security block (R327). -/
structure AuthReq where
  digest : List Byte
  auth : List Byte
  config : Nat
  version : Word
  device : Dword
deriving DecidableEq, Repr

/-- The image load (R325 to R331). `phase` is CTL_IMG_STATUS.PHASE. -/
structure ImageSt where
  cfg : Option ImageCfg
  /-- The tree signature of the applied image (R44). -/
  treeSig : Dword
  phase : Nat
  err : Bool
  kind : Nat
  section_ : Nat
  src : Dword
  /-- Bytes read so far, and whether the header fixed the length. -/
  data : List Byte
  /-- Oscillator time of the last byte (R325 AUTH). -/
  lastByte : Nat
  /-- What the security block was given, until its verdict (R327). -/
  authReq : Option AuthReq
  /-- What the read has checked, waiting for the verdict and phases 5 to 7. -/
  checked : Option ImageCfg
  checkedGen : GenBuf
  checkedSig : Dword
  /-- Merge cells assigned so far, the argument of the free choice of R31. -/
  applications : Nat
deriving DecidableEq, Repr

/-! ### Beds, pans, cells, probes (02 and 14) -/

/-- Bed states, coded as PAN_BED_STATUS.STATE. -/
inductive BedPhase where
  | intact
  | rebuilding
  | substituted
  | degraded
  | restoring
  | parityBuild
deriving DecidableEq, Repr

/-- A bed: its state, the member its spare serves, and where a takeover or return stands. -/
structure Bed where
  phase : BedPhase
  subst : Option Nat
  /-- Steps 4 to 6 of Table 2.5 are done: the leaf is on the spare. -/
  switched : Bool
  /-- Step 8 of Table 2.5 is still to come. -/
  shadowLeft : Bool
  /-- A returning pan's copy has begun, and has ended (R285). -/
  copying : Bool
  copied : Bool
  /-- The spare of an INTACT or RESTORING bed is fenced for its probe (R42). -/
  spareProbe : Bool
deriving DecidableEq, Repr

/-- A physical leaf pan's fault state, PAN_FLT. `recent` lists the tide counts of its transients, as of the tide in force. -/
structure PanSt where
  fenced : Bool
  lasting : Bool
  lastKind : Nat
  failPhase : Nat
  transient : Nat
  recent : List Int
deriving DecidableEq, Repr

/-- Merge cell states, coded as PAN_CELL.STATE. -/
inductive CellPhase where
  | free
  | inUse (node : Nat)
  | fenced
  | lasting
deriving DecidableEq, Repr

/-- A leaf-tile merge cell. -/
structure CellSt where
  phase : CellPhase
  transient : Nat
  recent : List Int
deriving DecidableEq, Repr

/-- A probe in progress (R282): its unit, the oscillator time of its start (R337), the block it walks. -/
structure Probe where
  unit : UnitId
  start : Nat
  block : Nat
  /-- The fault code, 6 for software, 7 for a neighbour, 0 for an image. -/
  cause : Nat
  /-- The neighbour a time-out's request crossed to (R284). -/
  crossed : Option UnitId
  /-- A detection in the probed unit has counted toward the probe's result (R280). -/
  hit : Bool
deriving DecidableEq, Repr

/-- Physical placement, faults and probes (R38 to R43, R279 to R291, R296). -/
structure Fabric where
  beds : List (Nat × Bed)
  pans : List (Nat × PanSt)
  cells : List (Nat × CellSt)
  /-- Positions that no pan serves (R42). -/
  unplaced : List Nat
  probes : List Probe
  halted : Bool
  /-- ST_STATUS fields. -/
  stBusy : Bool
  stErr : Bool
  stResult : Nat
  stPhase : Nat
  stKind : Nat
  stCell : Bool
  stPhys : Nat
  /-- MG_FLT_SUMMARY without STALE, STALE, and MG_BED_MIRROR (R291). -/
  mgSummary : Word
  mgStale : Bool
  mgBeds : List (Nat × Word)
  divergeCount : Nat
  divergeLast : Nat
  /-- Tide count of the last mirror check. -/
  mirrorAt : Nat
  /-- CTL_FLT_STATUS and every PAN_BED_STATUS as they were last pushed, none before the first push: the model's own field, which tells the
  changes that a push carries (R291). -/
  mgHeld : Option (Word × List (Nat × Word))
deriving DecidableEq, Repr

/-! ### Black box (14_faults.md) -/

/-- A black-box record without its CRC (Table 14.6). `torn` marks one whose CRC fails (R293). -/
structure BbRec where
  tide : Dword
  recno : Word
  kind : Nat
  unitType : Nat
  unit : Nat
  seq : Word
  arg0 : Word
  arg1 : Word
  torn : Bool
deriving DecidableEq, Repr

/-- The recorder (R292 to R296). -/
structure BlackBox where
  /-- Retained records, oldest first, at most 8,192. -/
  ring : List BbRec
  /-- Records written since the always-on supply came up. -/
  recno : Word
  lost : Nat
  frozen : Bool
  posting : Bool
  postLeft : Nat
  trigKind : Nat
  /-- BB_CTL.POST and TRIG. -/
  post : Nat
  trig : Nat
  /-- Oscillator time at which the recorder has written every record given to it (R292). -/
  freeAt : Nat
  /-- Tide count of each unit's last ECC_CE or TILE_CE record, by kind and unit (R292). -/
  ceAt : List (Nat × Nat)
  /-- MG_BB_SEL. -/
  sel : Nat
  /-- MG_BB_WORD. -/
  words : List Word
deriving DecidableEq, Repr

/-! ### Event controller (15_events.md) -/

/-- A target: control, stack (top first), offer, lines and fault (R302 to R309). -/
structure EvTarget where
  en : Bool
  modTime : Nat
  stack : List (Nat × Nat)
  offer : Nat
  irq : Bool
  sleep : Bool
  wakeOut : Bool
  lastClaim : Nat
  faultValid : Bool
  faultCount : Nat
  faultTop : Nat
  faultWritten : Nat
deriving DecidableEq, Repr

/-- An external input: its raw level and the filter's times on the oscillator (R299, R300, R310). -/
structure ExtInput where
  raw : Bool
  /-- Start of the rising level being timed as a pulse. -/
  rise : Option Nat
  /-- End of the hold-off in force. -/
  hold : Option Nat
  /-- Start of the high level timed for STUCK. -/
  high : Option Nat
  /-- Times of recent rising transitions (chatter). -/
  rises : List Nat
  /-- The asynchronous latch (R310). -/
  latch : Bool
deriving DecidableEq, Repr

/-- The event controller (R297 to R314). Bit s of a source set is source s. -/
structure Events where
  pending : BitVec 256
  mask : BitVec 256
  active : BitVec 256
  wake : BitVec 256
  /-- Sources whose offer a mask, a clear, a retarget, a disabled or a sleeping target has withdrawn since the last arbitration (Table 15.2). -/
  withdrawn : BitVec 256
  /-- EV_SRC_CFG as (TARGETS, PRIO); unlisted sources hold the reset value. -/
  cfg : List (Nat × (Nat × Nat))
  targets : List EvTarget
  inputs : List ExtInput
  stuckMs : Nat
  chatLimit : Nat
  holdoff : Nat
  minPulse : Nat
  inv : Word
  quar : Word
  chat : Word
  aoRaw : Word
  merged : Nat
  rejected : Nat
deriving DecidableEq, Repr

/-! ### Reach (13_reach_fabric.md) -/

/-- Link states, coded as RCH_LINK_STATUS.STATE. -/
inductive LinkPhase where
  | down
  | lock
  | hail
  | check
  | up
  | drain
  | failed
deriving DecidableEq, Repr

/-- What an outbound flit carries (Table 13.3). -/
inductive OutFlit where
  | hail (frame : List Byte)
  | goodbye (addr : Nat)
  | route (entries : List (Nat × Nat))
  | tideReq (t1 : Nat)
  | tideRsp (t1 t2 t3 : Nat)
  | join (addr : Nat) (sig : List Byte) (live sealed : Word)
  | admission
  | refuse (reason : Nat)
  | sealed (stp : Word)
  | arm (stp : Word) (tide : Dword)
  | disarm (stp : Word) (tide : Dword)
  | fire (stp : Word)
  | lost (addr : Nat)
  | depart
  | mcast (group : Nat) (segment : List Byte)
  | mcastReport (group : Nat) (stp : Word)
  | sheetOpen (seq : Nat) (live genId : Word) (slots order : Nat)
  | rowCtl (slot : Nat) (c : CtlWord)
  | brine (slot : Nat) (bytes : List Byte)
  | grader (slot : Nat) (bytes : List Byte)
  | mask (slot ref : Nat)
  | watch (slot : Nat) (toks : List Nat)
  | pass (slot : Nat) (c : CtlWord)
  | abort (seq : Nat)
  | adapter (v handle rank : Nat) (bytes : List Byte)
  | adapterFree (v : Nat)
  | windrow (slot pass : Nat) (entries : List Entry)
  | stats (slot pass : Nat) (s : Stats)
  | vector (slot pass : Nat) (v : VectorRec)
  | reject (slot reason : Nat)
  | progress (seq : Nat)
  | placement (bytes : List Byte)
  | adapterDone (v result : Nat)
  /-- A slot with nothing ready: acknowledgement, NAK and a returned credit. -/
  | idle (ack : Nat) (nak : Bool) (credit cvc : Nat)
deriving DecidableEq, Repr

/-- A sequenced flit in the replay buffer (R254, R255): what does not change from one sending to the next. -/
structure Flit where
  type : Nat
  vc : Nat
  seq : Nat
  payload : List Byte
deriving DecidableEq, Repr

/-- A link (R250 to R260). -/
structure LinkSt where
  /-- Lanes, 0 for an absent link. -/
  width : Nat
  phase : LinkPhase
  en : Bool
  /-- The output TX_EN: high while EN is 1 (Table 13.4). -/
  txEn : Bool
  detach : Bool
  retrain : Bool
  reason : Nat
  skew : Nat
  peer : Nat
  calTx : Nat
  calRx : Nat
  /-- Oscillator time of the state's entry, of the last good flit and of the last HAIL. -/
  since : Nat
  lastGood : Nat
  hailAt : Nat
  /-- DOWN was entered by a failure: 1 ms to wait (Table 13.4). -/
  wait : Bool
  /-- The peer's hail frame. -/
  peerFrame : List Byte
  /-- Next SEQ to send, and next SEQ expected. -/
  txSeq : Nat
  rxSeq : Nat
  /-- Credits held per VC. -/
  credits : List Nat
  /-- Sequenced flits not yet acknowledged, with the times each was replayed, oldest first. -/
  replay : List (Flit × Nat)
  /-- Messages waiting for credits or replay space, in order. -/
  queue : List OutFlit
  /-- Bytes of the first waiting record of VC1 and of VC2 that have left (R257). -/
  begun : List Nat
  /-- Received bytes of each virtual channel that no record has taken (R257). -/
  stream : List (List Byte)
  /-- Credits to return, by virtual channel (R256). -/
  owed : List Nat
  /-- The flit stream's bytes that no group has taken, the next GSEQ, and the lanes' scramblers, none before the first group (R251). -/
  group : List Byte
  gseq : Nat
  scramblers : Option (List Nat)
  uncorr : Nat
  replays : Nat
  proto : Nat
  corr : Nat
deriving DecidableEq, Repr

/-- Remote child states, coded as RCH_CHILD.STATE. -/
inductive ChildPhase where
  | absent
  | admitted
  | lost
  | departed
  | refused
deriving DecidableEq, Repr

/-- A remote child slot (R265, R274). -/
structure ChildSt where
  phase : ChildPhase
  link : Nat
  alt : Bool
  addr : Nat
  /-- Address and SIG of a JOIN in progress, LIVE and SEALED it carried. -/
  joining : Option (Nat × List Byte × Word × Word)
  /-- Admitted, to join at the next boundary (R266). -/
  joinsNext : Bool
  /-- The live step of a child that is to join: its JOIN's, or the one of the FIRE it was sent (R265, R274). -/
  live : Word
  /-- Leaves at the next boundary (R266, R273). -/
  departing : Bool
  /-- Last SEALED of the child. -/
  sealed : Option Word
  /-- Tokens placed below the child, and the engines of its subtree. -/
  tokens : List Nat
deriving DecidableEq, Repr

/-- Domain states, coded as RCH_DOMAIN_STATUS.STATE. -/
inductive DomPhase where
  | none
  | forming
  | formed
  | partialDom
  | failed
  | standalone
deriving DecidableEq, Repr

/-- The merge domain as this engine sees it (R264 to R275). -/
structure DomainSt where
  phase : DomPhase
  reason : Nat
  children : List ChildSt
  /-- A member's JOIN has been sent, and it has been admitted. -/
  joined : Bool
  admitted : Bool
  /-- A member that was admitted has left its domain (R270, R274). -/
  left : Bool
  /-- The lowest sealed step of the subtree, and the engine's own, when SEALED was last sent (R271). -/
  reported : Word
  ownReported : Word
  /-- FIRE(S) received and not yet fired (R271). -/
  fire : Option Word
  /-- SEQ of the parent's sheet whose row records arrive. -/
  cur : Nat
deriving DecidableEq, Repr

/-- A multicast group's configuration and status (R276, R277). -/
structure McastSt where
  join : Bool
  source : Bool
  upLink : Nat
  down : Nat
  sealedMin : Word
  /-- Last reports by link. -/
  reports : List (Nat × Word)
  reported : Option Word
  /-- Segments of a packet received so far. -/
  partialPkt : List Byte
  /-- Flits received from UP_LINK whose copies have not all left, which hold their VC3 credits (R277). -/
  holding : Nat
deriving DecidableEq, Repr

/-- A route entry (R262): hops, link, and the oscillator time it was last offered. -/
structure RouteEnt where
  addr : Nat
  link : Nat
  hops : Nat
  at_ : Nat
deriving DecidableEq, Repr

/-- A PATCH packet that a multicast source without JOIN answers once its flits have left on every DOWN link (R276). -/
structure McastAck where
  port : Nat
  tag : Dword
  block : PatchBlock
  flits : Nat
  /-- The ingress units that the packet holds until it has left on every DOWN link (R208). -/
  units : Nat
deriving DecidableEq, Repr

/-- The reach port. -/
structure Reach where
  /-- The block address, none for 0xFFFF (R261). -/
  addr : Option Nat
  /-- MG_RCH_ADDR.ADDR as written (R278). -/
  addrField : Nat
  /-- The address under which the engine takes part, as its neighbours were last told it (R261). -/
  addrTold : Option Nat
  /-- RCH_LINK_CFG.WIDTHS. -/
  widths : Nat
  links : List LinkSt
  /-- PHY_READY of the 8 lanes. -/
  phy : List Bool
  routes : List RouteEnt
  routesFull : Bool
  advertisedAt : Nat
  dom : DomainSt
  groups : List McastSt
  /-- Device identity from the shared security block (Table 13.5). -/
  device : Dword
  /-- Packets that a multicast source without JOIN has still to answer, in order. -/
  mcastAcks : List McastAck
  /-- Messages that have left, as (link, message), oldest first. -/
  sent : List (Nat × OutFlit)
  /-- The 256-byte flits that have left, replays among them, as (link, bytes). -/
  flits : List (Nat × List Byte)
  /-- The codewords that have left, as (link, lane, symbols) (R251). -/
  codewords : List (Nat × Nat × List Nat)
deriving DecidableEq, Repr

/-! ### Register responses -/

/-- The response to the last register access: the port, its value, and whether it is an error response (R9, R335). -/
structure Resp where
  mg : Bool
  value : Word
  err : Bool
deriving DecidableEq, Repr

/-- The state of the block. -/
structure State where
  /-- The licensed configuration of the part. -/
  part : Part
  power : Power
  tide : TideSt
  soft : SoftRegs
  ca : CountersA
  cb : CountersB
  ports : Ports
  pipe : Pipe
  masks : MaskSt
  fn : FnSt
  brine : BrineSt
  weights : Weights
  adapters : Adapters
  image : ImageSt
  fabric : Fabric
  bb : BlackBox
  events : Events
  reach : Reach
  resp : Option Resp
  /-- Commands that wait, first in, first out. -/
  pending : List Instr
deriving DecidableEq, Repr

/-! ### Reset values -/

/-- A bed at reset: INTACT. -/
def bedReset : Bed := ⟨.intact, none, false, false, false, false, false⟩

/-- A leaf pan at reset. -/
def panReset : PanSt := ⟨false, false, 0, 0, 0, []⟩

/-- A merge cell at reset: FREE. -/
def cellReset : CellSt := ⟨.free, 0, []⟩

/-- An adapter table entry at reset: FREE. -/
def adReset : AdEntry := ⟨.free, 0, 0, 0, 0, false⟩

/-- An event target at reset. -/
def targetReset : EvTarget := ⟨false, 0, [], 0, false, false, false, 0, false, 0, 0, 0⟩

/-- An external input at reset. -/
def inputReset : ExtInput := ⟨false, none, none, none, [], false⟩

/-- A link of `w` lanes at reset: DOWN, enabled, with full credits (R256). -/
def linkReset (w : Nat) : LinkSt :=
  { width := w, phase := .down, en := true, txEn := true, detach := false, retrain := false, reason := 0, skew := 0, peer := 0
    calTx := 0, calRx := 0, since := 0, lastGood := 0, hailAt := 0, wait := false, peerFrame := [], txSeq := 0, rxSeq := 0
    credits := [64, 1024, 1024, 1024], replay := [], queue := [], begun := [0, 0], stream := [[], [], [], []], owed := [0, 0, 0, 0]
    group := [], gseq := 0, scramblers := none, uncorr := 0, replays := 0, proto := 0, corr := 0 }

/-- A remote child slot at reset: ABSENT. -/
def childReset : ChildSt := ⟨.absent, 0, false, 0, none, false, 0, false, none, []⟩

/-- A multicast group at reset. -/
def mcastReset : McastSt := ⟨false, false, 0, 0, 0, [], none, [], 0⟩

/-- EV_SRC_CFG at reset: TARGETS 1 and PRIO 0, all 0 for source 0. -/
def srcCfgReset (s : Nat) : Nat × Nat := if s = 0 then (0, 0) else (1, 0)

/-- Power at reset: the always-on supply is up, the logic domain unpowered (Table 17.6). -/
def powerReset : Power :=
  { aoUp := true, logicOn := false, st := .off, target := none, queued := none, reqState := .on, watcherWake := false
    cur := .nominal, req := .nominal, ramp := none, rampQueued := none, resetHeld := false, bootSteps := [], ready := false
    headFail := false, bootFenced := 0, paceValid := false, tj := 0, pace := 0, paceAt := 0
    mgPace := 0x01000000#32, mgPaceStale := true, imgFloor := 0 }

/-- The tide at reset: 0 and counting as a master (Table 17.6, TIDE_STATUS). -/
def tideReset : TideSt :=
  { count := 0, phase := .locked, refOk := true, follower := false, measured := false, hops := 0, theta := 0, steps := 0, slew := .none
    slewEdges := 0, slewLeft := 0, osc := 0, lastEdge := 0, calibrated := false, exchangeAt := 0, calibrateAt := 0
    hiLatch := 0, gateEn := false, gateCount := 0, gateOpened := 0 }

/-- Software registers at their reset values. -/
def softReset : SoftRegs :=
  { scrubEn := true, scrubInterval := 16, ovfBaseLoA := 0, ovfBaseHiA := 0, ovfBaseLoB := 0, ovfBaseHiB := 0
    maskSrcLo := 0, maskSrcHi := 0, fnSrcLo := 0, fnSrcHi := 0, imgSrcLo := 0, imgSrcHi := 0
    flipHoldLimit := 0x000F4240#32, patchShare := 1, gateLo := 0, gateHi := 0, stepTimeout := 20, linkTimeout := 8
    flapWindow := 1000, flapLimit := 3, readLimit := 100 }

/-- Counters at reset. -/
def countersAReset : CountersA :=
  { clamped := 0, poisoned := 0, residueHead := 0, residueArray := 0, residueLast := 0, eccUe := 0, eccCe := 0, eccLast := 0
    ovfStalls := 0, ovfRetries := 0, scoreNan := 0, scoreInf := 0, graderOvf := 0, graderPeak := 0, selExtra := 0, selCapped := 0
    selDup := 0, selLast := 0, verNodes := 0, verAccepted := 0, verAllRej := 0, scoreTmask := 0 }

/-- Counters at reset. -/
def countersBReset : CountersB :=
  { fnStall := 0, fnDraws := 0, fnDone := 0, maskDone := 0, imgDone := 0, egressStall := 0, malformed := 0, ackErr := 0, cancelRows := 0
    countDrops := 0, patchRows := 0, patchFrozen := 0, patchStale := 0, patchNotPlaced := 0, patchBadData := 0, loose := 0
    fltLasting := 0, fltTransient := 0, fltReruns := 0, tileUe := 0, headCe := 0, tileCe := 0, truncated := 0, readTimeouts := 0
    domAborted := 0, domLosses := 0 }

/-- Ports at reset: no credit before start-up step 7 (R343) (DESIGN CHOICE, log entry 127). -/
def portsReset : Ports := ⟨⟨false, 0, 0⟩, ⟨false, 0, 0⟩, [], [], [], [], [], 0, 0⟩

/-- The pipeline at reset: SEQ from 0, CTL_SHEET_SEQ 0xFFFF_FFFF, every context FREE. -/
def pipeReset : Pipe := ⟨[], [], [], [], 0, 0xFFFFFFFF#32, 0, false, 0, []⟩

/-- The mask store at reset: every bit 1. -/
def maskReset : MaskSt := ⟨[], .idle, false, 0, 0, 0, []⟩

/-- Function buffers at reset: the built-in generation in buffer 0, in force. -/
def fnReset : FnSt := ⟨.builtin, .empty, 0, .idle, false, 0, 0, 0, []⟩

/-- The brine store at reset: nothing listed (DESIGN CHOICE, log entry 125). -/
def brineReset : BrineSt := ⟨[], 0, [], [], [], [], [], []⟩

/-- Weights at reset. -/
def weightsReset : Weights :=
  { wLive := 0, wSealed := 0, flip := .idle, arm := none, holdLimit := 0, splitValid := false, splitRemote := false, splitWho := 0
    splitStep := 0, flipTarget := 0, flipTide := 0, firedTide := 0, recheck := false, windowRaised := false, posSealed := [], seals := []
    replay := [], journal := [], pkts := [], nextPkt := 0, ver0 := [], ver1 := [], spareTok := [], spareVer0 := [], spareVer1 := [] }

/-- The adapter table at reset. -/
def adaptersReset : Adapters := ⟨List.replicate 16 adReset, [], [], [], []⟩

/-- No image applied. -/
def imageReset : ImageSt :=
  { cfg := none, treeSig := 0, phase := 0, err := false, kind := 0, section_ := 0, src := 0, data := [], lastByte := 0
    authReq := none, checked := none, checkedGen := .empty, checkedSig := 0, applications := 0 }

/-- Beds INTACT, nothing fenced, the mirror not yet pushed (MG_FLT_SUMMARY reset 0x0000_0800). -/
def fabricReset : Fabric :=
  { beds := [], pans := [], cells := [], unplaced := [], probes := [], halted := false, stBusy := false, stErr := false
    stResult := 0, stPhase := 0, stKind := 0, stCell := false, stPhys := 0, mgSummary := 0, mgStale := true, mgBeds := []
    divergeCount := 0, divergeLast := 0, mirrorAt := 0, mgHeld := none }

/-- The black box at reset: empty, BB_CTL 0x0020_0003. -/
def bbReset : BlackBox := ⟨[], 0, 0, false, false, 0, 0, 256, 3, 0, [], 0, List.replicate 8 0⟩

/-- The event controller at reset: every source blocked. -/
def eventsReset : Events :=
  { pending := 0, mask := BitVec.allOnes 256, active := 0, wake := 0, withdrawn := 0, cfg := [], targets := List.replicate 8 targetReset
    inputs := List.replicate 32 inputReset, stuckMs := 1, chatLimit := 64, holdoff := 50, minPulse := 8, inv := 0, quar := 0
    chat := 0, aoRaw := 0, merged := 0, rejected := 0 }

/-- The domain at reset: none. -/
def domainReset : DomainSt := ⟨.none, 0, [], false, false, false, 0, 0, none, 0⟩

/-- The reach port at reset: no address, lanes 0 to 7 as one link (R250) (DESIGN CHOICE, log entries 12 and 127). -/
def reachReset : Reach :=
  { addr := none, addrField := 0, addrTold := none, widths := 4, links := linkReset 8 :: List.replicate 7 (linkReset 0), phy := List.replicate 8 false
    routes := [], routesFull := false, advertisedAt := 0, dom := domainReset, groups := List.replicate 16 mcastReset, device := Config.deviceId
    mcastAcks := [], sent := [], flits := [], codewords := [] }

/-- The state after reset of a configuration: the always-on supply has just come up and the logic domain is unpowered (Table 17.6)
(DESIGN CHOICE, log entry 1). -/
def State.resetOf (p : Part) : State :=
  { part := p, power := powerReset, tide := tideReset, soft := softReset, ca := countersAReset, cb := countersBReset
    ports := portsReset, pipe := pipeReset, masks := maskReset, fn := fnReset, brine := brineReset, weights := weightsReset
    adapters := adaptersReset, image := imageReset, fabric := fabricReset, bb := bbReset, events := eventsReset, reach := reachReset
    resp := none, pending := [] }

/-- The state after reset. The model resets a Dambulor-1024; no statement rests on which configuration it is (DESIGN CHOICE, log
entry 1). -/
def State.reset : State := State.resetOf .d1024

end Sys2Proof.Machine
end

