-- ==== Sys2Proof/Machine/Ops.lean ====
section
/-!
DEFINITION. The named operations that the commands share: one updater per group of the state, raising an event, the black-box
recorder, the logical tree and the physical placement, the status words of the fault chapter, register responses, and resets.
-/

namespace Sys2Proof.Machine

/-! ### Updating one group of the state -/

/-- Change the power group. -/
def State.updPower (s : State) (f : Power → Power) : State := { s with power := f s.power }
/-- Change the tide group. -/
def State.updTide (s : State) (f : TideSt → TideSt) : State := { s with tide := f s.tide }
/-- Change the software-set registers. -/
def State.updSoft (s : State) (f : SoftRegs → SoftRegs) : State := { s with soft := f s.soft }
/-- Change the counters of chapters 03 to 08. -/
def State.updCa (s : State) (f : CountersA → CountersA) : State := { s with ca := f s.ca }
/-- Change the counters of chapters 09 to 17. -/
def State.updCb (s : State) (f : CountersB → CountersB) : State := { s with cb := f s.cb }
/-- Change the ports. -/
def State.updPorts (s : State) (f : Ports → Ports) : State := { s with ports := f s.ports }
/-- Change the pipeline. -/
def State.updPipe (s : State) (f : Pipe → Pipe) : State := { s with pipe := f s.pipe }
/-- Change the mask store. -/
def State.updMasks (s : State) (f : MaskSt → MaskSt) : State := { s with masks := f s.masks }
/-- Change the generation buffers. -/
def State.updFn (s : State) (f : FnSt → FnSt) : State := { s with fn := f s.fn }
/-- Change the brine store. -/
def State.updBrine (s : State) (f : BrineSt → BrineSt) : State := { s with brine := f s.brine }
/-- Change the weights group. -/
def State.updWeights (s : State) (f : Weights → Weights) : State := { s with weights := f s.weights }
/-- Change the adapters group. -/
def State.updAdapters (s : State) (f : Adapters → Adapters) : State := { s with adapters := f s.adapters }
/-- Change the image group. -/
def State.updImage (s : State) (f : ImageSt → ImageSt) : State := { s with image := f s.image }
/-- Change the fabric group. -/
def State.updFabric (s : State) (f : Fabric → Fabric) : State := { s with fabric := f s.fabric }
/-- Change the black box. -/
def State.updBb (s : State) (f : BlackBox → BlackBox) : State := { s with bb := f s.bb }
/-- Change the event controller. -/
def State.updEvents (s : State) (f : Events → Events) : State := { s with events := f s.events }
/-- Change the reach port. -/
def State.updReach (s : State) (f : Reach → Reach) : State := { s with reach := f s.reach }

/-- An access to a register port has completed: its response (R9, R335, R336). -/
def respond (mg : Bool) (value : Word) (err : Bool) (s : State) : State := { s with resp := some ⟨mg, value, err⟩ }

/-! ### Events (R297, R298) -/

/-- Set or clear one bit of a source set. -/
def setSrc (v : BitVec 256) (n : Nat) (b : Bool) : BitVec 256 :=
  if b then v ||| (1#256 <<< n) else v &&& ~~~(1#256 <<< n)

/-- An occurrence of a source sets its pending bit; number 0 means none (R297, R298). -/
def raise (n : Nat) (s : State) : State :=
  if 0 < n ∧ n < 256 then s.updEvents fun e => { e with pending := setSrc e.pending n true } else s

/-- Source numbers of Table 15.1. -/
def srcLinkDown (l : Nat) : Nat := 33 + l
/-- LINK_UP sources. -/
def srcLinkUp (l : Nat) : Nat := 41 + l
/-- FLIP_SPLIT. -/
def srcFlipSplit : Nat := 49
/-- FLIP_ABANDONED. -/
def srcFlipAbandoned : Nat := 50
/-- FLIP_FIRED. -/
def srcFlipFired : Nat := 51
/-- ADAPTER_WAIT. -/
def srcAdapterWait : Nat := 52
/-- ROUTE_FULL. -/
def srcRouteFull : Nat := 53
/-- DOMAIN_OVERLAP. -/
def srcDomainOverlap : Nat := 54
/-- PARTNER_LOST. -/
def srcPartnerLost : Nat := 55
/-- GEN_MISMATCH. -/
def srcGenMismatch : Nat := 56
/-- MCAST_PRUNE. -/
def srcMcastPrune : Nat := 57
/-- TIDE_STEP. -/
def srcTideStep : Nat := 58
/-- TIDE_LOST. -/
def srcTideLost : Nat := 59
/-- PAN_LASTING. -/
def srcPanLasting : Nat := 60
/-- BED_DEGRADED. -/
def srcBedDegraded : Nat := 61
/-- ENGINE_HALT. -/
def srcEngineHalt : Nat := 62
/-- BB_FROZEN. -/
def srcBbFrozen : Nat := 63
/-- MGMT_DIVERGE. -/
def srcMgmtDiverge : Nat := 64
/-- EV_STACK_FAULT. -/
def srcStackFault : Nat := 65
/-- STUCK. -/
def srcStuck : Nat := 66
/-- MASK_LOAD_END. -/
def srcMaskLoadEnd : Nat := 67
/-- FN_LOAD_END. -/
def srcFnLoadEnd : Nat := 68
/-- PROBE_END. -/
def srcProbeEnd : Nat := 69
/-- GATE_OPEN. -/
def srcGateOpen : Nat := 70

/-! ### Black box (R292 to R294) -/

/-- Record kinds of the trigger groups of R294, as the group's bit. -/
def bbGroup (kind : Nat) : Option Nat :=
  if kind = 0x25 ∨ kind = 0x29 ∨ kind = 0x27 then some 0
  else if kind = 0x2A then some 1
  else if (0x11 ≤ kind ∧ kind ≤ 0x14) ∨ kind = 0x16 ∨ kind = 0x17 then some 2
  else if kind = 0x30 ∨ kind = 0x32 ∨ kind = 0x34 ∨ kind = 0x35 ∨ kind = 0x37 then some 3
  else none

/-- Whether a record of this kind is a trigger; a FREEZE record always is (R294). -/
def bbTriggers (b : BlackBox) (kind : Nat) : Bool :=
  kind == 0x41 || (match bbGroup kind with | some g => bitOf b.trig g | none => false)

/-- Records given to the recorder and not yet written (R292: one record per 2 ns) (DEDUCED, log entry 117). -/
def bbBacklog (b : BlackBox) (osc : Nat) : Nat := ceilDiv (b.freeAt - osc) 2

/-- The recorder freezes (R294). -/
def bbFreeze (b : BlackBox) : BlackBox := { b with frozen := true, posting := false, postLeft := 0 }

/-- A record enters the ring; the oldest of 8,192 gives way (R292). -/
def bbPush (b : BlackBox) (r : BbRec) : BlackBox :=
  { b with recno := r.recno, ring := (b.ring ++ [r]).drop (b.ring.length + 1 - 8192) }

/-- What a written record does to posting and freezing (R294) (DEDUCED, log entry 118). -/
def bbAfter (b : BlackBox) (kind : Nat) : BlackBox :=
  if b.posting then (if b.postLeft ≤ 1 then bbFreeze b else { b with postLeft := b.postLeft - 1 })
  else if bbTriggers b kind then
    let t := { b with trigKind := kind }
    if b.post = 0 then bbFreeze t else { t with posting := true, postLeft := b.post }
  else b

/-- A record reaches the recorder (R292 to R294) (DEDUCED, log entry 117). -/
def bbRecord (kind unitType unit : Nat) (seq arg0 arg1 : Word) (s : State) : State :=
  if s.bb.frozen ∨ 64 < bbBacklog s.bb s.tide.osc then s.updBb fun b => { b with lost := satAdd 0xFF b.lost 1 }
  else
    let r : BbRec := ⟨s.tide.count, s.bb.recno + 1, kind, unitType, unit, seq, arg0, arg1, false⟩
    let b1 := bbAfter (bbPush s.bb r) kind
    let s1 := s.updBb fun b => { b1 with freeAt := max b.freeAt s.tide.osc + 2 }
    if b1.frozen then raise srcBbFrozen s1 else s1

/-- No sheet concerned (Table 14.6). -/
def noSeq : Word := 0xFFFFFFFF#32

/-- A number as a register word. -/
def word (n : Nat) : Word := BitVec.ofNat 32 n

/-- An ECC_CE or TILE_CE record, at most one per unit in any 2^20 ticks (R292). -/
def bbCorrected (kind unitType unit : Nat) (seq arg0 arg1 : Word) (s : State) : State :=
  let key := (kind * 8 + unitType) * 65536 + unit
  let last := s.bb.ceAt.find? fun p => p.1 == key
  let now := s.tide.count.toNat
  let due := match last with | some p => decide (p.2 + 2 ^ 20 ≤ now) || decide (now < p.2) | none => true
  if due then
    bbRecord kind unitType unit seq arg0 arg1 (s.updBb fun b => { b with ceAt := (key, now) :: b.ceAt.filter fun p => p.1 != key })
  else s

/-! ### The logical tree (R33, R34) -/

/-- The fan-out list in force (Table 0.1 before an image). -/
def fanout (s : State) : List Nat := match s.image.cfg with | some c => c.fanout | none => s.part.defaultTree

/-- Remote children in force (R37). -/
def remoteCount (s : State) : Nat := match s.image.cfg with | some c => c.remote | none => 0

/-- Nodes of one level, the head being level 0. -/
def levelCount (fs : List Nat) (i : Nat) : Nat := (fs.take i).foldl (· * ·) 1

/-- Number of the first node of a level in breadth-first order (Table 14.7). -/
def levelBase (fs : List Nat) : Nat → Nat
  | 0 => 0
  | i + 1 => levelBase fs i + levelCount fs i

/-- Composite nodes, the head included. -/
def nodeCount (fs : List Nat) : Nat := levelBase fs fs.length

/-- Level of a composite node, `fs.length` where there is no such node. -/
def nodeLevel (fs : List Nat) (n : Nat) : Nat :=
  match (List.range fs.length).find? fun i => decide (n < levelBase fs (i + 1)) with
  | some i => i
  | none => fs.length

/-- A child of a composite node. -/
inductive Child where
  | leaf (l : Nat)
  | node (n : Nat)
  | remote (c : Nat)
deriving DecidableEq, Repr

/-- Child `c` of a node, by the numbering of R34; the head's remote children follow its local ones (R37). -/
def childAt (fs : List Nat) (n c : Nat) : Child :=
  let i := nodeLevel fs n
  let f := fs.getD i 0
  let j := (n - levelBase fs i) * f + c
  if n = 0 ∧ f ≤ c then .remote (c - f)
  else if i + 1 < fs.length then .node (levelBase fs (i + 1) + j)
  else .leaf j

/-- Children of a node, remote ones included. -/
def childCount (fs : List Nat) (remote n : Nat) : Nat := fs.getD (nodeLevel fs n) 0 + (if n = 0 then remote else 0)

/-- The node above a leaf position and the leaf's child number there. -/
def leafParent (fs : List Nat) (l : Nat) : Nat × Nat :=
  let d := fs.length - 1
  let f := fs.getD d 1
  (levelBase fs d + l / f, l % f)

/-- The node above a composite node and its child number there; the head has none. -/
def nodeParent (fs : List Nat) (n : Nat) : Option (Nat × Nat) :=
  match nodeLevel fs n with
  | 0 => none
  | i + 1 =>
    let f := fs.getD i 1
    let j := n - levelBase fs (i + 1)
    some (levelBase fs i + j / f, j % f)

/-- Leaf positions below a composite node, as first position and count (R34). -/
def nodeLeaves (fs : List Nat) (n : Nat) : Nat × Nat :=
  let i := nodeLevel fs n
  let span := (fs.drop i).foldl (· * ·) 1
  ((n - levelBase fs i) * span, span)

/-! ### Physical placement (R38 to R43) -/

/-- A bed. -/
def bedAt (s : State) (b : Nat) : Bed := spGet bedReset s.fabric.beds b
/-- A physical leaf pan. -/
def panAt (s : State) (p : Nat) : PanSt := spGet panReset s.fabric.pans p
/-- A leaf-tile merge cell. -/
def cellAt (s : State) (p : Nat) : CellSt := spGet cellReset s.fabric.cells p

/-- Write a bed. -/
def setBed (b : Nat) (x : Bed) (s : State) : State := s.updFabric fun f => { f with beds := spSet bedReset f.beds b x }
/-- Write a pan. -/
def setPan (p : Nat) (x : PanSt) (s : State) : State := s.updFabric fun f => { f with pans := spSet panReset f.pans p x }
/-- Write a cell. -/
def setCell (p : Nat) (x : CellSt) (s : State) : State := s.updFabric fun f => { f with cells := spSet cellReset f.cells p x }

/-- A position that no pan serves; every position while the engine is halted (R42, R287). -/
def isUnplaced (s : State) (l : Nat) : Bool := s.fabric.halted || s.fabric.unplaced.contains l

/-- Some position is unplaced (R42). -/
def anyUnplaced (s : State) : Bool := s.fabric.halted || !s.fabric.unplaced.isEmpty

/-- Positions unplaced, as CTL_FLT_STATUS counts them. -/
def unplacedCount (s : State) : Nat := if s.fabric.halted then s.part.leaves else s.fabric.unplaced.length

/-- The bed's spare serves this position. -/
def onSpare (s : State) (l : Nat) : Bool :=
  let b := bedAt s (l / 16)
  b.switched && b.subst == some (l % 16)

/-- The physical pan that serves a position when one does: its default pan, or the spare from step 6 of Table 2.5 (R38, R43). -/
def panOf (s : State) (l : Nat) : Nat := if onSpare s l then 17 * (l / 16) + 16 else 17 * (l / 16) + l % 16

/-- The position a physical pan serves, none for an idle spare or a fenced-out member. -/
def leafOfPan (s : State) (p : Nat) : Option Nat :=
  let b := p / 17
  let m := p % 17
  if m = 16 then
    let x := bedAt s b
    if x.switched then x.subst.map (16 * b + ·) else none
  else if onSpare s (16 * b + m) then none
  else some (16 * b + m)

/-- PAN_BED_STATUS.STATE codes. -/
def BedPhase.code : BedPhase → Nat
  | .intact => 0
  | .rebuilding => 1
  | .substituted => 2
  | .degraded => 3
  | .restoring => 4
  | .parityBuild => 5

/-- The fence bits of a bed, bit 16 the spare. -/
def bedFenceBits (s : State) (b : Nat) : Nat :=
  ((List.range 17).map fun m => bit01 (panAt s (17 * b + m)).fenced * 2 ^ m).sum

/-- PAN_BED_STATUS (R43). -/
def bedStatus (s : State) (b : Nat) : Word :=
  let x := bedAt s b
  word (x.phase.code * 2 ^ 24 + x.subst.getD 0 * 2 ^ 20 + bit01 x.subst.isSome * 2 ^ 19 + bedFenceBits s b)

/-- CTL_FLT_STATUS. -/
def fltStatus (s : State) : Word :=
  word (bit01 s.fabric.halted * 2 ^ 31 + bit01 (!s.fabric.probes.isEmpty) * 2 ^ 30 +
    (s.fabric.pans.filter fun p => p.2.fenced).length * 2 ^ 19 +
    (s.fabric.beds.filter fun b => b.2.phase == .degraded).length * 2 ^ 12 + unplacedCount s)

/-- PAN_BED_STATUS of every bed, beds at 0 left out. -/
def bedWords (s : State) : List (Nat × Word) :=
  (List.range s.part.beds).filterMap fun b => if bedStatus s b = 0 then none else some (b, bedStatus s b)

/-- A mirror word after a push: a source that has not changed since its last push is not pushed, so that a damaged word stays for the
checker (R291) (DEDUCED, log entry 151). -/
def pushed (last source mirror : Word) : Word := if source = last then mirror else source

/-- The data path pushes every change of the summary and of the beds to the management mirror; the first push carries every word (R291)
(DEDUCED, log entry 151). -/
def pushMirrorNow (s : State) : State :=
  s.updFabric fun f =>
    { f with
      mgStale := false, mgHeld := some (fltStatus s, bedWords s)
      mgSummary := match f.mgHeld with | some q => pushed q.1 (fltStatus s) f.mgSummary | none => fltStatus s
      mgBeds := match f.mgHeld with
        | some q =>
          (List.range s.part.beds).foldl (fun m b => spSet 0 m b (pushed (spGet 0 q.2 b) (bedStatus s b) (spGet 0 f.mgBeds b))) f.mgBeds
        | none => bedWords s }

/-- The mirror becomes STALE (R291). -/
def staleMirror (s : State) : State := s.updFabric fun f => { f with mgStale := true }

/-- A push while the mirror is live; before the first push and while the logic domain is down nothing is pushed (R291). -/
def pushMirror (s : State) : State := if s.fabric.mgStale then s else pushMirrorNow s

/-- Write a bed, with a BED_STATE record when its state changes; `before` is the state whose status word the record calls before
(DEDUCED, log entry 118). -/
def changeBed (before : State) (b : Nat) (x : Bed) (s : State) : State :=
  let s1 := setBed b x s
  if x.phase = (bedAt s b).phase then s1
  else bbRecord 0x21 1 (17 * b + 16) noSeq (bedStatus s1 b) (bedStatus before b) s1

/-! ### Register ports (R9, R335, R336) -/

/-- A chip-port write: outside ON it completes with an error response and has no effect (R335). -/
@[inline] def chipWrite (eff : State → State) (s : State) : State :=
  if s.power.logicOn then respond false 0 false (eff s) else respond false 0 true s

/-- A chip-port read that returns a value and has a side effect (R335, R348). -/
def chipRead (value : Word) (eff : State → State) (s : State) : State :=
  if s.power.logicOn then respond false value false (eff s) else respond false 0 true s

/-- A management-port write, whatever the state of the logic domain (R336). -/
def mgWrite (eff : State → State) (s : State) : State := if s.power.aoUp then respond true 0 false (eff s) else s

/-- The outcome of a command: its effect where its condition holds, and no change otherwise (log entry 2). -/
@[inline] def when' (c : Bool) (t s : State) : Host.Outcome State Fault Refusal := .next (if c then t else s)

/-- The outcome of a command that names a unit: a fault where the part has no such unit (DESIGN CHOICE, log entry 2). -/
@[inline] def forUnit (there : Bool) (o : Host.Outcome State Fault Refusal) : Host.Outcome State Fault Refusal :=
  if there then o else .fault .noSuchUnit

/-! ### Counters -/

/-- Add to a 32-bit counter that saturates at 0xFFFF_FFFF. -/
def satW (v : Word) (d : Nat) : Word := word (satAdd 0xFFFFFFFF v.toNat d)

end Sys2Proof.Machine
end

