-- ==== Sys2Proof/Machine/BrineOps.lean ====
section
/-!
DEFINITION. The brine store: regions, banks, rows and directory versions, writes with parity, rebuilds and copies
(04_brine_store.md R70 to R84).
-/

namespace Sys2Proof.Machine

/-- Bytes of one pan's region (R70). -/
def regionSize : Nat := 0x280000
/-- Offset of the score buffer (Table 4.1) (DESIGN CHOICE, log entry 11). -/
def scoreBase : Nat := 0x200000
/-- Offset of the adapter slots. -/
def adapterBase : Nat := 0x240000
/-- Bytes of an adapter slot. -/
def slotSize : Nat := 0x3000
/-- Offset of the value-head region. -/
def valueBase : Nat := 0x270000

/-- A byte of a pan's region; an address nothing has written holds a zero word (Table 17.4, step 3) (DESIGN CHOICE, log entry 125). -/
def brineByte (s : State) (p off : Nat) : Byte := spGet 0 s.brine.mem (p * regionSize + off)

/-- `n` bytes of a pan's region. -/
def brineRead (s : State) (p off n : Nat) : List Byte := spRead 0 s.brine.mem (p * regionSize + off) n

/-- Write bytes of a pan's region, with no parity. -/
def brineWrite (p off : Nat) (bs : List Byte) (s : State) : State :=
  s.updBrine fun b => { b with mem := spWrite 0 b.mem (p * regionSize + off) bs }

/-- The block of 256 KiB in which an offset of a region lies. -/
def blockOfOff (off : Nat) : Nat := off / 262144

/-- Pan `p`'s read port has addressed an offset of its region (R282) (DEDUCED, log entry 164). -/
def noteRead (p off : Nat) (s : State) : State := s.updBrine fun b => { b with lastBlock := spSet 0 b.lastBlock p (blockOfOff off) }

/-- Byte-wise XOR. -/
def xorBytes (a b : List Byte) : List Byte := List.zipWith (· ^^^ ·) a b

/-- The bed keeps parity for member writes (R78) (DEDUCED, log entry 126). -/
def parityLive (s : State) (b : Nat) : Bool :=
  match (bedAt s b).phase with
  | .intact => true
  | .restoring => true
  | _ => false

/-- A write to a member's bank, adapter slot or value-head region: old bytes, new bytes, difference to the spare (R78). A spare, or a
member of a bed without parity, writes alone (DEDUCED, log entry 126). -/
def brineWriteParity (p off : Nat) (bs : List Byte) (s : State) : State :=
  let s1 := brineWrite p off bs s
  if p % 17 ≠ 16 ∧ parityLive s (p / 17) then
    let diff := xorBytes (brineRead s p off bs.length) bs
    let sp := 17 * (p / 17) + 16
    noteRead sp (off + bs.length - 1) (noteRead p (off + bs.length - 1) (brineWrite sp off (xorBytes (brineRead s sp off bs.length) diff) s1))
  else s1

/-- Copy a range of one region to another pan's (R41, R285). -/
def brineCopy (src dst lo hi : Nat) (s : State) : State :=
  s.updBrine fun b =>
    { b with
      mem := spOverlay 0 (spClear b.mem (dst * regionSize + lo) (dst * regionSize + hi)) (dst * regionSize + lo)
        (spSlice b.mem (src * regionSize + lo) (src * regionSize + hi)) }

/-- XOR of the entries of a region's range into another sparse range. -/
def sparseXor (acc e : List (Nat × Byte)) : List (Nat × Byte) :=
  e.foldl (fun a p => spSet 0 a p.1 (spGet 0 a p.1 ^^^ p.2)) acc

/-- XOR of a range over several pans, offsets from the range's start. -/
def brineXor (s : State) (pans : List Nat) (lo hi : Nat) : List (Nat × Byte) :=
  pans.foldl (fun a p => sparseXor a (spSlice s.brine.mem (p * regionSize + lo) (p * regionSize + hi))) []

/-- Set a range of pan `dst` to the XOR of the range over `pans`, whose read ports serve it to its end (R40, R78). -/
def brineRebuild (pans : List Nat) (dst lo hi : Nat) (s : State) : State :=
  s.updBrine fun b =>
    { b with
      mem := spOverlay 0 (spClear b.mem (dst * regionSize + lo) (dst * regionSize + hi)) (dst * regionSize + lo)
        (brineXor s pans lo hi)
      lastBlock := pans.foldl (fun m p => spSet 0 m p (blockOfOff (hi - 1))) b.lastBlock }

/-- The members of a bed but one, and its spare. -/
def survivors (b m : Nat) : List Nat := ((List.range 17).filter fun i => i != m).map (17 * b + ·)

/-- The 16 members of a bed. -/
def members (b : Nat) : List Nat := (List.range 16).map (17 * b + ·)

/-! ### Banks and rows (R70 to R74, R85) -/

/-- Bank arrangement Single-bank. -/
def ImageCfg.single (c : ImageCfg) : Bool := c.arr == 1

/-- H. -/
def ImageCfg.h (c : ImageCfg) : Nat := 128 * c.hchunks

/-- Row bytes b. -/
def ImageCfg.b (c : ImageCfg) : Nat := rowBytes c.wfmt c.h

/-- Bytes of a bank. -/
def ImageCfg.bankBytes (c : ImageCfg) : Nat := if c.single then 0x200000 else 0x100000

/-- Resident capacity C (R72). -/
def ImageCfg.cap (c : ImageCfg) : Nat := min 4096 (c.bankBytes / c.b)

/-- Rows of a position, token and FROZEN in storage order. -/
def ImageCfg.leafRows (c : ImageCfg) (l : Nat) : List (Nat × Bool) := c.rows.getD l []

/-- Rmax, the row count of the busiest position (R25, R81). -/
def ImageCfg.rmax (c : ImageCfg) : Nat := c.rows.foldl (fun m r => max m r.length) 0

/-- Overflow rows of a position (R74). -/
def ImageCfg.ovfRows (c : ImageCfg) (l : Nat) : Nat := if c.arr = 2 then (c.leafRows l).length - c.cap else 0

/-- O, the largest overflow count of any position. -/
def ImageCfg.ovfMax (c : ImageCfg) : Nat :=
  (List.range c.rows.length).foldl (fun m l => max m (c.ovfRows l)) 0

/-- Leaf position and storage position of a token, by the token placement table. -/
def ImageCfg.place (c : ImageCfg) (t : Nat) : Option (Nat × Nat) :=
  (List.range c.rows.length).findSome? fun l =>
    ((c.leafRows l).findIdx? fun r => r.1 == t).map fun j => (l, j)

/-- Offset of a bank of the region. -/
def bankBase (c : ImageCfg) (bank : Nat) : Nat := if c.single then 0 else bank * 0x100000

/-- Number of the shadow bank; the one bank under Single-bank (R226). -/
def shadowBank (c : ImageCfg) (live : Nat) : Nat := if c.single then 0 else 1 - live

/-- The bytes of the row at (L, j) in a bank. -/
def rowByte (s : State) (c : ImageCfg) (bank l j i : Nat) : Byte :=
  brineByte s (panOf s l) (bankBase c bank + j * c.b + i)

/-- A version field of a row directory entry (R73): field 0 or 1. -/
def dirVersion (w : Weights) (field l j : Nat) : Word := spGet 0 (if field = 0 then w.ver0 else w.ver1) (l * 4096 + j)

/-- Write a version field of the directory of position `l` alone. -/
def dirPut (field l j : Nat) (v : Word) (w : Weights) : Weights :=
  if field = 0 then { w with ver0 := spSet 0 w.ver0 (l * 4096 + j) v } else { w with ver1 := spSet 0 w.ver1 (l * 4096 + j) v }

/-- A version field in the spare's tile: the XOR over the bed's members (R73). -/
def spareVersion (w : Weights) (field b j : Nat) : Word := spGet 0 (if field = 0 then w.spareVer0 else w.spareVer1) (b * 4096 + j)

/-- The spare's XOR takes the change `d` of a member's field (R73). -/
def sparePut (field b j : Nat) (d : Word) (w : Weights) : Weights :=
  if field = 0 then { w with spareVer0 := spSet 0 w.spareVer0 (b * 4096 + j) (spareVersion w 0 b j ^^^ d) }
  else { w with spareVer1 := spSet 0 w.spareVer1 (b * 4096 + j) (spareVersion w 1 b j ^^^ d) }

/-- Write a version field; the spare's XOR is kept current with it (R73). -/
def setVersion (field l j : Nat) (v : Word) (s : State) : State :=
  s.updWeights fun w => sparePut field (l / 16) j (dirVersion w field l j ^^^ v) (dirPut field l j v w)

/-- A version field of member `m` as the spare's XOR and the 15 other members give it (R73). -/
def spareRestores (w : Weights) (b m field j : Nat) : Word :=
  ((List.range 16).filter (· != m)).foldl (fun x i => x ^^^ dirVersion w field (16 * b + i) j) (spareVersion w field b j)

/-- A rebuild restores the failed position's versions from the spare's XOR (R73). TOKEN and FROZEN are the settings of the image, which no
fault changes (DEDUCED, log entry 143). -/
def restoreDirectory (c : ImageCfg) (b m : Nat) (s : State) : State :=
  s.updWeights fun w =>
    (List.range c.rmax).foldl (fun w j =>
      dirPut 1 (16 * b + m) j (spareRestores w b m 1 j) (dirPut 0 (16 * b + m) j (spareRestores w b m 0 j) w)) w

/-- Word 0 of a row directory entry (Table 4.2). -/
def dirToken (r : Nat × Bool) : Nat := r.1 + 2 ^ 31 * bit01 r.2

/-- The XOR of word 0 over a bed's members at storage position `j`. -/
def spareToken (c : ImageCfg) (b j : Nat) : Nat :=
  (List.range 16).foldl (fun x i => Nat.xor x (match (c.leafRows (16 * b + i))[j]? with | some r => dirToken r | none => 0)) 0

/-- Word 0 of every spare's directory once an image is applied (R73) (DEDUCED, log entry 143). -/
def spareTokens (c : ImageCfg) (beds : Nat) : List (Nat × Word) :=
  (List.range beds).flatMap fun b => (List.range c.rmax).filterMap fun j =>
    let x : Word := BitVec.ofNat 32 (spareToken c b j)
    if x = 0 then none else some (b * 4096 + j, x)

/-- The shadow version of a row (R212). -/
def shadowVersion (s : State) (c : ImageCfg) (l j : Nat) : Word := dirVersion s.weights (shadowBank c s.brine.live) l j

/-- The live version of a row. -/
def liveVersion (s : State) (c : ImageCfg) (l j : Nat) : Word := dirVersion s.weights (if c.single then 0 else s.brine.live) l j

/-! ### Overflow windows (R86, R88) -/

/-- Bytes G of a chunk group. -/
def groupBytes (c : ImageCfg) : Nat := pad64 (c.ovfMax * chunkBytes c.wfmt + 4)

/-- Base address of a window, 0 for A and 1 for B (DESIGN CHOICE, log entry 132). -/
def windowBase (s : State) (w : Nat) : Nat :=
  if w = 0 then s.soft.ovfBaseLoA.toNat + s.soft.ovfBaseHiA.toNat * 2 ^ 32
  else s.soft.ovfBaseLoB.toNat + s.soft.ovfBaseHiB.toNat * 2 ^ 32

/-- Address of group (L, c) in a window at `base`. -/
def groupAddr (cfg : ImageCfg) (base l ch : Nat) : Nat := base + (l * cfg.hchunks + ch) * groupBytes cfg

/-- Whether a group's CRC-32C holds (R86). -/
def groupOk (cfg : ImageCfg) (bs : List Byte) : Bool :=
  let n := cfg.ovfMax * chunkBytes cfg.wfmt
  crc32c (sliceBytes bs 0 n) == BitVec.ofNat 32 (leAt bs n 4)

/-- A group with slot `k` replaced, its CRC recomputed and its padding zero (R88). -/
def groupPut (cfg : ImageCfg) (bs : List Byte) (k : Nat) (chunk : List Byte) : List Byte :=
  let cb := chunkBytes cfg.wfmt
  let n := cfg.ovfMax * cb
  let body := sliceBytes bs 0 (k * cb) ++ chunk ++ sliceBytes bs ((k + 1) * cb) (n - (k + 1) * cb)
  padTo (groupBytes cfg) (body ++ leBytes 4 (crc32c body).toNat)

/-- The chunk of overflow slot `k` in a group. -/
def groupSlot (cfg : ImageCfg) (bs : List Byte) (k : Nat) : List Byte := sliceBytes bs (k * chunkBytes cfg.wfmt) (chunkBytes cfg.wfmt)

end Sys2Proof.Machine
end

