-- ==== Sys2Proof/Machine/LineCode.lean ====
section
/-!
DEFINITION. The line coding of reach lanes (13_reach_fabric.md R251, R254): the bytes of a flit with its CRC-32C, lane words, the scrambler,
the RS(544,514) code over GF(2^10), and the groups of codewords that carry a link's flit stream.
-/

namespace Sys2Proof.Machine

/-! ### Flits (Table 13.2) -/

/-- Bytes 0 to 7 of a flit. -/
def flitHead (ty vc seq ack : Nat) (nak ackValid : Bool) (credit cvc : Nat) : List Byte :=
  leBytes 1 ty ++ leBytes 1 (vc % 4) ++ leBytes 2 (seq % 4096) ++
  leBytes 2 (ack % 4096 + 2 ^ 14 * bit01 nak + 2 ^ 15 * bit01 ackValid) ++ leBytes 2 (credit % 1024 + 2 ^ 10 * (cvc % 4))

/-- The 256 bytes of a flit: header, 244 bytes of payload, CRC-32C of bytes 0 to 251 (R254). -/
def flitBytes (head payload : List Byte) : List Byte :=
  let b := head ++ padTo 244 payload
  b ++ leBytes 4 (crc32c b).toNat

/-! ### GF(2^10) and RS(544,514) (R251) -/

/-- A field element times x, modulo x^10 + x^3 + 1 (PRESUMED, log entry 145). -/
def gfDouble (a : Nat) : Nat := if a < 512 then 2 * a else Nat.xor (2 * a - 1024) 9

/-- The product by the lowest `n` bits of `b`. -/
def gfMulBits : Nat → Nat → Nat → Nat
  | 0, _, _ => 0
  | n + 1, a, b => Nat.xor (gfDouble (gfMulBits n a (b / 2))) (if b % 2 = 1 then a else 0)

/-- The product of two field elements. -/
def gfMul (a b : Nat) : Nat := gfMulBits 10 a b

/-- The `n`-th power of the primitive element 2. -/
def gfPow : Nat → Nat
  | 0 => 1
  | n + 1 => gfDouble (gfPow n)

/-- A polynomial, highest coefficient first, times (x + r). -/
def polyByRoot (p : List Nat) (r : Nat) : List Nat := List.zipWith Nat.xor (p ++ [0]) (0 :: p.map (gfMul r))

/-- The generator polynomial: the product of (x + α^j) for j from 0 to 29 (PRESUMED, log entry 145). -/
def rsGenerator : List Nat := (List.range 30).foldl (fun p j => polyByRoot p (gfPow j)) [1]

/-- The 30 parity symbols of 514 message symbols, the first of which is the highest coefficient. -/
def rsParity (msg : List Nat) : List Nat :=
  let g := rsGenerator.drop 1
  msg.foldl (fun reg m =>
    let fb := Nat.xor m (reg.headD 0)
    List.zipWith Nat.xor (reg.drop 1 ++ [0]) (g.map (gfMul fb))) (List.replicate 30 0)

/-! ### Lane words and the scrambler (R251) -/

/-- The lowest `n` bits of a number, bit 0 first. -/
def bitsFrom (n v : Nat) : List Bool := (List.range n).map (bitOf v)

/-- The 5,140 payload bits of a codeword: the lane word (LANE in [3:0], GSEQ in [19:4]), then 640 bytes of flit stream, each bit 0 first
(DEDUCED, log entry 155). -/
def lanePayload (lane gseq : Nat) (bs : List Byte) : List Bool :=
  bitsFrom 20 (lane % 16 + 16 * (gseq % 65536)) ++ bs.flatMap fun b => bitsFrom 8 b.toNat

/-- The self-synchronous scrambler x^58 + x^39 + 1: bit i of its state is the bit it sent i + 1 bits ago. -/
def scramble : Nat → List Bool → List Bool × Nat
  | st, [] => ([], st)
  | st, b :: r =>
    let o := xor b (xor (bitOf st 38) (bitOf st 57))
    let q := scramble ((2 * st + bit01 o) % 2 ^ 58) r
    (o :: q.1, q.2)

/-- Ten bits as a symbol, the first bit lowest. -/
def symbolAt (bs : List Bool) : Nat := bs.foldr (fun b n => bit01 b + 2 * n) 0

/-- `n` symbols of a bit string. -/
def symbolsOf : Nat → List Bool → List Nat
  | 0, _ => []
  | n + 1, bs => symbolAt (bs.take 10) :: symbolsOf n (bs.drop 10)

/-- The 544 symbols of a lane's codeword, and the scrambler's state after it. -/
def codeword (st lane gseq : Nat) (bs : List Byte) : List Nat × Nat :=
  let q := scramble st (lanePayload lane gseq bs)
  let msg := symbolsOf 514 q.1
  (msg ++ rsParity msg, q.2)

/-- The codewords of one group on the `w` lanes of a link, lane 0 first, with the scramblers' states after them: 640 bytes of the flit
stream to each lane in turn. -/
def codeGroup (gseq : Nat) (w : Nat) (scr : List Nat) (bs : List Byte) : List (List Nat × Nat) :=
  (List.range w).map fun i => codeword (scr.getD i 0) i gseq ((bs.drop (640 * i)).take 640)

/-! ### Lock and deskew of received lanes (R252) -/

/-- A codeword with more than 15 symbol errors is uncorrectable. -/
def correctable (errors : Nat) : Bool := decide (errors ≤ 15)

/-- Three codewords, as (symbol errors, LANE, GSEQ), lock lane `i`: none is uncorrectable, LANE is the lane's own, and GSEQ is
consecutive (DEDUCED, log entry 146). -/
def threeLock (i : Nat) : List (Nat × Nat × Nat) → Bool
  | [a, b, c] =>
    correctable a.1 && correctable b.1 && correctable c.1 && a.2.1 == i && b.2.1 == i && c.2.1 == i &&
    b.2.2 == (a.2.2 + 1) % 65536 && c.2.2 == (b.2.2 + 1) % 65536
  | _ => false

/-- A lane is locked on the last three codewords that it received. -/
def laneLock (i : Nat) (ws : List (Nat × Nat × Nat)) : Bool := threeLock i (ws.drop (ws.length - 3))

end Sys2Proof.Machine
end

