-- ==== Sys2Proof/Machine/WireForm.lean ====
section
/-!
DEFINITION. What reach messages look like on the wire (13_reach_fabric.md R257, Tables 13.3, 13.6 and 13.7; 05_grading.md R107): the type and
channel of a flit, the kind, header and content of a record, and the payload of a flit that is no part of a record stream.
-/

namespace Sys2Proof.Machine

/-- The virtual channel of an outbound message (Table 13.3). -/
def OutFlit.vc : OutFlit → Nat
  | .sheetOpen .. | .rowCtl .. | .brine .. | .grader .. | .mask .. | .watch .. | .pass .. | .abort .. | .adapter .. | .adapterFree .. => 1
  | .windrow .. | .stats .. | .vector .. | .reject .. | .progress .. | .placement .. | .adapterDone .. => 2
  | .mcast .. => 3
  | _ => 0

/-- The flit type of a message (Table 13.3). -/
def OutFlit.type : OutFlit → Nat
  | .idle .. => 0x00
  | .hail _ => 0x01
  | .goodbye _ => 0x02
  | .route _ => 0x03
  | .tideReq _ => 0x04
  | .tideRsp .. => 0x05
  | .mcast .. => 0x20
  | .mcastReport .. => 0x21
  | f => if f.vc = 1 then 0x10 else if f.vc = 2 then 0x11 else 0x06

/-- `n` bytes of a message whose layout no rule states, by its content (DESIGN CHOICE, log entry 144). -/
def freeBytes (n : Nat) (content : List Nat) : List Byte := (List.range n).map (Config.wireByte content)

/-- The bytes of a binary32. -/
def f32Bytes (x : F32) : List Byte := leBytes 4 x.toNat

/-- The content of a control word, as numbers. -/
def ctlContent (c : CtlWord) : List Nat :=
  [c.tag, c.row, c.mode, c.pass, c.kw, bit01 c.useR, c.theta.toNat, bit01 c.resume.isSome, (c.resume.map Prod.fst).getD 0] ++
  [((c.resume.map Prod.snd).getD 0).toNat, c.level, bit01 c.ref.isSome, (c.ref.getD 0).toNat, bit01 c.hist, bit01 c.strict] ++
  [bit01 c.backward, bit01 c.fromBuffer, c.invT.toNat, c.rho.toNat, c.invRho.toNat, c.phi.toNat, c.pi.toNat, bit01 c.noised] ++
  [c.gradM.toNat, c.gradS.toNat, c.kappa.toNat, c.cv.toNat, c.target, c.seed.toNat, c.rngStep.toNat, bit01 c.bufRow.isSome] ++
  [c.bufRow.getD 0, c.adapter]

/-- The 64 bytes of a control word: Table 13.6 lists its content and not its bits (DESIGN CHOICE, log entry 144). -/
def ctlBytes (c : CtlWord) : List Byte := freeBytes 64 (1 :: ctlContent c)

/-- A statistics block as the 160 bytes of Table 5.4 (R107). -/
def statsBytes (x : Stats) : List Byte :=
  f32Bytes x.m ++ f32Bytes x.s ++ f32Bytes x.w ++ leBytes 4 x.valid ++ leBytes 4 x.masked ++ leBytes 4 x.nonfinite ++
  leBytes 4 (x.level % 4 + 4 * bit01 x.ref + 8 * bit01 x.hist) ++ leBytes 4 0 ++
  (List.range 16).flatMap (fun i => leBytes 4 (x.hcount.getD i 0)) ++ (List.range 16).flatMap fun i => f32Bytes (x.hmass.getD i 0)

/-- A windrow's entries after their count: token ID and sort key (R29). -/
def windrowBytes (es : List (Nat × F32)) : List Byte := leBytes 4 es.length ++ es.flatMap fun e => leBytes 4 e.1 ++ f32Bytes e.2

/-- Content bytes of a VECTOR record: a binary32, reports of 8 bytes, or the 3 handshakes of a gradient packet (DEDUCED, log entry 105). -/
def vectorLen : VectorRec → Nat
  | .value _ => 4
  | .gradient _ _ => 768
  | .reports rs => 8 * rs.length

/-- The bytes of a VECTOR record that a rule states: the value's binary32, the token ID and score of each report (R147), the two element
handshakes of a gradient packet (R163). -/
def vectorTail : VectorRec → List Byte
  | .value x => f32Bytes x
  | .gradient _ xs => xs.flatMap f32Bytes
  | .reports rs => rs.flatMap fun r => leBytes 4 r.1 ++ f32Bytes r.2

/-- The content of a VECTOR record. A gradient packet begins with its tag handshake, of whose bytes R163 states only that they carry the row
slot, the chunk and a residue of the elements (DESIGN CHOICE, log entry 144). -/
def vectorBytes (slot : Nat) : VectorRec → List Byte
  | .gradient ch xs => freeBytes 256 (3 :: slot :: ch :: xs.map (·.toNat)) ++ vectorTail (.gradient ch xs)
  | v => vectorTail v

/-- A ROUTE payload: 4 bytes an entry (Table 13.3). -/
def routeBytes (es : List (Nat × Nat)) : List Byte := es.flatMap fun e => leBytes 2 e.1 ++ leBytes 1 e.2 ++ leBytes 1 0

/-- SHEET_OPEN's 24 bytes (Table 13.6). -/
def sheetOpenBytes (seq : Nat) (live genId : Word) (slots order : Nat) : List Byte :=
  leBytes 8 seq ++ leBytes 4 live.toNat ++ leBytes 4 genId.toNat ++ leBytes 2 slots ++ leBytes 1 order ++ leBytes 5 0

/-- ADAPTER's content (Table 13.6). -/
def adapterRecBytes (v handle rank : Nat) (bytes : List Byte) : List Byte :=
  leBytes 2 v ++ leBytes 2 handle ++ leBytes 1 rank ++ leBytes 3 0 ++ bytes

/-- KIND of a record (Table 13.6), 0 for a message that is no record. -/
def OutFlit.kind : OutFlit → Nat
  | .sheetOpen .. => 0x01
  | .rowCtl .. => 0x02
  | .brine .. => 0x03
  | .grader .. => 0x04
  | .mask .. => 0x05
  | .watch .. => 0x06
  | .pass .. => 0x07
  | .abort _ => 0x08
  | .adapter .. => 0x09
  | .adapterFree _ => 0x0A
  | .windrow .. => 0x81
  | .stats .. => 0x82
  | .vector .. => 0x83
  | .reject .. => 0x84
  | .progress _ => 0x85
  | .placement _ => 0x86
  | .adapterDone .. => 0x87
  | _ => 0

/-- PASS and SLOT of a record's header; a sheet-level record has slot 0xFFFF (R257). -/
def OutFlit.place : OutFlit → Nat × Nat
  | .rowCtl slot c => (c.pass, slot)
  | .brine slot _ => (0, slot)
  | .grader slot _ => (0, slot)
  | .mask slot _ => (0, slot)
  | .watch slot _ => (0, slot)
  | .pass slot c => (c.pass, slot)
  | .windrow slot p _ => (p, slot)
  | .stats slot p _ => (p, slot)
  | .vector slot p _ => (p, slot)
  | .reject slot _ => (0, slot)
  | _ => (0, 0xFFFF)

/-- The content bytes of a message (Tables 13.3, 13.5 and 13.6); those of a domain message, a control word and a gradient packet's
tag are listed and not laid out (DESIGN CHOICE, log entry 144). -/
def OutFlit.content : OutFlit → List Byte
  | .hail frame => frame
  | .goodbye a => leBytes 2 a
  | .route es => routeBytes es
  | .tideReq t1 => leBytes 8 t1
  | .tideRsp t1 t2 t3 => leBytes 8 t1 ++ leBytes 8 t2 ++ leBytes 8 t3
  | .join a sig live low => freeBytes 244 (10 :: a :: live.toNat :: low.toNat :: sig.map (·.toNat))
  | .admission => freeBytes 244 [11]
  | .refuse reason => freeBytes 244 [12, reason]
  | .sealed stp => freeBytes 244 [13, stp.toNat]
  | .arm stp t => freeBytes 244 [14, stp.toNat, t.toNat]
  | .disarm stp t => freeBytes 244 [15, stp.toNat, t.toNat]
  | .fire stp => freeBytes 244 [16, stp.toNat]
  | .lost a => freeBytes 244 [17, a]
  | .depart => freeBytes 244 [18]
  | .mcast g seg => leBytes 2 g ++ seg
  | .mcastReport g stp => leBytes 2 g ++ leBytes 4 stp.toNat
  | .sheetOpen seq live genId slots order => sheetOpenBytes seq live genId slots order
  | .rowCtl _ c => ctlBytes c
  | .brine _ bytes => bytes
  | .grader _ bytes => bytes
  | .mask _ ref => leBytes 2 ref
  | .watch _ toks => toks.flatMap (leBytes 4)
  | .pass _ c => ctlBytes c
  | .abort seq => leBytes 8 seq
  | .adapter v handle rank bytes => adapterRecBytes v handle rank bytes
  | .adapterFree v => leBytes 2 v
  | .windrow _ _ es => windrowBytes (es.map fun e => (e.tok, e.key))
  | .stats _ _ x => statsBytes x
  | .vector slot _ v => vectorBytes slot v
  | .reject slot reason => leBytes 2 slot ++ leBytes 1 reason
  | .progress seq => leBytes 8 seq
  | .placement bytes => bytes
  | .adapterDone v result => leBytes 2 v ++ leBytes 1 result
  | .idle .. => []

/-- The 8 bytes of a record header (R257). -/
def recHead (kind pass slot len : Nat) : List Byte := leBytes 1 kind ++ leBytes 1 pass ++ leBytes 2 slot ++ leBytes 4 len

/-- A record as it stands in its channel's byte stream. -/
def OutFlit.record (f : OutFlit) : List Byte := recHead f.kind f.place.1 f.place.2 f.content.length ++ f.content

/-- Flits that a message takes when it starts a flit. -/
def OutFlit.flits (f : OutFlit) : Nat := if f.vc = 1 ∨ f.vc = 2 then ceilDiv f.record.length 244 else 1

end Sys2Proof.Machine
end

