-- ==== Sys2Proof/Machine/LinkOps.lean ====
section
/-!
DEFINITION. Sending on reach links: flits and codewords, virtual channels, credits, the replay buffer and the order of ready flits
(13_reach_fabric.md R251, R254 to R257), and the links toward parent and children.
-/

namespace Sys2Proof.Machine

/-- A link. -/
def linkAt (s : State) (l : Nat) : LinkSt := s.reach.links.getD l (linkReset 0)

/-- Change a link. -/
def updLink (l : Nat) (f : LinkSt → LinkSt) (s : State) : State :=
  s.updReach fun r => { r with links := r.links.modify l f }

/-- The link is UP. -/
def linkUp (s : State) (l : Nat) : Bool := (linkAt s l).phase == .up

/-- A link carries messages: it is UP, or drains what is in flight (Table 13.4). -/
def LinkSt.isOpen (k : LinkSt) : Bool := k.phase == .up || k.phase == .drain

/-- The link of this number carries messages. -/
def linkOpen (s : State) (l : Nat) : Bool := (linkAt s l).isOpen

/-! ### Codewords and flits (R251, R254) -/

/-- The lanes' scramblers, at their seeds before the first group (DESIGN CHOICE, log entry 156). -/
def scramblersOf (k : LinkSt) : List Nat :=
  k.scramblers.getD ((List.range k.width).map fun i => Config.scramblerSeed i % 2 ^ 58)

/-- A flit joins the flit stream of a link; a full group of 640 bytes a lane leaves as one codeword on each lane (R251) (DEDUCED, log
entry 155). -/
def emit (l : Nat) (bs : List Byte) (s : State) : State :=
  let k := linkAt s l
  let g := k.group ++ bs
  let t := s.updReach fun r => { r with flits := r.flits ++ [(l, bs)] }
  if 0 < k.width ∧ 640 * k.width ≤ g.length then
    let ws := codeGroup k.gseq k.width (scramblersOf k) g
    updLink l (fun k =>
        { k with group := g.drop (640 * k.width), gseq := (k.gseq + 1) % 65536, scramblers := some (ws.map Prod.snd) })
      (t.updReach fun r => { r with codewords := r.codewords ++ ws.zipIdx.map fun w => (l, w.2, w.1.1) })
  else updLink l (fun k => { k with group := g }) t

/-- The last SEQ received in order. -/
def LinkSt.ack (k : LinkSt) : Nat := (k.rxSeq + 4095) % 4096

/-- The virtual channel whose credits the next flit returns, with how many: the first that owes any, at most 1,023 (Table 13.2) (DEDUCED,
log entry 93). -/
def LinkSt.credit (k : LinkSt) : Nat × Nat :=
  match (List.range 4).find? fun v => decide (0 < k.owed.getD v 0) with
  | some v => (min 1023 (k.owed.getD v 0), v)
  | none => (0, 0)

/-- The credits that a flit has returned. -/
def repaid (k : LinkSt) : LinkSt := { k with owed := k.owed.modify k.credit.2 (· - k.credit.1) }

/-- Send a sequenced flit: its header carries the acknowledgement and the credits of this moment. -/
def emitFlit (l : Nat) (f : Flit) (s : State) : State :=
  let k := linkAt s l
  emit l (flitBytes (flitHead f.type f.vc f.seq k.ack false true k.credit.1 k.credit.2) f.payload) (updLink l repaid s)

/-- Send an IDLE: a slot with nothing ready returns the last SEQ received in order, a NAK where asked, and credits (R255, R256) (DEDUCED,
log entry 93). -/
def sendIdle (l : Nat) (nak : Bool) (s : State) : State :=
  let k := linkAt s l
  let t := s.updReach fun r => { r with sent := r.sent ++ [(l, .idle k.ack nak k.credit.1 k.credit.2)] }
  emit l (flitBytes (flitHead 0 0 0 k.ack nak true k.credit.1 k.credit.2) []) (updLink l repaid t)

/-! ### Sending (R255 to R257) -/

/-- The order in which ready flits of the channels leave (R256). -/
def vcOrder : List Nat := [0, 2, 1, 3]

/-- The channel that sends next: the first with a message waiting and a credit (R256). A link that carries no messages yet sends the hail
frames of VC0 alone. -/
def nextVc (k : LinkSt) : Option Nat :=
  vcOrder.find? fun v => (v == 0 || k.isOpen) && decide (0 < k.credits.getD v 0) && k.queue.any fun f => f.vc == v

/-- The records that end within the next `n` bytes of a stream, and what of the following record has left by then. -/
def recordsWithin : Nat → List OutFlit → List OutFlit × Nat
  | _, [] => ([], 0)
  | n, f :: r =>
    if f.record.length ≤ n then
      let q := recordsWithin (n - f.record.length) r
      (f :: q.1, q.2)
    else ([], n)

/-- The next flit of a channel: its payload, the messages that end with it, and what has left of the record after them. Records form a
byte stream cut into payloads of 244 bytes; a payload that the stream does not fill ends in zeros (R257) (DESIGN CHOICE, log entry 92). -/
def nextPayload (k : LinkSt) (v : Nat) : List Byte × List OutFlit × Nat :=
  let ms := k.queue.filter fun f => f.vc == v
  if v = 1 ∨ v = 2 then
    let off := k.begun.getD (v - 1) 0
    (((ms.flatMap OutFlit.record).drop off).take 244, recordsWithin (off + 244) ms)
  else ((ms.headD .depart).content, ms.take 1, 0)

/-- Flit type of a channel's messages; those of VC0 have types of their own. -/
def vcType (v : Nat) (ms : List OutFlit) : Nat := if v = 1 then 0x10 else if v = 2 then 0x11 else (ms.headD .depart).type

/-- One flit of a channel leaves: it takes a credit, a SEQ and a place in the replay buffer (R255, R256). -/
def sendOne (l v : Nat) (s : State) : State :=
  let k := linkAt s l
  let q := nextPayload k v
  let f : Flit := ⟨vcType v q.2.1, v, k.txSeq, q.1⟩
  emitFlit l f (updLink l (fun k =>
    { k with
      queue := q.2.1.foldl List.erase k.queue, begun := if v = 1 ∨ v = 2 then k.begun.set (v - 1) q.2.2 else k.begun
      txSeq := (k.txSeq + 1) % 4096, credits := k.credits.modify v (· - 1), replay := k.replay ++ [(f, 0)] })
    (s.updReach fun r => { r with sent := r.sent ++ q.2.1.map fun m => (l, m) }))

/-- Send ready flits while credits and replay space last; `n` bounds their number (R255, R256). -/
def pumpLink (l : Nat) : Nat → State → State
  | 0, s => s
  | n + 1, s =>
    match nextVc (linkAt s l) with
    | none => s
    | some v => if (linkAt s l).replay.length < 1024 then pumpLink l n (sendOne l v s) else s

/-- Send what can be sent on a link. -/
def pump (l : Nat) (s : State) : State := pumpLink l ((linkAt s l).queue.map OutFlit.flits).sum s

/-- Hand a message to a link. -/
def sendFlit (l : Nat) (f : OutFlit) (s : State) : State := pump l (updLink l (fun k => { k with queue := k.queue ++ [f] }) s)

/-- Hand a message to a link that is open; any other takes none. -/
def sendUp (l : Nat) (f : OutFlit) (s : State) : State := if linkOpen s l then sendFlit l f s else s

/-- Hand a multicast copy to a link of a DOWN set: one that is not open keeps it until it is. An absent link takes none (R276, R277)
(DESIGN CHOICE, log entry 160). -/
def sendCopy (l : Nat) (f : OutFlit) (s : State) : State := if (linkAt s l).width = 0 then s else sendFlit l f s

/-- Send a flit on each of several links. -/
def sendAll (ls : List Nat) (f : OutFlit) (s : State) : State := ls.foldl (fun t l => sendUp l f t) s

/-- Links that are UP. -/
def upLinks (s : State) : List Nat := (List.range 8).filter (linkUp s)

/-! ### Domain neighbours (R264, R265) -/

/-- ROLE of the image: 0 none, 1 root, 2 member. -/
def role (s : State) : Nat := match s.image.cfg with | some c => c.role | none => 0

/-- A remote child slot. -/
def childSt (s : State) (c : Nat) : ChildSt := s.reach.dom.children.getD c childReset

/-- Change a remote child slot. -/
def updChild (c : Nat) (f : ChildSt → ChildSt) (s : State) : State :=
  s.updReach fun r => { r with dom := { r.dom with children := r.dom.children.modify c f } }

/-- Remote child indices. -/
def childIdx (s : State) : List Nat := List.range s.reach.dom.children.length

/-- A child takes part in domain work. -/
def childIn (s : State) (c : Nat) : Bool := (childSt s c).phase == .admitted

/-- Links of the admitted children. -/
def childLinks (s : State) : List Nat := ((childIdx s).filter (childIn s)).map fun c => (childSt s c).link

/-- Send a flit to every admitted child. -/
def toChildren (f : OutFlit) (s : State) : State := sendAll (childLinks s) f s

/-- The link to a member's parent: the open link whose peer has the parent's address. -/
def parentLink (s : State) : Option Nat :=
  match s.image.cfg with
  | some c => if c.role = 2 then ((List.range 8).filter (linkOpen s)).find? fun l => (linkAt s l).peer == c.parent else none
  | none => none

/-- Send a flit to a member's parent. -/
def toParent (f : OutFlit) (s : State) : State := match parentLink s with | some l => sendUp l f s | none => s

/-- The engine is part of a merge domain that has another root; a standalone member is its own (R218, R274). -/
def domainMember (s : State) : Bool := role s == 2 && s.reach.dom.phase != .standalone

/-- The engine is a member that its domain has admitted and that is not cut off: ARM, DISARM and adapter operations belong to the
root (R218, R270). -/
def admittedMember (s : State) : Bool := role s == 2 && s.reach.dom.admitted && s.reach.dom.phase != .standalone

end Sys2Proof.Machine
end

