-- ==== Sys2Proof/Machine/Operands.lean ====
section
/-!
DEFINITION. The fields of packets: the header (Table 10.2), the context block (Table 10.6), the patch block (Table 11.1) and the row
record (Table 10.3), with the checks that need no state (R188 to R190, R195, R211, R213).
-/

namespace Sys2Proof.Machine

/-! ### Header (R187, R188) -/

/-- TYPE. -/
def pktType (bs : List Byte) : Nat := leAt bs 0 1
/-- COUNT. -/
def pktCount (bs : List Byte) : Nat := leAt bs 2 2
/-- TAG; the bytes that a packet of less than 16 bytes does not have read 0 (R187) (DESIGN CHOICE, log entry 172). -/
def pktTag (bs : List Byte) : Dword := BitVec.ofNat 64 (leAt bs 8 8)
/-- Size of a packet in credits of 128 B, one beat of a port (R208). -/
def units (n : Nat) : Nat := ceilDiv n 128

/-- Largest LENGTH of a STEP or PATCH packet (R188, R210). -/
def maxPacket : Nat := 8405056

/-- Whether all bytes of a range are zero. -/
def allZero (bs : List Byte) (off n : Nat) : Bool := (sliceBytes bs off n).all (· == 0)

/-- The header checks of R188 that apply to every TYPE. -/
def headerOk (bs : List Byte) : Bool :=
  leAt bs 4 4 == bs.length && bs.length % 64 == 0 && decide (64 ≤ bs.length) && leAt bs 1 1 == 1 && allZero bs 16 48 &&
  (pktType bs == 1 || pktCount bs == 0)

/-- The row records of a STEP packet from byte `off`, none where the walk of R188 fails. -/
def walkRows (bs : List Byte) : Nat → Nat → Option (List (List Byte))
  | 0, off => if off = bs.length then some [] else none
  | n + 1, off =>
    let len := 64 * leAt bs (off + 4) 2
    if len = 0 ∨ bs.length < off + len then none
    else (walkRows bs n (off + len)).map fun r => (bs.drop off).take len :: r

/-- The row records of a STEP packet (R188). -/
def stepRows (bs : List Byte) : Option (List (List Byte)) := walkRows bs (pktCount bs) 64

/-- What R186 to R188 make of a packet. -/
inductive PktClass where
  | stepPkt (rows : List (List Byte))
  | ctxPkt
  | patchPkt
  | malformedStep
  | malformed
  | unknown
deriving DecidableEq, Repr

/-- The class of a packet (R186, R188). -/
def classifyPkt (bs : List Byte) : PktClass :=
  if pktType bs = 1 then
    if headerOk bs && decide (1 ≤ pktCount bs) && decide (pktCount bs ≤ 256) && decide (bs.length ≤ maxPacket) then
      match stepRows bs with
      | some rs => .stepPkt rs
      | none => .malformedStep
    else .malformedStep
  else if !headerOk bs then .malformed
  else if pktType bs = 2 then (if 128 ≤ bs.length then .ctxPkt else .malformed)
  else if pktType bs = 6 then (if 128 ≤ bs.length then .patchPkt else .malformed)
  else .unknown

/-! ### Context block (R193, R195) -/

/-- CTX of a CTX packet. -/
def ctxNum (bs : List Byte) : Nat := leAt bs 64 2
/-- OP. -/
def ctxOp (bs : List Byte) : Nat := leAt bs 66 1
/-- FIELD_MASK. -/
def ctxMask (bs : List Byte) : Nat := leAt bs 68 4
/-- N_BIAS. -/
def ctxNBias (bs : List Byte) : Nat := leAt bs 72 2
/-- N_COUNT. -/
def ctxNCount (bs : List Byte) : Nat := leAt bs 74 2
/-- N_HIST. -/
def ctxNHist (bs : List Byte) : Nat := leAt bs 76 2
/-- The body after the context block. -/
def ctxBody (bs : List Byte) : List Byte := bs.drop 128

/-- Body length that OP, N_BIAS, N_COUNT and N_HIST give (R193). -/
def ctxBodyLen (bs : List Byte) : Nat :=
  if ctxOp bs = 1 ∨ ctxOp bs = 2 then 256 + pad64 (8 * ctxNBias bs) + pad64 (8 * ctxNCount bs) + pad64 (4 * ctxNHist bs)
  else if ctxOp bs = 4 then 98304
  else 0

/-- BAD_COUNTS (R195, item 2). -/
def ctxCountsBad (bs : List Byte) : Bool :=
  !(decide (1 ≤ ctxOp bs) && decide (ctxOp bs ≤ 5)) || bs.length != 128 + ctxBodyLen bs

/-- The checks of R195 on the context block. -/
def ctxBlockOk (bs : List Byte) : Bool :=
  decide (ctxNum bs ≤ 511) &&
  (if ctxOp bs = 2 then decide (ctxMask bs < 2 ^ 10) else ctxMask bs == 0) &&
  (ctxOp bs == 1 || ctxOp bs == 2 || (ctxNBias bs == 0 && ctxNCount bs == 0 && ctxNHist bs == 0)) &&
  allZero bs 67 1 && allZero bs 78 50

/-! ### Patch block (R210, R213) -/

/-- The patch block of a PATCH packet, its outbound fields zero. -/
def patchBlock (bs : List Byte) : PatchBlock :=
  { op := leAt bs 64 1, ack := 0, n := leAt bs 66 2, stp := BitVec.ofNat 32 (leAt bs 68 4), tide := BitVec.ofNat 64 (leAt bs 72 8)
    handle := leAt bs 80 2, rank := leAt bs 82 1, aflags := leAt bs 83 1, version := 0, outcome := 0
    applied := 0, skipped := 0, stale := 0, frozen := 0, notPlaced := 0, badData := 0, source := BitVec.ofNat 64 (leAt bs 112 8) }

/-- Bytes of one entry of a ROWS body, row bytes `b` (R211). -/
def entryBytes (b : Nat) : Nat := pad64 (8 + b)

/-- The entry `i` of a ROWS packet. -/
def rowsEntry (b : Nat) (bs : List Byte) (i : Nat) : List Byte := sliceBytes bs (128 + i * entryBytes b) (entryBytes b)

/-- Item 3 of R213: a patch-block field outside its range. -/
def patchFieldsOk (bs : List Byte) (p : PatchBlock) : Bool :=
  allZero bs 65 1 && allZero bs 84 28 && allZero bs 120 8 &&
  (if p.op = 1 then decide (1 ≤ p.n) && decide (p.n ≤ 4096) else p.n == 0) &&
  (decide (p.op ≤ 3) || p.stp == 0) && (p.op == 3 || p.tide == 0) &&
  (if p.op = 5 ∨ p.op = 6 then p.handle != 0xFFFF else p.handle == 0) &&
  (if p.op = 5 then decide (1 ≤ p.rank) && decide (p.rank ≤ 64) && decide (p.aflags ≤ 1) && p.source.toNat % 64 == 0
   else p.rank == 0 && p.aflags == 0 && p.source == 0)

/-- Item 5 of R213: an entry's reserved bits. Its padding after the row bytes (R211) is held to zero with them (DESIGN CHOICE, log entry
180). -/
def entryReservedOk (b : Nat) (e : List Byte) : Bool :=
  decide (leAt e 0 4 < 2 ^ 22) && allZero e 4 4 && allZero e (8 + b) (entryBytes b - (8 + b))

/-- The ack code of items 1 to 5 of R213, 0 where none applies. `noImage` is item 2, `b` the row bytes of the image; a halted engine
answers every packet NO_IMAGE (R287). -/
def patchAckCode (halted noImage : Bool) (b : Nat) (bs : List Byte) : Nat :=
  let p := patchBlock bs
  if halted then 4
  else if p.op = 0 ∨ 6 < p.op ∨ maxPacket < bs.length then 3
  else if noImage then 4
  else if !patchFieldsOk bs p then 2
  else if bs.length != (if p.op = 1 then 128 + p.n * entryBytes b else 128) then 3
  else if p.op = 1 ∧ !((List.range p.n).all fun i => entryReservedOk b (rowsEntry b bs i)) then 2
  else 0

/-! ### Row record (R189, R190) -/

/-- Modes of Table 0.6. -/
inductive Mode where
  | race
  | ledger
  | verify
  | score
deriving DecidableEq, Repr

/-- The mode of a code (Table 0.6). -/
def modeOf : Nat → Option Mode
  | 1 => some .race
  | 2 => some .ledger
  | 3 => some .verify
  | 4 => some .score
  | _ => none

/-- CTX of a row record (DEDUCED, log entry 47). -/
def rowCtx (r : List Byte) : Nat := leAt r 0 2
/-- MODE code of a row record. -/
def rowModeCode (r : List Byte) : Nat := leAt r 2 1
/-- The mode of a row record. -/
def rowMode (r : List Byte) : Option Mode := modeOf (rowModeCode r)
/-- D. -/
def rowD (r : List Byte) : Nat := leAt r 6 1
/-- SFLAGS.HAS_REF. -/
def rowHasRef (r : List Byte) : Bool := bitOf (leAt r 7 1) 0
/-- SFLAGS.GRAD. -/
def rowGrad (r : List Byte) : Bool := bitOf (leAt r 7 1) 1
/-- SFLAGS.APPEND. -/
def rowAppend (r : List Byte) : Bool := bitOf (leAt r 7 1) 2
/-- TARGET. -/
def rowTarget (r : List Byte) : Nat := leAt r 8 4
/-- REF_LP. -/
def rowRefLp (r : List Byte) : F32 := f32At r 12
/-- CL. -/
def rowCl (r : List Byte) : F32 := f32At r 16
/-- CV. -/
def rowCv (r : List Byte) : F32 := f32At r 20
/-- EXPORT_K. -/
def rowExportK (r : List Byte) : Nat := leAt r 24 2

/-- The row is a SCORE row with GRAD = 1. -/
def isGrad (r : List Byte) : Bool := rowModeCode r == 4 && rowGrad r

/-- Draft nodes carried by a record. -/
def rowNodes (r : List Byte) : Nat := if rowModeCode r = 3 then rowD r else 0

/-- Draft node `i`, from 0 (Table 8.1: token in bytes 0 to 3, q in 4 to 7, parent in byte 8). -/
def recNode (r : List Byte) (i : Nat) : DraftNode :=
  ⟨leAt r (64 + 12 * i) 4, f32At r (64 + 12 * i + 4), leAt r (64 + 12 * i + 8) 1⟩

/-- The draft nodes of a record (R148). -/
def recNodes (r : List Byte) : List DraftNode := (List.range (rowNodes r)).map (recNode r)

/-- Bytes of the fixed part and the node array. -/
def recFixed (r : List Byte) : Nat := 64 + pad64 (12 * rowNodes r)

/-- Slots of a record: D + 1 for VERIFY, 1 otherwise (R146). -/
def recSlots (r : List Byte) : Nat := rowNodes r + 1

/-- Bytes of a payload with its padding (R190). -/
def paddedPayload (f : InFmt) (h : Nat) : Nat := pad64 (payloadBytes f h)

/-- The payload of slot `p`. -/
def recPayload (f : InFmt) (h : Nat) (r : List Byte) (p : Nat) : List Byte :=
  sliceBytes r (recFixed r + p * paddedPayload f h) (payloadBytes f h)

/-- Fields a mode does not use are 0, and so are the reserved bytes of the fixed part (R189). -/
def fixedPartOk (r : List Byte) : Bool :=
  allZero r 26 38 &&
  (rowModeCode r == 3 || rowD r == 0) &&
  (if rowModeCode r = 4 then decide (leAt r 7 1 < 8) else leAt r 7 1 == 0 && allZero r 8 18)

/-- Reserved bytes of the nodes, the padding after them and the padding after each payload (R190). -/
def bodyPadOk (f : InFmt) (h : Nat) (r : List Byte) : Bool :=
  ((List.range (rowNodes r)).all fun i => decide (leAt r (64 + 12 * i) 4 < 2 ^ 22) && allZero r (64 + 12 * i + 9) 3) &&
  allZero r (64 + 12 * rowNodes r) (recFixed r - 64 - 12 * rowNodes r) &&
  ((List.range (recSlots r)).all fun p =>
    allZero r (recFixed r + p * paddedPayload f h + payloadBytes f h) (paddedPayload f h - payloadBytes f h))

/-- The record checks of step 1 of R353: mode, format, fixed part, length, body, MODES and D. -/
def recordOk (h modes : Nat) (r : List Byte) : Bool :=
  match rowMode r, inFmtOf (leAt r 3 1) with
  | some _, some f =>
    bitOf modes (rowModeCode r - 1) && fixedPartOk r &&
    (rowModeCode r != 3 || (decide (1 ≤ rowD r) && decide (rowD r ≤ 64))) &&
    r.length == recFixed r + recSlots r * paddedPayload f h && bodyPadOk f h r
  | _, _ => false

end Sys2Proof.Machine
end

