-- ==== Sys2Proof/Machine/PortOps.lean ====
section
/-!
DEFINITION. The switch ports: ingress credits, the egress buffer, outbound packets and their bytes, and the engine's own reads
(10_contexts_and_packets.md R187, R204 to R208; 17_integration.md R332 to R334).
-/

namespace Sys2Proof.Machine

/-! ### Outbound bytes -/

/-- A record whose STATUS is 0x10 or above is a failed row (R8, R205). -/
def ResultRec.failed (r : ResultRec) : Bool := decide (0x10 ≤ r.status)

/-- Bytes of a result record (R205). -/
def ResultRec.len (r : ResultRec) : Nat := if r.failed then 128 else 128 + pad64 (12 * r.listSlots) + 4 * r.gradient.length

/-- NO_TOKEN (Table 0.7). -/
def noToken : Nat := 0xFFFFFFFF

/-- One list entry: token, then two binary32 values (R206). -/
def listEntryBytes (e : Nat × F32 × F32) : List Byte := leBytes 4 e.1 ++ leBytes 4 e.2.1.toNat ++ leBytes 4 e.2.2.toNat

/-- The list section: LIST_SLOTS entries, those from LIST_COUNT onward NO_TOKEN and +0 (R205) (DEDUCED, log entry 124). -/
def ResultRec.listBytes (r : ResultRec) : List Byte :=
  padTo (pad64 (12 * r.listSlots))
    ((List.range r.listSlots).flatMap fun i => listEntryBytes (r.list.getD i (noToken, f32Zero, f32Zero)))

/-- The bytes of a result record (Table 10.9). -/
def ResultRec.bytes (r : ResultRec) : List Byte :=
  leBytes 4 r.token ++ leBytes 1 r.status ++ leBytes 1 r.mode ++ leBytes 2 r.row ++ leBytes 2 r.ctx ++ leBytes 2 r.listCount ++
  leBytes 4 r.flags ++ leBytes 4 r.logprob.toNat ++ leBytes 4 r.lse.toNat ++ leBytes 4 r.entropy.toNat ++
  leBytes 4 r.harvestMass.toNat ++ leBytes 4 r.bitternMass.toNat ++ leBytes 4 r.harvestCount ++ leBytes 4 r.validCount ++
  leBytes 4 r.logratio.toNat ++ leBytes 4 r.sqLogratio.toNat ++ leBytes 4 r.value.toNat ++ leBytes 4 r.rmsScale.toNat ++
  leBytes 1 r.accepted ++ leBytes 1 r.hashBlocks ++ leBytes 2 (r.len / 64) ++ leBytes 8 r.hash.toNat ++ leBytes 8 r.epoch.toNat ++
  leBytes 8 r.rngStep.toNat ++ leBytes 2 r.listSlots ++ leBytes 2 r.hashPos ++ leBytes 36 0 ++
  (if r.failed then [] else r.listBytes ++ r.gradient.flatMap fun x => leBytes 4 x.toNat)

/-- Bytes after the header of an outbound packet. -/
def OutBody.len : OutBody → Nat
  | .result rs => (rs.map ResultRec.len).sum
  | .ctxAck _ _ _ _ _ _ _ _ _ copy => if copy.isSome then 64 + 98304 else 64
  | .patchAck _ => 64
  | .reject => 0

/-- LENGTH of an outbound packet. -/
def OutPkt.len (p : OutPkt) : Nat := 64 + p.body.len

/-- TYPE of an outbound packet (Table 10.1). -/
def OutBody.type : OutBody → Nat
  | .result _ => 0x81
  | .ctxAck .. => 0x82
  | .patchAck _ => 0x86
  | .reject => 0xFF

/-- The patch block with its outbound fields (Table 11.1). -/
def PatchBlock.bytes (b : PatchBlock) : List Byte :=
  leBytes 1 b.op ++ leBytes 1 b.ack ++ leBytes 2 b.n ++ leBytes 4 b.stp.toNat ++ leBytes 8 b.tide.toNat ++ leBytes 2 b.handle ++
  leBytes 1 b.rank ++ leBytes 1 b.aflags ++ leBytes 2 b.version ++ leBytes 1 b.outcome ++ leBytes 1 0 ++ leBytes 4 b.applied ++
  leBytes 4 b.skipped ++ leBytes 4 b.stale ++ leBytes 4 b.frozen ++ leBytes 4 b.notPlaced ++ leBytes 4 b.badData ++
  leBytes 8 b.source.toNat ++ leBytes 8 0

/-- The bytes after the header (R193, R205, R210). DROPPED holds the number of rows modulo 65,536 (DESIGN CHOICE, log entry 170). -/
def OutBody.bytes : OutBody → List Byte
  | .result rs => rs.flatMap ResultRec.bytes
  | .ctxAck ctx op ack mask nBias nCount nHist dropped epoch copy =>
    leBytes 2 ctx ++ leBytes 1 op ++ leBytes 1 ack ++ leBytes 4 mask ++ leBytes 2 nBias ++ leBytes 2 nCount ++ leBytes 2 nHist ++
    leBytes 2 dropped ++ leBytes 8 epoch.toNat ++ leBytes 40 0 ++ (match copy with | some c => ctxBytes c | none => [])
  | .patchAck b => b.bytes
  | .reject => []

/-- COUNT of an outbound packet. -/
def OutBody.count : OutBody → Nat
  | .result rs => rs.length
  | _ => 0

/-- The bytes of an outbound packet (Table 10.2). -/
def OutPkt.bytes (p : OutPkt) : List Byte :=
  leBytes 1 p.body.type ++ leBytes 1 1 ++ leBytes 2 p.body.count ++ leBytes 4 p.len ++ leBytes 8 p.tag.toNat ++
  leBytes 8 p.seq.toNat ++ leBytes 8 p.tide.toNat ++ leBytes 1 p.hstatus ++ leBytes 1 p.port ++ leBytes 30 0 ++ p.body.bytes

/-! ### Egress (R208) -/

/-- Bytes of the egress buffer (R208). -/
def egressSize : Nat := 25165824

/-- Bytes produced and not yet sent. -/
def egressUsed (s : State) : Nat := (s.ports.out.map OutPkt.len).sum

/-- Whether a packet of `n` bytes fits the free egress space. -/
def egressFits (n : Nat) (s : State) : Bool := decide (egressUsed s + n ≤ egressSize)

/-- Produce an outbound packet: it takes its place in the port's outbound order and carries the tide of the moment (R187, R208). So does
a REJECT, the RESULT of a malformed packet and a refused CTX_ACK, which report no commit or application (DESIGN CHOICE, log entry 138).
Only RESULTs of commits and CTX_ACKs wait for room: a REJECT, the RESULT of a malformed packet and a PATCH_ACK are produced though the egress
buffer is full (DESIGN CHOICE, log entry 179). -/
def produce (port : Nat) (tag seq : Dword) (hstatus : Nat) (body : OutBody) (s : State) : State :=
  s.updPorts fun p => { p with out := p.out ++ [⟨port, tag, seq, s.tide.count, hstatus, body⟩] }

/-- Answer a PATCH packet with its block (R210). -/
def patchAnswer (port : Nat) (tag : Dword) (b : PatchBlock) (s : State) : State := produce port tag 0 0 (.patchAck b) s

/-- Answer a CTX packet, echoing FIELD_MASK, N_BIAS, N_COUNT and N_HIST of its block (R193) (DESIGN CHOICE, log entry 139). -/
def ctxAnswer (port : Nat) (bs : List Byte) (ack dropped : Nat) (epoch : Dword) (copy : Option Ctx) (s : State) : State :=
  produce port (BitVec.ofNat 64 (leAt bs 8 8)) 0 0
    (.ctxAck (ctxNum bs) (ctxOp bs) ack (ctxMask bs) (ctxNBias bs) (ctxNCount bs) (ctxNHist bs) dropped epoch copy) s

/-! ### Ports -/

/-- A switch port. -/
def portAt (ps : Ports) (p : Nat) : PortSt := if p = 0 then ps.p0 else ps.p1

/-- Change a switch port. -/
def updPort (p : Nat) (f : PortSt → PortSt) (s : State) : State :=
  s.updPorts fun ps => if p = 0 then { ps with p0 := f ps.p0 } else { ps with p1 := f ps.p1 }

/-- Units of the ingress buffer: 16 MiB in beats of 128 B (R208). -/
def ingressUnits : Nat := 131072

/-- Units that packets hold: sheets in stage 1, packets held through an image, operations and packets whose work has not taken
effect, and packets that a multicast source with JOIN 0 has not yet sent on every DOWN link (R208, R214, R276) (DESIGN CHOICE, log entry
171). -/
def ingressUsed (s : State) : Nat :=
  (s.pipe.waiting.map fun x => units x.bytes.length).sum + (s.ports.held.map fun x => units x.2.length).sum +
  (s.pipe.ops.map fun x => units x.bytes.length).sum +
  (s.weights.pkts.map fun x => if x.todo.isEmpty then 0 else x.units).sum + s.weights.seals.length + s.adapters.loads.length +
  (s.reach.mcastAcks.map McastAck.units).sum

/-- Whether the engine grants credits: from start-up step 7, and not while it goes to RETAIN, is in it, or is OFF (R340, R343). -/
def granting (s : State) : Bool := s.power.logicOn && s.power.ready && s.power.target != some .retain && s.power.st == .on

/-- Credit given to two ports from `f` free units: first to the one with less outstanding, then in turn from port 0 (R208). -/
def grantBoth (f a b : Nat) : Nat × Nat :=
  let cap := 65536
  let da := min f (b - a)
  let db := min f (a - b)
  let a1 := a + da
  let b1 := b + db
  let t := min (f - da - db) (2 * cap - (a1 + b1))
  if a1 = b1 then (a1 + (t + 1) / 2, b1 + t / 2) else (a1, b1)

/-- Grant every credit that R208 allows. -/
def regrant (s : State) : State :=
  if granting s then
    let a := s.ports.p0.credit
    let b := s.ports.p1.credit
    let f := ingressUnits - ingressUsed s - a - b
    let g : Nat × Nat :=
      if s.ports.p0.rst ∧ s.ports.p1.rst then (a, b)
      else if s.ports.p0.rst then (a, max b (min 65536 (b + f)))
      else if s.ports.p1.rst then (max a (min 65536 (a + f)), b)
      else grantBoth f a b
    updPort 1 (fun p => { p with credit := g.2 }) (updPort 0 (fun p => { p with credit := g.1 }) s)
  else s

/-- Withdraw the credits of both ports (R340). -/
def withdrawCredits (s : State) : State :=
  updPort 1 (fun p => { p with credit := 0 }) (updPort 0 (fun p => { p with credit := 0 }) s)

/-- OUTBOUND_SEND: the first packet of a port leaves against the host chip's credits (R208, R333) (DEDUCED, log entry 30). -/
def sendFirst (p : Nat) (s : State) : Option State :=
  match s.ports.out.find? fun x => x.port == p with
  | none => none
  | some x =>
    let q := portAt s.ports p
    if s.power.logicOn ∧ s.power.st = .on ∧ !q.rst ∧ units x.len ≤ q.egress then
      some (updPort p (fun q => { q with egress := q.egress - units x.len })
        (s.updPorts fun ps => { ps with out := ps.out.erase x, sent := ps.sent ++ [x] }))
    else none

/-- EGRESS_CREDIT: the host chip grants credits on a port (R208). -/
def execEgressCredit (port : Fin 2) (n : Nat) (s : State) : Host.Outcome State Fault Refusal :=
  when' (s.power.logicOn && !(portAt s.ports port.val).rst)
    (updPort port.val (fun q => { q with egress := q.egress + n }) s) s

/-- PORT_RST rises: the port grants no credits and sends nothing, and a packet not completely arrived is discarded (R333). -/
def portRise (p : Nat) (cut : Bool) (s : State) : State :=
  let s1 := updPort p (fun q => { q with rst := true, credit := 0 }) s
  let s2 := if cut && s.power.logicOn then s1.updCb fun c => { c with truncated := satAdd 0xFFFF c.truncated 1 } else s1
  regrant s2

/-- PORT_RST_RISE (R333). -/
def execPortRstRise (port : Fin 2) (cut : Bool) (s : State) : Host.Outcome State Fault Refusal :=
  when' (!(portAt s.ports port.val).rst) (portRise port.val cut s) s

/-! ### The engine's reads (R334) -/

/-- The port a request leaves on: `want` where neither port is held by PORT_RST, the other where `want` is held; none while both are
(R333, R334) (DEDUCED, log entry 134). -/
def portFor (want : Nat) (s : State) : Option Nat :=
  if !(portAt s.ports want).rst then some want
  else if !(portAt s.ports (1 - want)).rst then some (1 - want)
  else none

/-- The turn after a request has left on port `q`: the other port's, and still the same where both ports are held. -/
def nextTurn (q : Option Nat) (turn : Nat) : Nat := match q with | some i => 1 - i | none => turn

/-- Issue a read request whose bytes are to be written back to `back`. Requests take the ports in turn; one that finds both ports held
waits (R333, R334) (DEDUCED, log entry 134). -/
def issueReadBack (k : ReadKind) (addr len back : Nat) (s : State) : State :=
  let q := portFor s.ports.turn s
  s.updPorts fun p => { p with reads := p.reads ++ [⟨k, addr, len, q, s.tide.osc, back⟩], turn := nextTurn q p.turn }

/-- Issue a read request. -/
def issueRead (k : ReadKind) (addr len : Nat) (s : State) : State := issueReadBack k addr len 0 s

/-- A port falls out of PORT_RST: requests that found both ports held leave on it, and their time starts (R333). -/
def sendWaitingReads (port : Nat) (s : State) : State :=
  s.updPorts fun p =>
    { p with reads := p.reads.map fun r => if r.port.isNone then { r with port := some port, issued := s.tide.osc } else r }

/-- The port on which a request left can bring its response: it is not held (R333) (DEDUCED, log entry 134). -/
def readOpen (r : ReadReq) (s : State) : Bool :=
  match r.port with
  | some p => !(portAt s.ports p).rst
  | none => false

/-- The outstanding read of a kind. -/
def readOf (k : ReadKind) (s : State) : Option ReadReq := s.ports.reads.find? fun r => r.kind == k

/-- Remove the outstanding read of a kind. -/
def dropRead (k : ReadKind) (s : State) : State :=
  s.updPorts fun p => { p with reads := p.reads.filter fun r => r.kind != k }

/-- A read is past CTL_PORT_CFG.READ_LIMIT µs (R334) (DEDUCED, log entries 72 and 85). -/
def readExpired (r : ReadReq) (s : State) : Bool := r.port.isSome && decide (r.issued + 1000 * s.soft.readLimit ≤ s.tide.osc)

/-- PORT_RST_FALL: credits start afresh and waiting packets leave in their order (R333) (DEDUCED, log entry 30). -/
def execPortRstFall (port : Fin 2) (s : State) : Host.Outcome State Fault Refusal :=
  when' (portAt s.ports port.val).rst
    (regrant (sendWaitingReads port.val (updPort port.val (fun q => { q with rst := false, credit := 0, egress := 0 }) s))) s

end Sys2Proof.Machine
end

