-- ==== Sys2Proof/Machine/WeightOps.lean ====
section
/-!
DEFINITION. Row patches, seals and flips (11_live_weights.md R210 to R226): the journal, retirement, the seal's effect, the flip's
decision, firing and abandonment, replay, and the Single-bank window.
-/

namespace Sys2Proof.Machine

/-! ### What every weight operation asks of the state -/

/-- No sheet is in stage 4 or 5: the boundary of R16 and R220. -/
def atBoundary (s : State) : Bool := s.pipe.flight.all fun x => x.stage != 4 && x.stage != 5

/-- The shadow is open: the sealed step equals the live step (R217). -/
def shadowOpen (s : State) : Bool := s.weights.wSealed == s.weights.wLive

/-- The sealed step a position reports. One that has sealed nothing since the image was applied reports the sealed step, 0 (DESIGN CHOICE, log
entry 181). -/
def posStep (s : State) (l : Nat) : Word :=
  match s.weights.posSealed.find? fun p => p.1 == l with
  | some p => p.2
  | none => s.weights.wSealed

/-- PATCH packets are answered NO_IMAGE: no image is applied, or the engine is halted (R213, R287). -/
def noImage (s : State) : Bool := s.image.cfg.isNone || s.fabric.halted

/-- A position's bed holds its patches and replay copies: it rebuilds, or step 8 of Table 2.5 is to come, or the spare copies into
the returning pan (Table 11.4, R285) (DEDUCED, log entry 33). -/
def bedHolds (s : State) (l : Nat) : Bool :=
  let b := bedAt s (l / 16)
  b.phase == .rebuilding || b.shadowLeft || ((b.copying || b.copied) && b.subst == some (l % 16))

/-- The SEQ of the next sheet to arrive: the engine's own, or the one after its parent's last where a member has been opened one (R242)
(DEDUCED, log entry 162). -/
def seqToCome (s : State) : Nat := if admittedMember s ∧ s.reach.dom.cur ≠ 0 then s.reach.dom.cur + 1 else s.pipe.nextSeq

/-- The lowest SEQ that has not yet entered stage 4 (R242). -/
def lowestUnscored (s : State) : Nat :=
  match (s.pipe.flight.filter fun x => x.stage < 4) ++ s.pipe.waiting with
  | x :: _ => x.seq
  | [] => seqToCome s

/-- CTL_FLIP_SEQ takes the lowest SEQ that has not entered stage 4 (R242) (DEDUCED, log entry 162). -/
def setFlipSeq (s : State) : State := s.updPipe fun p => { p with flipSeq := word (lowestUnscored s), flipDue := true }

/-! ### Row entries (R212, R214) -/

/-- The outcomes of Table 11.2. -/
inductive RowFate where
  | notPlaced
  | isFrozen
  | badData
  | stale
  | skipped
  | write (l j : Nat)
deriving DecidableEq, Repr

/-- Conditions 4 to 6 of Table 11.2 at a placed row, against the position's sealed step (R226) (DEDUCED, log entry 31). -/
def stepFate (s : State) (c : ImageCfg) (l j : Nat) (stp : Word) : RowFate :=
  let v := shadowVersion s c l j
  if stp < v ∨ stp ≤ posStep s l then .stale else if stp = v then .skipped else .write l j

/-- Table 11.2 for one entry, in order (DEDUCED, log entry 31). -/
def rowFate (s : State) (c : ImageCfg) (stp : Word) (t : Nat) (bytes : List Byte) : RowFate :=
  match c.place t with
  | none => .notPlaced
  | some (l, j) =>
    if isUnplaced s l then .notPlaced
    else if ((c.leafRows l).getD j (0, false)).2 then .isFrozen
    else if badWeightRow c.wfmt c.h (fun i => bytes.getD i 0) then .badData
    else stepFate s c l j stp

/-- Count an outcome in the packet's block. -/
def countFate (f : RowFate) (b : PatchBlock) : PatchBlock :=
  match f with
  | .notPlaced => { b with notPlaced := b.notPlaced + 1 }
  | .isFrozen => { b with frozen := b.frozen + 1 }
  | .badData => { b with badData := b.badData + 1 }
  | .stale => { b with stale := b.stale + 1 }
  | .skipped => { b with skipped := b.skipped + 1 }
  | .write _ _ => { b with applied := b.applied + 1 }

/-- Count an outcome in the registers of Table 11.2. -/
def countFateReg (f : RowFate) (c : CountersB) : CountersB :=
  match f with
  | .notPlaced => { c with patchNotPlaced := satAdd 0xFF c.patchNotPlaced 1 }
  | .isFrozen => { c with patchFrozen := c.patchFrozen + 1 }
  | .badData => { c with patchBadData := satAdd 0xFF c.patchBadData 1 }
  | .stale => { c with patchStale := satAdd 0xFFFF c.patchStale 1 }
  | .skipped => c
  | .write _ _ => { c with patchRows := c.patchRows + 1 }

/-- Change a packet in progress. -/
def updPkt (id : Nat) (f : PatchPkt → PatchPkt) (s : State) : State :=
  s.updWeights fun w => { w with pkts := w.pkts.map fun p => if p.id = id then f p else p }

/-- An entry of packet `id` is settled (R212). -/
def settleEntry (id : Nat) (f : RowFate) (s : State) : State :=
  (updPkt id (fun p => { p with block := countFate f p.block }) s).updCb (countFateReg f)

/-- Journal bytes taken (R214). -/
def journalUsed (s : State) : Nat :=
  match s.image.cfg with
  | some c => s.weights.journal.length * entryBytes c.b
  | none => 0

/-- Bytes of the journal (R214). -/
def journalSize : Nat := 33554432

/-- An earlier entry of the same row is still in the journal, so conditions 4 to 6 wait for it (R214: rows of a position are written in
order). -/
def rowPending (s : State) (l j : Nat) : Bool := s.weights.journal.any fun e => e.leaf == l && e.pos == j

/-- One entry of a packet on its way to the journal: settled at once, entered, or held by a full journal. -/
def enterEntry (c : ImageCfg) (id : Nat) (stp : Word) (t : Nat) (bytes : List Byte) (s : State) : Option State :=
  let f := rowFate s c stp t bytes
  let enter (l j : Nat) : Option State :=
    if journalUsed s + entryBytes c.b ≤ journalSize then
      some (updPkt id (fun p => { p with inJournal := p.inJournal + 1 })
        (s.updWeights fun w => { w with journal := w.journal ++ [⟨id, l, j, stp, bytes⟩] }))
    else none
  match f with
  | .write l j => enter l j
  | .notPlaced | .isFrozen | .badData => some (settleEntry id f s)
  | .stale | .skipped =>
    match c.place t with
    | some (l, j) =>
      if rowPending s l j ∧ posStep s l < stp then enter l j else some (settleEntry id f s)
    | none => some (settleEntry id f s)

/-- Entries of a packet in order until the journal is full. -/
def enterEntries (c : ImageCfg) (id : Nat) (stp : Word) : List (Nat × List Byte) → State → State × List (Nat × List Byte)
  | [], s => (s, [])
  | (t, bs) :: r, s =>
    match enterEntry c id stp t bs s with
    | some s1 => enterEntries c id stp r s1
    | none => (s, (t, bs) :: r)

/-- Packets in order until the journal is full (R214). -/
def fillJournal (c : ImageCfg) : List PatchPkt → State → State
  | [], s => s
  | p :: r, s =>
    let x := enterEntries c p.id p.block.stp p.todo s
    let s1 := updPkt p.id (fun q => { q with todo := x.2 }) x.1
    if x.2.isEmpty then fillJournal c r s1 else s1

/-- Answer the ROWS packets whose every entry is written and retired, or refused or skipped (Table 11.3). -/
def finishPkts (s : State) : State :=
  let fin := s.weights.pkts.filter fun p => p.todo.isEmpty && p.inJournal == 0
  let s1 := s.updWeights fun w => { w with pkts := w.pkts.filter fun p => !(p.todo.isEmpty && p.inJournal == 0) }
  fin.foldl (fun t p => if p.answer then patchAnswer p.port p.tag p.block t else t) s1

/-- Move entries into the journal, answer finished packets, and grant the space that falls free. -/
def settleJournal (s : State) : State :=
  match s.image.cfg with
  | some c => regrant (finishPkts (fillJournal c s.weights.pkts s))
  | none => s

/-- An accepted ROWS packet (R211, R214). -/
def acceptRows (c : ImageCfg) (port : Nat) (bs : List Byte) (answer : Bool) (s : State) : State :=
  let b := patchBlock bs
  let entries := (List.range b.n).map fun i =>
    let e := rowsEntry c.b bs i
    (leAt e 0 4, sliceBytes e 8 c.b)
  let p : PatchPkt := ⟨s.weights.nextPkt, port, BitVec.ofNat 64 (leAt bs 8 8), b, units bs.length, entries, 0, answer⟩
  settleJournal (s.updWeights fun w => { w with pkts := w.pkts ++ [p], nextPkt := w.nextPkt + 1 })

/-! ### Retiring a row (R214, R88) -/

/-- Remove the journal entry `e` and settle it with fate `f`. -/
def retireEntry (e : JEntry) (f : RowFate) (s : State) : State :=
  settleJournal (settleEntry e.pkt f (updPkt e.pkt (fun p => { p with inJournal := p.inJournal - 1 })
    (s.updWeights fun w => { w with journal := w.journal.erase e })))

/-- Rows may be written to a position's shadow: it has sealed no step above the live one, and under Single-bank the window is open and
no sheet is in stage 4 or 5 (R85, R217, R225, R226). -/
def writable (s : State) (c : ImageCfg) (l : Nat) : Bool :=
  posStep s l == s.weights.wLive && (!c.single || (s.weights.flip == .window && atBoundary s))

/-- Read every group of a position in the window at `base`, to be written back to the window at `back`, whose bases are those of this
moment (R88) (DEDUCED, log entries 32 and 36; DESIGN CHOICE, log entry 132). -/
def readWindow (c : ImageCfg) (l : Nat) (kind : Nat → ReadKind) (base back : Nat) (s : State) : State :=
  (List.range c.hchunks).foldl (fun t ch =>
    issueReadBack (kind ch) (groupAddr c base l ch) (groupBytes c) (groupAddr c back l ch) t) s

/-- A window read of the position is outstanding. -/
def windowBusy (s : State) (l : Nat) : Bool :=
  s.ports.reads.any fun r => match r.kind with
    | .windowPatch x _ => x == l
    | .windowReplay x _ => x == l
    | _ => false

/-- The window reads of a position end without effect. -/
def dropWindow (l : Nat) (s : State) : State :=
  s.updPorts fun p =>
    { p with reads := p.reads.filter fun r => match r.kind with
        | .windowPatch x _ => x != l
        | .windowReplay x _ => x != l
        | _ => true }

/-- A response to a window read of a position: an unplaced one takes nothing more, and while its bed holds patches and replay copies the
group is read again, so that nothing is written before step 8 of Table 2.5 (R212, Table 11.4) (DEDUCED, log entry 189). -/
def windowIn (l : Nat) (again use : State → State) (s : State) : State :=
  if isUnplaced s l then dropWindow l s else if bedHolds s l then again s else use s

/-- Write a row of the shadow bank with parity, set its version, and retire the entry (R78, R214). -/
def writeRow (c : ImageCfg) (e : JEntry) (s : State) : State :=
  let bank := shadowBank c s.brine.live
  retireEntry e (.write e.leaf e.pos)
    (setVersion bank e.leaf e.pos e.stp (brineWriteParity (panOf s e.leaf) (bankBase c bank + e.pos * c.b) e.bytes s))

/-- The entry whose turn it is at a position. -/
def headEntry (s : State) (l : Nat) : Option JEntry := s.weights.journal.find? fun e => e.leaf == l

/-- PATCH_ROW_RETIRE at a position (R88, R212, R214). An overflow row first reads its groups; it retires with the last response. -/
def retireRow (c : ImageCfg) (e : JEntry) (s : State) : State :=
  if isUnplaced s e.leaf then retireEntry e .notPlaced (dropWindow e.leaf s)
  else
    match stepFate s c e.leaf e.pos e.stp with
    | .write l j =>
      if c.arr = 2 ∧ c.cap ≤ j then
        readWindow c l (.windowPatch l) (windowBase s (1 - s.brine.live)) (windowBase s (1 - s.brine.live)) s
      else writeRow c e s
    | f => retireEntry e f s

/-- The entry is refused or skipped when its turn comes: Table 11.2 does not write it. -/
def notWritten (s : State) (c : ImageCfg) (e : JEntry) : Bool :=
  match stepFate s c e.leaf e.pos e.stp with
  | .write _ _ => false
  | _ => true

/-- The entry is ordered behind a SEAL that has not taken effect at its position (R216, R217, R226). -/
def sealAhead (s : State) (e : JEntry) : Bool :=
  match s.weights.seals with
  | x :: _ => decide (x.before ≤ e.pkt) && posStep s e.leaf != x.block.stp
  | [] => false

/-- A row of the position may retire: the position's shadow takes it, or Table 11.2 does not write it; no SEAL is due before it, so that no
group of a row behind a SEAL is out when the SEAL takes effect; it is not held by its bed, and an overflow row waits for the position's
replay and reads (DEDUCED, log entry 33). -/
def mayRetire (s : State) (c : ImageCfg) (e : JEntry) : Bool :=
  (writable s c e.leaf || notWritten s c e) && !sealAhead s e && !bedHolds s e.leaf && !windowBusy s e.leaf &&
  (!(c.arr == 2 && decide (c.cap ≤ e.pos)) || !s.weights.replay.contains e.leaf)

/-- PATCH_ROW_RETIRE. -/
def execPatchRowRetire (leaf : Nat) (s : State) : Host.Outcome State Fault Refusal :=
  forUnit (decide (leaf < s.part.leaves))
    (match s.image.cfg, headEntry s leaf with
     | some c, some e => when' (s.power.logicOn && (mayRetire s c e || isUnplaced s leaf)) (retireRow c e s) s
     | _, _ => .next s)

/-- A group read for a patch arrived: replace the row's chunk, write the group back where it was read, and retire the row with the last
one (R88) (DEDUCED, log entry 32). -/
def windowPatched (c : ImageCfg) (leaf ch back : Nat) (data : List Byte) (s : State) : State :=
  match headEntry s leaf with
  | none => dropRead (.windowPatch leaf ch) s
  | some e =>
    let chunk := rowChunkBytes c.wfmt c.h (fun i => e.bytes.getD i 0) ch
    let g := groupPut c data (e.pos - c.cap) chunk
    let s1 := (dropRead (.windowPatch leaf ch) s).updPorts fun p => { p with hostWrites := p.hostWrites ++ [(back, g)] }
    if windowBusy s1 leaf then s1
    else retireEntry e (.write e.leaf e.pos) (setVersion (shadowBank c s.brine.live) e.leaf e.pos e.stp s1)

/-! ### Sealing (R216, R226, R271, R277) -/

/-- The lowest sealed step of the engine and its admitted children. -/
def subtreeSealed (s : State) : Word :=
  ((childIdx s).filter (childIn s)).foldl (fun m c =>
    let x := ((childSt s c).sealed).getD 0
    if x < m then x else m) s.weights.wSealed

/-- A member sends SEALED when its own sealed step, or the lowest one of its subtree, changes (R271). -/
def reportSealed (s : State) : State :=
  if role s = 2 ∧ (s.reach.dom.reported ≠ subtreeSealed s ∨ s.reach.dom.ownReported ≠ s.weights.wSealed) then
    toParent (.sealed (subtreeSealed s))
      (s.updReach fun r => { r with dom := { r.dom with reported := subtreeSealed s, ownReported := s.weights.wSealed } })
  else s

/-- The lowest sealed step of a multicast group below this engine: its own when JOIN is 1, and the last reports of its DOWN links
(R277); none where neither exists (DEDUCED, log entry 16). -/
def mcastLowest (s : State) (g : McastSt) : Option Word :=
  let own := if g.join then [s.weights.wSealed] else []
  let down := g.reports.filterMap fun p => if bitOf g.down p.1 then some p.2 else none
  match own ++ down with
  | [] => none
  | x :: r => some (r.foldl (fun m y => if y < m then y else m) x)

/-- One group's report where its lowest value has changed (R277); an engine with no address takes no part in multicast (R261). While
UP_LINK carries no messages the report waits until it does (DEDUCED, log entry 190). -/
def reportGroup (s : State) (i : Nat) : State :=
  let g := s.reach.groups.getD i mcastReset
  match mcastLowest s g with
  | none => s
  | some v =>
    if s.reach.addr.isNone then s
    else
      let leaves := g.source || linkOpen s g.upLink
      let s1 := s.updReach fun r =>
        { r with groups := r.groups.modify i fun g => { g with sealedMin := v, reported := if leaves then some v else g.reported } }
      if g.source ∨ g.reported = some v then s1 else sendUp g.upLink (.mcastReport i v) s1

/-- Multicast reports of every group. -/
def reportGroups (s : State) : State := (List.range s.reach.groups.length).foldl reportGroup s

/-- A sealed step has changed: reports go up and a HELD flip decides again (R221, R271, R277) (DEDUCED, log entry 34). -/
def sealedChanged (s : State) : State :=
  reportGroups (reportSealed (s.updWeights fun w => { w with recheck := true }))

/-- A SEAL fits the state (R216). -/
def sealOk (s : State) (stp : Word) : Bool :=
  decide (s.weights.wSealed < stp) && decide (s.weights.wLive < stp) && shadowOpen s &&
  s.weights.pkts.all fun p => decide (p.block.stp ≤ stp)

/-- A SEAL arrives (R216). -/
def acceptSeal (port : Nat) (bs : List Byte) (answer : Bool) (s : State) : State :=
  let b := patchBlock bs
  let tag : Dword := BitVec.ofNat 64 (leAt bs 8 8)
  if sealOk s b.stp then
    s.updWeights fun w => { w with seals := w.seals ++ [⟨port, tag, b, w.nextPkt, answer⟩] }
  else if answer then patchAnswer port tag { b with ack := 1 } s else s

/-- Rows ordered before a SEAL are settled at a position (R216). -/
def rowsSettled (s : State) (c : ImageCfg) (before l : Nat) : Bool :=
  (s.weights.journal.all fun e => e.leaf != l || decide (before ≤ e.pkt)) &&
  s.weights.pkts.all fun p => decide (before ≤ p.id) || p.todo.all fun t => (c.place t.1).map (·.1) != some l

/-- Every position of the engine reports a step. -/
def allReport (s : State) (stp : Word) : Bool := (List.range s.part.leaves).all fun l => !isUnplaced s l && posStep s l == stp

/-- Every member reports the sealed step (R219, R225). -/
def membersReport (s : State) (stp : Word) : Bool :=
  (childIdx s).all fun c => childIn s c && (childSt s c).sealed == some stp

/-- The window closes: the live step becomes S and the ARM is acknowledged FIRED (R225, R242). -/
def closeWindow (s : State) : State :=
  match s.weights.arm with
  | none => s
  | some a =>
    let s1 := setFlipSeq (s.updWeights fun w =>
      { w with wLive := a.block.stp, flip := .idle, arm := none, firedTide := s.tide.count })
    bbRecord 0x33 0 0 noSeq s1.weights.wLive 0
      (raise srcFlipFired (toChildren (.fire a.block.stp) (patchAnswer a.port a.tag { a.block with outcome := 1 } s1)))

/-- The first moment at which every position and member reports S closes an open window (R225). -/
def tryClose (s : State) : State :=
  match s.weights.arm with
  | some a =>
    if s.weights.flip = .window ∧ allReport s a.block.stp ∧ membersReport s a.block.stp then closeWindow s else s
  | none => s

/-- A SEAL is complete: every position reports it (R216). Later SEALs meet a sealed shadow and are answered BAD_STATE (Table 11.4). -/
def sealDone (x : SealWait) (rest : List SealWait) (s : State) : State :=
  let s1 := s.updWeights fun w => { w with wSealed := x.block.stp, posSealed := [], seals := [] }
  let s2 := if x.answer then patchAnswer x.port x.tag x.block s1 else s1
  let s3 := rest.foldl (fun t y => if y.answer then patchAnswer y.port y.tag { y.block with ack := 1 } t else t) s2
  tryClose (sealedChanged s3)

/-- SEAL_EFFECT at a position: its sealed step changes, so a HELD flip decides again (R216, R221, R226). -/
def sealAt (x : SealWait) (rest : List SealWait) (l : Nat) (s : State) : State :=
  let s1 := s.updWeights fun w =>
    { w with posSealed := (l, x.block.stp) :: w.posSealed.filter fun p => p.1 != l, recheck := true }
  regrant (if allReport s1 x.block.stp then sealDone x rest s1 else s1)

/-- A SEAL may take effect at a position (R216, R226). -/
def maySeal (s : State) (c : ImageCfg) (x : SealWait) (l : Nat) : Bool :=
  rowsSettled s c x.before l && !s.weights.replay.contains l && !bedHolds s l && !isUnplaced s l &&
  posStep s l != x.block.stp && (!c.single || s.weights.flip == .window)

/-- SEAL_EFFECT. -/
def execSealEffect (leaf : Nat) (s : State) : Host.Outcome State Fault Refusal :=
  forUnit (decide (leaf < s.part.leaves))
    (match s.image.cfg, s.weights.seals with
     | some c, x :: rest => when' (s.power.logicOn && maySeal s c x leaf) (sealAt x rest leaf s) s
     | _, _ => .next s)

/-! ### Arming, deciding, firing (R218 to R221) -/

/-- Acknowledge the ARM in force with an outcome. -/
def endArm (outcome : Nat) (s : State) : State :=
  match s.weights.arm with
  | none => s
  | some a => patchAnswer a.port a.tag { a.block with outcome := outcome } (s.updWeights fun w => { w with arm := none })

/-- An accepted ARM (R218, R221, R222). -/
def armFlip (port : Nat) (tag : Dword) (b : PatchBlock) (s : State) : State :=
  toChildren (.arm b.stp b.tide) ((endArm 4 s).updWeights fun w =>
    { w with
      flip := .armed, arm := some ⟨port, tag, b⟩, holdLimit := s.soft.flipHoldLimit, flipTarget := b.stp, flipTide := b.tide
      windowRaised := false })

/-- An ARM arrives (R218). -/
def acceptArm (port : Nat) (bs : List Byte) (s : State) : State :=
  let b := patchBlock bs
  let tag : Dword := BitVec.ofNat 64 (leAt bs 8 8)
  if b.stp ≤ s.weights.wLive then patchAnswer port tag { b with ack := 2 } s
  else if s.weights.flip = .window ∨ s.weights.flip = .firing ∨ domainMember s then patchAnswer port tag { b with ack := 1 } s
  else armFlip port tag b s

/-- A DISARM arrives (R218, R222, R225). -/
def acceptDisarm (port : Nat) (bs : List Byte) (s : State) : State :=
  let b := patchBlock bs
  let tag : Dword := BitVec.ofNat 64 (leAt bs 8 8)
  if (s.weights.flip = .armed ∨ s.weights.flip = .held) ∧ !domainMember s then
    toChildren (.disarm s.weights.flipTarget s.weights.flipTide)
      (patchAnswer port tag b (endArm 3 (s.updWeights fun w => { w with flip := .idle })))
  else patchAnswer port tag { b with ack := 1 } s

/-- What a decision finds at a position: the step it reports, none where it counts as not having reported (R219) (DESIGN CHOICE, log
entry 181). -/
def reported (s : State) (l : Nat) : Option Word :=
  if isUnplaced s l ∨ (bedAt s (l / 16)).phase = .rebuilding then none else some (posStep s l)

/-- A position agrees to a flip to `stp` (R219); one that waits for step 8 of Table 2.5 does not (R40) (DEDUCED, log entry 34). -/
def agrees (s : State) (stp : Word) (l : Nat) : Bool :=
  reported s l == some stp && !((bedAt s (l / 16)).shadowLeft && onSpare s l)

/-- The first disagreement in child order: a position, or a remote child (R219). -/
inductive Split where
  | pos (l : Nat) (stp : Option Word)
  | child (c : Nat) (stp : Option Word)
deriving DecidableEq, Repr

/-- The first disagreeing position or remote child, none where the flip agrees (R219, R271). -/
def firstSplit (s : State) (stp : Word) : Option Split :=
  match (List.range s.part.leaves).find? fun l => !agrees s stp l with
  | some l => some (.pos l (reported s l))
  | none =>
    match (childIdx s).find? fun c => !(childIn s c && (childSt s c).sealed == some stp) with
    | some c => some (.child c (if childIn s c then (childSt s c).sealed else none))
    | none => none

/-- Codes of CTL_FLIP_STATUS.STATE. -/
def FlipPhase.code : FlipPhase → Nat
  | .idle => 0
  | .armed => 1
  | .firing => 2
  | .held => 3
  | .window => 4

/-- CTL_FLIP_STATUS. -/
def flipStatus (s : State) : Word :=
  let w := s.weights
  word (w.flip.code * 2 ^ 29 + bit01 (!w.replay.isEmpty) * 2 ^ 28 + bit01 w.splitValid * 2 ^ 27 + bit01 w.splitRemote * 2 ^ 26 +
    w.splitWho * 2 ^ 16)

/-- FLIP_SPLIT is raised and recorded (R219, R225). -/
def raiseSplit (s : State) : State := bbRecord 0x34 0 0 noSeq (flipStatus s) s.weights.splitStep (raise srcFlipSplit s)

/-- The decision of R219. -/
def decideFlip (s : State) : State :=
  let s0 := s.updWeights fun w => { w with recheck := false }
  let mark (remote : Bool) (who : Nat) (stp : Option Word) : State :=
    raiseSplit (s0.updWeights fun w =>
      { w with flip := .held, splitValid := true, splitRemote := remote, splitWho := who, splitStep := stp.getD 0xFFFFFFFF#32 })
  match firstSplit s s.weights.flipTarget with
  | none => s0.updWeights fun w => { w with flip := .firing }
  | some (.pos l stp) => mark false l stp
  | some (.child c stp) => mark true c stp

/-- The engine decides its own flips: it is no admitted member (R271). One that was cut off while ARMED decides the flip that its root armed
(DESIGN CHOICE, log entry 182). -/
def decides (s : State) : Bool := !admittedMember s

/-- The arrangement is Single-bank. -/
def isSingle (s : State) : Bool := match s.image.cfg with | some c => c.single | none => false

/-- A decision is due: the tide is at or above T while ARMED, or a sealed step changed while HELD (R219, R221) (DESIGN CHOICE, log entry
182). -/
def decisionDue (s : State) : Bool :=
  !isSingle s && decides s &&
  ((s.weights.flip == .armed && decide (s.weights.flipTide ≤ s.tide.count)) || (s.weights.flip == .held && s.weights.recheck))

/-- FLIP_DECISION. -/
def execFlipDecision (s : State) : Host.Outcome State Fault Refusal := when' (s.power.logicOn && decisionDue s) (decideFlip s) s

/-- Positions with an overflow row whose live version is above its shadow version (R223). -/
def changedOverflow (s : State) (c : ImageCfg) (l : Nat) : Bool :=
  c.arr == 2 && (List.range (c.ovfRows l)).any fun k => decide (shadowVersion s c l (c.cap + k) < liveVersion s c l (c.cap + k))

/-- Issue the group reads of a position's overflow replay (R223). -/
def startReplay (c : ImageCfg) (s : State) (l : Nat) : State :=
  if changedOverflow s c l then
    readWindow c l (.windowReplay l) (windowBase s s.brine.live) (windowBase s (1 - s.brine.live)) s
  else s

/-- The banks exchange roles and the live step becomes S (R80, R220, R242); replay begins at every position (R223). At a Single-bank
member, whose root has closed its window, there is no exchange and no replay (R225). -/
def fireFlip (stp : Word) (s : State) : State :=
  let single := isSingle s
  let s1 := setFlipSeq (s.updBrine fun b => { b with live := if single then b.live else 1 - b.live })
  let s2 := s1.updWeights fun w =>
    { w with
      wLive := stp, flip := .idle, firedTide := s.tide.count, recheck := false
      replay := if single then [] else List.range s.part.leaves }
  let s3 := match s.image.cfg with
    | some c => (List.range s.part.leaves).foldl (startReplay c) s2
    | none => s2
  let s4 := toChildren (.fire stp) (endArm 1 s3)
  bbRecord 0x33 0 0 noSeq stp 0 (raise srcFlipFired (s4.updReach fun r => { r with dom := { r.dom with fire := none } }))

/-- The step a flip waiting for its boundary fires to: that of a FIRING flip, or the FIRE a member has received (R220, R271). -/
def firingStep (s : State) : Option Word := if s.weights.flip = .firing then some s.weights.flipTarget else s.reach.dom.fire

/-- A takeover goes on: some bed is REBUILDING or step 8 of Table 2.5 is still to come (R40) (DESIGN CHOICE, log entry 133). -/
def takeoverOpen (s : State) : Bool := s.fabric.beds.any fun b => b.2.phase == .rebuilding || b.2.shadowLeft

/-- FLIP_FIRE (R220, R271). A flip that is FIRING when a takeover begins waits for its step 8 (DESIGN CHOICE, log entry 133). -/
def execFlipFire (s : State) : Host.Outcome State Fault Refusal :=
  match firingStep s with
  | some stp => when' (s.power.logicOn && atBoundary s && !takeoverOpen s) (fireFlip stp s) s
  | none => .next s

/-- A HELD flip past T plus its latched limit (R221). -/
def abandonDue (s : State) : Bool :=
  s.weights.flip == .held && decide (s.weights.flipTide.toNat + s.weights.holdLimit.toNat ≤ s.tide.count.toNat)

/-- The flip returns to IDLE, acknowledged ABANDONED (R221). -/
def abandonFlip (s : State) : State :=
  bbRecord 0x35 0 0 noSeq s.weights.flipTarget 0
    (raise srcFlipAbandoned (endArm 2 (s.updWeights fun w => { w with flip := .idle })))

/-- FLIP_ABANDON. -/
def execFlipAbandon (s : State) : Host.Outcome State Fault Refusal := when' (s.power.logicOn && abandonDue s) (abandonFlip s) s

/-! ### Replay (R223) -/

/-- Copy one resident row whose live version is above its shadow version, with parity, and raise the shadow version. -/
def replayRow (c : ImageCfg) (l : Nat) (s : State) (j : Nat) : State :=
  let v := liveVersion s c l j
  if shadowVersion s c l j < v then
    let sh := shadowBank c s.brine.live
    let s1 :=
      if j < c.cap then
        brineWriteParity (panOf s l) (bankBase c sh + j * c.b) (brineRead s (panOf s l) (bankBase c s.brine.live + j * c.b) c.b)
          (noteRead (panOf s l) (bankBase c s.brine.live + (j + 1) * c.b - 1) s)
      else s
    setVersion sh l j v s1
  else s

/-- The position's scan ends and every copy has retired. -/
def replayAll (c : ImageCfg) (l : Nat) (s : State) : State :=
  ((List.range (c.leafRows l).length).foldl (replayRow c l) s).updWeights fun w => { w with replay := w.replay.filter (· != l) }

/-- REPLAY_DONE. -/
def execReplayDone (leaf : Nat) (s : State) : Host.Outcome State Fault Refusal :=
  forUnit (decide (leaf < s.part.leaves))
    (match s.image.cfg with
     | some c =>
       when' (s.power.logicOn && s.weights.replay.contains leaf && !bedHolds s leaf && !isUnplaced s leaf && !windowBusy s leaf)
         (replayAll c leaf s) s
     | none => .next s)

/-- A replay group arrived from the new live window: it is written to the new shadow window (R88, R223). -/
def windowReplayed (c : ImageCfg) (leaf ch back : Nat) (data : List Byte) (s : State) : State :=
  (dropRead (.windowReplay leaf ch) s).updPorts fun p => { p with hostWrites := p.hostWrites ++ [(back, sliceBytes data 0 (groupBytes c))] }

/-! ### The Single-bank window (R225) -/

/-- WINDOW_OPEN: the tide reaches T of a Single-bank ARM, at the root and, by the ARM it was sent, at a member. -/
def execWindowOpen (s : State) : Host.Outcome State Fault Refusal :=
  when' (s.power.logicOn && isSingle s && s.weights.flip == .armed && decide (s.weights.flipTide ≤ s.tide.count))
    (tryClose (s.updWeights fun w => { w with flip := .window })) s

/-- WINDOW_HOLD_LIMIT: a window still open at T plus the latched limit raises FLIP_SPLIT once (R225). -/
def execWindowHoldLimit (s : State) : Host.Outcome State Fault Refusal :=
  when' (s.power.logicOn && s.weights.flip == .window && !s.weights.windowRaised &&
      decide (s.weights.flipTide.toNat + s.weights.holdLimit.toNat ≤ s.tide.count.toNat))
    (raiseSplit (s.updWeights fun w => { w with windowRaised := true })) s

end Sys2Proof.Machine
end

