-- ==== Sys2Proof/Machine/AdapterOps.lean ====
section
/-!
DEFINITION. Adapters (11_live_weights.md R227 to R229, 04_brine_store.md R82, 13_reach_fabric.md R270): the table, loads, versions and
pins, and where an adapter's factors stand in its slots.
-/

namespace Sys2Proof.Machine

/-! ### Layout of an adapter (R82) -/

/-- Blocks of 32 that a B row of rank `r` takes. -/
def bBlocks (r : Nat) : Nat := ceilDiv r 32

/-- Bytes of a B row. -/
def bRowBytes (r : Nat) : Nat := 33 * bBlocks r

/-- A rows j < r held by position L of N, in ascending j. -/
def aRowsAt (n r l : Nat) : List Nat := (List.range r).filter fun j => j % n == l

/-- Bytes of an A row. -/
def aRowBytes (h : Nat) : Nat := 33 * h / 32

/-- The footprint at a position (R82). -/
def footprint (c : ImageCfg) (n r l : Nat) : Nat :=
  (c.leafRows l).length * bRowBytes r + (aRowsAt n r l).length * aRowBytes c.h

/-- Slots an adapter of rank `r` takes. -/
def slotsNeeded (c : ImageCfg) (n r : Nat) : Nat :=
  ceilDiv ((List.range n).foldl (fun m l => max m (footprint c n r l)) 0) slotSize

/-- Where each position's footprint stands in the source: offset and length, in ascending L (R227). -/
def sourceParts (c : ImageCfg) (n r : Nat) : List (Nat × Nat) :=
  ((List.range n).foldl (fun (acc : Nat × List (Nat × Nat)) l =>
    (acc.1 + pad64 (footprint c n r l), acc.2 ++ [(acc.1, footprint c n r l)])) (0, [])).2

/-- Bytes of the engine's own footprints in a source. -/
def sourceLen (c : ImageCfg) (n r : Nat) : Nat := ((List.range n).map fun l => pad64 (footprint c n r l)).sum

/-- Every factor of a footprint passes R58. -/
def factorsOk (c : ImageCfg) (n r l : Nat) (bs : List Byte) : Bool :=
  let nb := (c.leafRows l).length
  ((List.range nb).all fun i => !badWeightRow .e4m3 (32 * bBlocks r) (fun k => bs.getD (i * bRowBytes r + k) 0)) &&
  ((List.range (aRowsAt n r l).length).all fun i =>
    !badWeightRow .e4m3 c.h (fun k => bs.getD (nb * bRowBytes r + i * aRowBytes c.h + k) 0))

/-- Every factor of the engine's own footprints passes R58. -/
def sourceOk (c : ImageCfg) (n r : Nat) (bs : List Byte) : Bool :=
  (List.range n).all fun l =>
    let p := (sourceParts c n r).getD l (0, 0)
    factorsOk c n r l (sliceBytes bs p.1 p.2)

/-- Write every position's footprint into its slots, with parity (R78, R82). -/
def writeSlots (c : ImageCfg) (n r first : Nat) (bs : List Byte) (s : State) : State :=
  (List.range n).foldl (fun t l =>
    let p := (sourceParts c n r).getD l (0, 0)
    if isUnplaced s l then t
    else brineWriteParity (panOf s l) (adapterBase + first * slotSize) (sliceBytes bs p.1 p.2) t) s

/-! ### The table -/

/-- An entry of the adapter table. -/
def adEntry (s : State) (v : Nat) : AdEntry := s.adapters.table.getD v adReset

/-- Change an entry. -/
def updEntry (v : Nat) (f : AdEntry → AdEntry) (s : State) : State :=
  s.updAdapters fun a => { a with table := a.table.modify v f }

/-- REFS of a version: contexts whose PIN names it (R228). -/
def refs (s : State) (v : Nat) : Nat := (s.pipe.ctxs.filter fun p => p.2.pin == v).length

/-- The current version of a handle (R203). -/
def currentOf (s : State) (handle : Nat) : Option Nat :=
  (List.range s.adapters.table.length).find? fun v => (adEntry s v).phase == .current && (adEntry s v).handle == handle

/-- PIN for a handle: its current version, 0xFFFF for none (R203). -/
def pinFor (s : State) (handle : Nat) : Nat := if handle = none16 then none16 else (currentOf s handle).getD none16

/-- The lowest free table entry. -/
def freeEntry (s : State) : Option Nat :=
  (List.range s.adapters.table.length).find? fun v => (adEntry s v).phase == .free

/-- A slot is free. -/
def slotFree (s : State) (k : Nat) : Bool :=
  s.adapters.table.all fun e => e.phase == .free || !(decide (e.first ≤ k) && decide (k < e.first + e.slots))

/-- The lowest free run of `n` slots (R82). -/
def freeRun (s : State) (n : Nat) : Option Nat :=
  (List.range 17).find? fun f => decide (f + n ≤ 16) && (List.range n).all fun i => slotFree s (f + i)

/-- A version becomes FREE and releases its slots; no context is pinned to it, so none is left to re-pin from it; the root tells its
domain (R228, R270). -/
def freeVersion (v : Nat) (s : State) : State :=
  let s1 := (updEntry v (fun _ => adReset) s).updAdapters fun a => { a with moves := a.moves.filter fun m => m.2 != v }
  if role s = 1 then toChildren (.adapterFree v) s1 else s1

/-- Every RETIRING version with no references becomes FREE (R228); in an admitted member the root frees versions (R270). -/
def freeRetired (s : State) : State :=
  (List.range s.adapters.table.length).foldl (fun t v =>
    if (adEntry t v).phase = .retiring ∧ refs t v = 0 ∧ !admittedMember t then freeVersion v t else t) s

/-! ### Loads -/

/-- Change the load in progress, the first in order of arrival. -/
def updLoad (f : AdLoad → AdLoad) (s : State) : State :=
  s.updAdapters fun a => { a with loads := match a.loads with | [] => [] | x :: r => f x :: r }

/-- The load's entry, once taken, has its run of slots. -/
def loadStarted (s : State) (x : AdLoad) : Bool := match x.ver with | some v => decide (0 < (adEntry s v).slots) | none => false

/-- A load can go on: it has an entry, and its run is free. -/
def canStart (s : State) (c : ImageCfg) (x : AdLoad) : Bool :=
  x.ver.isSome && (freeRun s (slotsNeeded c s.part.leaves x.block.rank)).isSome

/-- The first load takes the lowest free entry; one that waits behind another takes none before its turn. Where entry or run is wanting it
waits and raises ADAPTER_WAIT once (R227) (DESIGN CHOICE, log entry 173). -/
def advanceLoads (s : State) : State :=
  match s.image.cfg, s.adapters.loads with
  | some c, x :: _ =>
    if loadStarted s x then s
    else
      let s1 :=
        match x.ver, freeEntry s with
        | none, some v =>
          updLoad (fun y => { y with ver := some v })
            (updEntry v (fun _ => ⟨.loading, x.block.handle, x.block.rank, 0, 0, bitOf x.block.aflags 0⟩) s)
        | _, _ => s
      match s1.adapters.loads with
      | y :: _ =>
        if !canStart s1 c y ∧ !y.waited then raise srcAdapterWait (updLoad (fun y => { y with waited := true }) s1) else s1
      | [] => s1
  | _, _ => s

/-- Versions whose references have gone are freed, and a load that waited for an entry goes on (R227, R228). -/
def settleAdapters (s : State) : State := advanceLoads (freeRetired s)

/-- The first load ends with an ack code; its entry and slots fall free where it did not succeed (R227). -/
def endLoad (ack : Nat) (s : State) : State :=
  match s.adapters.loads with
  | [] => s
  | x :: r =>
    let s1 := patchAnswer x.port x.tag { x.block with ack := ack, version := if ack = 0 then x.ver.getD 0 else 0 }
      ((dropRead .adapter s).updAdapters fun a => { a with loads := r })
    let s2 := if ack = 0 then s1 else match x.ver with | some v => freeVersion v s1 | none => s1
    regrant (advanceLoads s2)

/-- ADAPTER_LOAD arrives (R227, R270). -/
def acceptLoad (c : ImageCfg) (port : Nat) (bs : List Byte) (s : State) : State :=
  let b := patchBlock bs
  let tag : Dword := BitVec.ofNat 64 (leAt bs 8 8)
  if 16 < slotsNeeded c s.part.leaves b.rank then patchAnswer port tag { b with ack := 2 } s
  else if admittedMember s ∨ s.adapters.loads.any fun x => x.block.handle == b.handle then patchAnswer port tag { b with ack := 1 } s
  else advanceLoads (s.updAdapters fun a => { a with loads := a.loads ++ [⟨port, tag, b, none, b.source, [], false, [], false⟩] })

/-- ADAPTER_RETIRE arrives (R229, R270). -/
def acceptRetire (port : Nat) (bs : List Byte) (s : State) : State :=
  let b := patchBlock bs
  let tag : Dword := BitVec.ofNat 64 (leAt bs 8 8)
  match currentOf s b.handle with
  | some v =>
    if admittedMember s then patchAnswer port tag { b with ack := 1 } s
    else advanceLoads (settleAdapters (patchAnswer port tag b (updEntry v (fun e => { e with phase := .retiring }) s)))
  | none => patchAnswer port tag { b with ack := 1 } s

/-- Bytes of the source of a load: the engine's own footprints, then those of each remote child's subtree in child order, admitted or not
(R227, R270) (DESIGN CHOICE, log entry 10). -/
def loadLen (s : State) (c : ImageCfg) (r : Nat) : Nat :=
  sourceLen c s.part.leaves r + ((childIdx s).map fun k => Config.subtreeShare k r).sum

/-- The run is reserved and the source is read (R227). -/
def startLoad (c : ImageCfg) (x : AdLoad) (s : State) : State :=
  let n := slotsNeeded c s.part.leaves x.block.rank
  match x.ver, freeRun s n with
  | some v, some f =>
    issueRead .adapter x.src.toNat (loadLen s c x.block.rank) (updEntry v (fun e => { e with first := f, slots := n }) s)
  | _, _ => s

/-- ADAPTER_LOAD_START: the first load finds its entry and run free. -/
def execAdapterLoadStart (s : State) : Host.Outcome State Fault Refusal :=
  match s.image.cfg, s.adapters.loads with
  | some c, x :: _ => when' (s.power.logicOn && !loadStarted s x && canStart s c x) (startLoad c x s) s
  | _, _ => .next s

/-- Where each remote child's share stands in a source: child, offset and length, in child order (R270). -/
def shareParts (s : State) (c : ImageCfg) (r : Nat) : List (Nat × Nat × Nat) :=
  ((childIdx s).foldl (fun (acc : Nat × List (Nat × Nat × Nat)) k =>
    (acc.1 + Config.subtreeShare k r, acc.2 ++ [(k, acc.1, Config.subtreeShare k r)])) (sourceLen c s.part.leaves r, [])).2

/-- The shares that are sent at once: those of the admitted children; another child's is sent as it is admitted (R270). -/
def childShares (s : State) (c : ImageCfg) (r : Nat) : List (Nat × Nat × Nat) := (shareParts s c r).filter fun k => childIn s k.1

/-- A remote child is sent its share of a version's source (R270). -/
def sendShare (v handle rank : Nat) (src : List Byte) (s : State) (k : Nat × Nat × Nat) : State :=
  sendUp (childSt s k.1).link (.adapter v handle rank (sliceBytes src k.2.1 k.2.2)) s

/-- A child that is admitted is sent its shares of the versions that still await its answer: a version becomes CURRENT only when every
remote child has answered (R270) (DEDUCED, log entry 100). -/
def lateShares (k : Nat) (s : State) : State :=
  match s.image.cfg with
  | none => s
  | some c =>
    let give (t : State) (v handle rank : Nat) (src : List Byte) : State :=
      ((shareParts s c rank).filter fun q => q.1 == k).foldl (sendShare v handle rank src) t
    let s1 := match s.adapters.loads with
      | x :: _ => if x.await.contains k then give s (x.ver.getD 0) x.block.handle x.block.rank x.data else s
      | [] => s
    s.adapters.relays.foldl (fun t y => if y.await.contains k then give t y.ver y.handle y.rank y.bytes else t) s1

/-- Bytes of the source arrived: with the last one every factor is checked, and each child is sent its share (R58, R227, R270). -/
def adapterData (c : ImageCfg) (data : List Byte) (s : State) : State :=
  match s.adapters.loads with
  | [] => dropRead .adapter s
  | x :: _ =>
    let d := x.data ++ data
    let r := x.block.rank
    let s1 := updLoad (fun y => { y with data := d }) s
    if d.length < loadLen s c r then s1
    else if !sourceOk c s.part.leaves r d then endLoad 2 s1
    else
      (childShares s c r).foldl (sendShare (x.ver.getD 0) x.block.handle r d)
        (updLoad (fun y => { y with await := childIdx s }) (dropRead .adapter s1))

/-- Contexts pinned to a retiring version whose successor carries MOVE re-pin at the commit of the next sheet that names them
(R228) (DEDUCED, log entry 28). -/
def moveContexts (old : Nat) (s : State) : State :=
  s.updAdapters fun a =>
    { a with moves := a.moves ++ (s.pipe.ctxs.filter fun p => p.2.pin == old).map fun p => (p.1, old) }

/-- A version becomes CURRENT for its handle and the load is acknowledged (R228). -/
def becomeCurrent (v : Nat) (s : State) : State :=
  let e := adEntry s v
  let s1 :=
    match currentOf s e.handle with
    | some o =>
      let t := updEntry o (fun y => { y with phase := .retiring }) s
      if e.move then moveContexts o t else t
    | none => s
  settleAdapters (endLoad 0 (updEntry v (fun y => { y with phase := .current }) s1))

/-- The load is complete: its slots are written and every remote child has answered (R228, R270). -/
def tryCurrent (s : State) : State :=
  match s.adapters.loads with
  | x :: _ =>
    match x.ver with
    | some v => if x.written ∧ x.await.isEmpty then becomeCurrent v s else s
    | none => s
  | [] => s

/-- The slots are written with parity (R78, R227). -/
def writeLoad (c : ImageCfg) (x : AdLoad) (s : State) : State :=
  match x.ver with
  | some v =>
    tryCurrent (updLoad (fun y => { y with written := true })
      (writeSlots c s.part.leaves x.block.rank (adEntry s v).first x.data s))
  | none => s

/-- No bed holds the writes of adapter slots: they wait, as patches do, while a bed rebuilds, until step 8 of its takeover, and at a
position whose pan returns (R39 to R41, R78) (DESIGN CHOICE, log entry 140). -/
def slotsWritable (s : State) : Bool := (List.range s.part.leaves).all fun l => isUnplaced s l || !bedHolds s l

/-! ### The end of pending packets (R287, R328) -/

/-- A pending PATCH packet's answer at a GO or a halt: NO_IMAGE, with counts 0. -/
def noImageBlock (b : PatchBlock) : PatchBlock :=
  { b with ack := 4, applied := 0, skipped := 0, stale := 0, frozen := 0, notPlaced := 0, badData := 0 }

/-- Answer NO_IMAGE where an answer is owed. -/
def answerNoImage (port : Nat) (tag : Dword) (b : PatchBlock) (owed : Bool) (s : State) : State :=
  if owed then patchAnswer port tag (noImageBlock b) s else s

/-- A read that writes a row of the shadow window. -/
def patchRead (r : ReadReq) : Bool := match r.kind with | .windowPatch _ _ => true | _ => false

/-- Pending ROWS packets and SEALs end with NO_IMAGE and the journal empties (DEDUCED, log entry 69). -/
def endPatches (s : State) : State :=
  let s1 := s.weights.pkts.foldl (fun t p => answerNoImage p.port p.tag p.block p.answer t) s
  let s2 := s.weights.seals.foldl (fun t x => answerNoImage x.port x.tag x.block x.answer t) s1
  (s2.updWeights fun w => { w with pkts := [], seals := [], journal := [] }).updPorts fun p =>
    { p with reads := p.reads.filter fun r => !patchRead r }

/-- Adapter loads end with NO_IMAGE and free what they took. -/
def endLoads (s : State) : State :=
  let s1 := s.adapters.loads.foldl (fun t x =>
    let u := patchAnswer x.port x.tag (noImageBlock x.block) t
    match x.ver with | some v => freeVersion v u | none => u) s
  (dropRead .adapter s1).updAdapters fun a => { a with loads := [] }

/-- A PATCH packet that passed its framing arrives (R213). `answer` is false for a multicast packet (R276) (DEDUCED, log entry 20). -/
def patchArrives (port : Nat) (bs : List Byte) (answer : Bool) (s : State) : State :=
  let b := patchBlock bs
  let tag : Dword := BitVec.ofNat 64 (leAt bs 8 8)
  let code := patchAckCode s.fabric.halted (noImage s) ((s.image.cfg.map ImageCfg.b).getD 0) bs
  if code ≠ 0 then (if answer then patchAnswer port tag { b with ack := code } s else s)
  else
    match s.image.cfg with
    | none => s
    | some c =>
      if b.op = 1 then acceptRows c port bs answer s
      else if b.op = 2 then acceptSeal port bs answer s
      else if b.op = 3 then acceptArm port bs s
      else if b.op = 4 then acceptDisarm port bs s
      else if b.op = 5 then acceptLoad c port bs s
      else acceptRetire port bs s

end Sys2Proof.Machine
end

