-- ==== Sys2Proof/Machine/BlackBoxOps.lean ====
section
/-!
DEFINITION. The black box at its registers (14_faults.md, R293 to R295): record bytes, BB_CTL, BB_MARK and MG_BB_SEL.
-/

namespace Sys2Proof.Machine

/-- Bytes 0 to 27 of a record (Table 14.6). -/
def bbBody (r : BbRec) : List Byte :=
  leBytes 8 r.tide.toNat ++ leBytes 4 r.recno.toNat ++ leBytes 1 r.kind ++ leBytes 1 r.unitType ++ leBytes 2 r.unit ++
  leBytes 4 r.seq.toNat ++ leBytes 4 r.arg0.toNat ++ leBytes 4 r.arg1.toNat

/-- The CRC of a record; that of a torn record fails (R293) (DESIGN CHOICE, log entry 7). -/
def bbCrc (r : BbRec) : Word :=
  if r.torn then crc32c (bbBody r) ^^^ (Config.tornCrc r.recno.toNat ||| 1#32) else crc32c (bbBody r)

/-- The 32 bytes of a record (Table 14.6). -/
def bbBytes (r : BbRec) : List Byte := bbBody r ++ leBytes 4 (bbCrc r).toNat

/-- REARM clears FROZEN, POSTING, TRIG_KIND and LOST, keeps every record and resumes recording (R294). -/
def bbRearm (b : BlackBox) : BlackBox := { b with frozen := false, posting := false, postLeft := 0, trigKind := 0, lost := 0 }

/-- A write of BB_CTL: POST and TRIG, then REARM, then FREEZE (DEDUCED, log entry 18). -/
def writeBbCtl (value : Word) (s : State) : State :=
  let v := value.toNat
  let s1 := s.updBb fun b => { b with post := bitsOf v 25 13, trig := bitsOf v 3 0 }
  let s2 := if bitOf v 31 then s1.updBb bbRearm else s1
  if bitOf v 30 then bbRecord 0x41 0 0 noSeq 0 0 s2 else s2

/-- A register write on the port named: the chip port, or the management port. -/
def portWrite (mg : Bool) (eff : State → State) (s : State) : State := if mg then mgWrite eff s else chipWrite eff s

/-- REARM: a write of BB_CTL with REARM = 1 (R294). -/
def execRearm (mg : Bool) (value : Word) (s : State) : Host.Outcome State Fault Refusal := .next (portWrite mg (writeBbCtl value) s)

/-- FREEZE: a write of BB_CTL with FREEZE = 1 (R294). -/
def execFreeze (mg : Bool) (value : Word) (s : State) : Host.Outcome State Fault Refusal := .next (portWrite mg (writeBbCtl value) s)

/-- A write of BB_MARK writes a SW_MARK record (R292). -/
def swMark (value : Word) (s : State) : State := bbRecord 0x42 0 0 noSeq value 0 s

/-- SW_MARK. -/
def execSwMark (value : Word) (s : State) : Host.Outcome State Fault Refusal := .next (chipWrite (swMark value) s)

/-- MG_BB_WORD for index `i`: the record's words, zeros at or above RETAINED (R295). -/
def bbLatch (b : BlackBox) (i : Nat) : List Word :=
  match b.ring[i]? with
  | some r => (List.range 8).map fun w => word (leAt (bbBytes r) (4 * w) 4)
  | none => List.replicate 8 0

/-- A write of MG_BB_SEL latches the record it names (R295). -/
def bbSelect (value : Word) (s : State) : State :=
  s.updBb fun b => { b with sel := bitsOf value.toNat 12 0, words := bbLatch b (bitsOf value.toNat 12 0) }

/-- MG_BB_SEL. -/
def execMgBbSel (value : Word) (s : State) : Host.Outcome State Fault Refusal := .next (mgWrite (bbSelect value) s)

end Sys2Proof.Machine
end

