-- ==== Sys2Proof/Machine/McastOps.lean ====
section
/-!
DEFINITION. Multicast at its source (13_reach_fabric.md R276): forwarding the ROWS and SEAL packets of the switch ports, and their answers.
-/

namespace Sys2Proof.Machine

/-- The group this engine is the source of: the lowest with SOURCE = 1, none for an engine with no address (R261, R276). -/
def sourceGroup (s : State) : Option Nat :=
  if s.reach.addr.isNone then none
  else (List.range s.reach.groups.length).find? fun g => (s.reach.groups.getD g mcastReset).source

/-- The links of a group's DOWN set. -/
def downLinks (g : McastSt) : List Nat := (List.range 8).filter (bitOf g.down)

/-- A packet in segments of an MCAST flit: 244 payload bytes less the group (Table 13.3) (DEDUCED, log entry 108). -/
def segments (bs : List Byte) : List (List Byte) := (List.range (ceilDiv bs.length 242)).map fun i => (bs.drop (242 * i)).take 242

/-- MCAST flits of a group waiting on a link. -/
def mcastWaiting (g : Nat) (k : LinkSt) : Nat := (k.queue.filter fun f => match f with | .mcast h _ => h == g | _ => false).length

/-- The most MCAST flits that wait on a DOWN link of the source's group. -/
def mcastBacklog (s : State) : Nat :=
  match sourceGroup s with
  | some g => ((downLinks (s.reach.groups.getD g mcastReset)).map fun l => mcastWaiting g (linkAt s l)).foldl max 0
  | none => 0

/-- Whether the first of the packets to answer has left: what waits belongs to the packets after it. -/
def firstLeft (s : State) (rest : List McastAck) : Bool := decide (mcastBacklog s ≤ (rest.map McastAck.flits).sum)

/-- Answer the packets that have left on every DOWN link. `n` bounds them (DEDUCED, log entry 108). -/
def answerMcast : Nat → State → State
  | 0, s => s
  | n + 1, s =>
    match s.reach.mcastAcks with
    | a :: rest =>
      if firstLeft s rest then
        answerMcast n (patchAnswer a.port a.tag (if s.fabric.halted then noImageBlock a.block else a.block)
          (s.updReach fun r => { r with mcastAcks := rest }))
      else s
    | [] => s

/-- Flits of a forwarding group that have still to leave on its slowest DOWN link. -/
def groupBacklog (s : State) (g : Nat) : Nat :=
  ((downLinks (s.reach.groups.getD g mcastReset)).map fun l => mcastWaiting g (linkAt s l)).foldl max 0

/-- The VC3 credits of the flits whose copies have left on every DOWN link return on the group's UP_LINK (R277) (DEDUCED, log entry 108). -/
def returnMcast (s : State) (g : Nat) : State :=
  let x := s.reach.groups.getD g mcastReset
  let b := groupBacklog s g
  if b < x.holding then
    let t := s.updReach fun r => { r with groups := r.groups.modify g fun y => { y with holding := b } }
    if linkOpen s x.upLink then sendIdle x.upLink false (updLink x.upLink (fun k => { k with owed := k.owed.modify 3 (· + (x.holding - b)) }) t)
    else t
  else s

/-- Answer what can be answered, and return the credits of what has gone on. -/
def settleMcast (s : State) : State :=
  regrant ((List.range s.reach.groups.length).foldl returnMcast (answerMcast s.reach.mcastAcks.length s))

/-- A segment goes to every DOWN link of a group. -/
def sendCopies (g : Nat) (seg : List Byte) (s : State) : State :=
  (downLinks (s.reach.groups.getD g mcastReset)).foldl (fun t l => sendCopy l (.mcast g seg) t) s

/-- The source forwards a packet on every DOWN link. -/
def forwardPacket (g : Nat) (bs : List Byte) (s : State) : State := (segments bs).foldl (fun t seg => sendCopies g seg t) s

/-- Copies of a group that a closed link still keeps when it is taken out of DOWN leave with it (DESIGN CHOICE, log entry 160). -/
def dropCopies (g l : Nat) (s : State) : State :=
  if linkOpen s l then s
  else updLink l (fun k => { k with queue := k.queue.filter fun f => match f with | .mcast h _ => h != g | _ => true }) s

/-- A PATCH packet that a switch port delivers: a source forwards ROWS and SEAL, and applies them itself where JOIN is 1 (R276). A halted
engine answers it (R287). With JOIN 1 the copies keep no ingress space (DESIGN CHOICE, log entry 171). -/
def patchDelivered (port : Nat) (bs : List Byte) (s : State) : State :=
  let b := patchBlock bs
  match sourceGroup s with
  | none => patchArrives port bs true s
  | some g =>
    if (b.op = 1 ∨ b.op = 2) ∧ !s.fabric.halted then
      let s1 := forwardPacket g bs s
      if (s.reach.groups.getD g mcastReset).join then patchArrives port bs true s1
      else
        settleMcast (s1.updReach fun r =>
          { r with mcastAcks := r.mcastAcks ++ [⟨port, BitVec.ofNat 64 (leAt bs 8 8), b, (segments bs).length, units bs.length⟩] })
    else patchArrives port bs true s

end Sys2Proof.Machine
end

