-- ==== Sys2Proof/Machine/ContextOps.lean ====
section
/-!
DEFINITION. Context operations and their order against sheets (10_contexts_and_packets.md R191 to R203), and the arrival of packets
(R186 to R188, R208; 12_determinism.md R248; 16_image.md R328).
-/

namespace Sys2Proof.Machine

/-! ### The context store -/

/-- A context; one that is not listed is FREE (R191). -/
def ctxAt (s : State) (c : Nat) : Ctx := spGet ctxFree s.pipe.ctxs c

/-- Write a context. -/
def putCtx (c : Nat) (x : Ctx) (s : State) : State := s.updPipe fun p => { p with ctxs := spSet ctxFree p.ctxs c x }

/-- A sheet names a context (R14, R196). -/
def sheetNames (x : Sheet) (c : Nat) : Bool := x.rows.any fun r => rowCtx r.bytes == c

/-- Rows of a sheet that name a context (DEDUCED, log entry 26). -/
def rowsNaming (x : Sheet) (c : Nat) : Nat := (x.rows.filter fun r => rowCtx r.bytes == c).length

/-- Sheets that have arrived and not committed, in their order. -/
def uncommitted (s : State) : List Sheet := s.pipe.flight ++ s.pipe.waiting

/-- A sheet ordered before `o` that names `c` has not committed. -/
def sheetBefore (s : State) (o c : Nat) : Bool := (uncommitted s).any fun x => decide (x.order < o) && sheetNames x c

/-! ### Cancellation (R201) -/

/-- A closing context may be freed: no earlier sheet naming it is uncommitted, every READ ordered before the CANCEL has been taken, and
the CTX_ACK fits the egress buffer (R196, R201, R208) (DEDUCED, log entry 27). -/
def closingReady (s : State) (x : Closing) : Bool :=
  !sheetBefore s x.order x.ctx &&
  !(s.pipe.ops.any fun o => decide (o.order < x.order) && ctxNum o.bytes == x.ctx && ctxOp o.bytes == 3) && egressFits 128 s

/-- Free a closing context and answer its CANCEL (R201). A context that an image application has already freed, or that has been
opened again since, is left as it is (DEDUCED, log entry 27). -/
def freeClosing (x : Closing) (s : State) : State :=
  let s1 := if (ctxAt s x.ctx).phase = .closing then putCtx x.ctx ctxFree s else s
  let s2 := (s1.updPipe fun p => { p with closings := p.closings.erase x }).updCb fun c =>
    { c with cancelRows := satAdd 0xFFFF c.cancelRows x.dropped }
  settleAdapters (produce x.port x.tag 0 0 (.ctxAck x.ctx 5 0 0 0 0 0 x.dropped 0 none) s2)

/-- Free every closing context whose moment has come. -/
def settleClosings (s : State) : State :=
  s.pipe.closings.foldl (fun t x => if closingReady t x then freeClosing x t else t) s

/-- A CANCEL of an OPEN context takes effect: the context becomes CLOSING, and it is freed at once where no earlier sheet names it (R201)
(DEDUCED, log entries 25 and 26). -/
def cancelNow (port : Nat) (tag : Dword) (order c : Nat) (s : State) : State :=
  let dropped := (((uncommitted s).filter fun x => decide (x.order < order)).map fun x => rowsNaming x c).sum
  settleClosings ((putCtx c { ctxAt s c with phase := .closing } s).updPipe fun p =>
    { p with closings := p.closings ++ [⟨order, port, tag, c, dropped⟩] })

/-! ### Taking effect (R194 to R196, R202) -/

/-- NO_IMAGE for a CTX packet: no image is applied, or the engine is halted and the operation is no READ (R195, R287) (DEDUCED, log
entry 29). -/
def ctxNoImage (s : State) (op : Nat) : Bool := if s.fabric.halted then op != 3 else s.image.cfg.isNone

/-- V of the image. -/
def vocabOf (s : State) : Nat := match s.image.cfg with | some c => c.vocab | none => 0

/-- The checks of R195 that come before the state: NO_IMAGE, BAD_COUNTS, BAD_FIELD of the block; 0 where none fails (DEDUCED, log entry 23). -/
def ctxBlockCode (s : State) (bs : List Byte) : Nat :=
  if ctxNoImage s (ctxOp bs) then 4 else if ctxCountsBad bs then 3 else if !ctxBlockOk bs then 2 else 0

/-- Re-pin a context to the current version of its adapter (R203). -/
def rePin (s : State) (c : Ctx) : Ctx := { c with pin := pinFor s c.adapter }

/-- The context that an OPEN, SET or IMPORT would leave, before its pin (R194, R195). -/
def ctxAfter (old : Ctx) (bs : List Byte) : Ctx :=
  if ctxOp bs = 1 then openCtx (ctxBody bs) (ctxNBias bs) (ctxNCount bs) (ctxNHist bs)
  else if ctxOp bs = 2 then setCtx old (ctxMask bs) (ctxBody bs) (ctxNBias bs) (ctxNCount bs) (ctxNHist bs)
  else importCtx (ctxBody bs)

/-- BAD_FIELD for the checks on the body (R195). A SET ignores the parts of the body whose groups are not selected (R194) (DEDUCED, log
entry 24). -/
def ctxBodyOk (vocab : Nat) (old : Ctx) (bs : List Byte) : Bool :=
  (if ctxOp bs = 1 then paramReservedOk (ctxBody bs) else if ctxOp bs = 4 then importReservedOk (ctxBody bs) else true) &&
  ctxOk vocab (ctxAfter old bs)

/-- The ack code of an OPEN, SET or IMPORT in the order of R195 (DEDUCED, log entry 23). -/
def ctxWriteCode (s : State) (bs : List Byte) : Nat :=
  let old := ctxAt s (ctxNum bs)
  let code := ctxBlockCode s bs
  if code ≠ 0 then code
  else if old.phase ≠ (if ctxOp bs = 2 then .opened else .free) then 1
  else if !ctxBodyOk (vocabOf s) old bs then 2
  else 0

/-- Count an operation answered with a code other than OK (R195). -/
def countAckErr (code : Nat) (s : State) : State :=
  if code = 0 then s else s.updCb fun c => { c with ackErr := satAdd 0xFF c.ackErr 1 }

/-- The epoch a CTX_ACK reports: that of the context after the operation, 0 for a number that names none. -/
def ackEpoch (s : State) (bs : List Byte) : Dword := if ctxNum bs ≤ 511 then (ctxAt s (ctxNum bs)).epoch else 0

/-- An OPEN, SET or IMPORT takes effect (R194, R195, R203). -/
def writeEffect (port : Nat) (bs : List Byte) (s : State) : State :=
  let code := ctxWriteCode s bs
  let n := ctxAfter (ctxAt s (ctxNum bs)) bs
  let s1 :=
    if code ≠ 0 then s
    else settleAdapters (putCtx (ctxNum bs) (if ctxOp bs = 2 ∧ !bitOf (ctxMask bs) 4 then n else rePin s n) s)
  countAckErr code (ctxAnswer port bs code 0 (ackEpoch s1 bs) none s1)

/-- A READ takes effect: the whole context, of any state (R195) (DEDUCED, log entry 29). A refused READ is answered with the block alone (DESIGN
CHOICE, log entry 178). -/
def readEffect (port : Nat) (bs : List Byte) (s : State) : State :=
  let code := ctxBlockCode s bs
  let copy := if code = 0 then some (ctxAt s (ctxNum bs)) else none
  countAckErr code (ctxAnswer port bs code 0 (ackEpoch s bs) copy s)

/-- A CANCEL that waited takes effect (R201, R202). -/
def cancelEffect (o : CtxWait) (s : State) : State :=
  let code := ctxBlockCode s o.bytes
  if code = 0 ∧ (ctxAt s (ctxNum o.bytes)).phase = .opened then cancelNow o.port o.tag o.order (ctxNum o.bytes) s
  else
    let code := if code = 0 then 1 else code
    countAckErr code (ctxAnswer o.port o.bytes code 0 (ackEpoch s o.bytes) none s)

/-- A waiting operation takes effect. -/
def opEffect (o : CtxWait) (s : State) : State :=
  let s1 := s.updPipe fun p => { p with ops := p.ops.erase o }
  let s2 :=
    if ctxOp o.bytes = 3 then readEffect o.port o.bytes s1
    else if ctxOp o.bytes = 5 then cancelEffect o s1
    else writeEffect o.port o.bytes s1
  regrant (settleClosings s2)

/-- Bytes of an operation's CTX_ACK: that of a READ which is not refused carries the context. -/
def opAckLen (s : State) (o : CtxWait) : Nat := if ctxOp o.bytes = 3 ∧ ctxBlockCode s o.bytes = 0 then 128 + 98304 else 128

/-- The moment of an operation has come: operations on one context in their order, after the earlier sheets that name it, and after the
context is freed where it is CLOSING (R196, R202); its CTX_ACK fits (R208). From phase 2 of an image application on none takes effect until
it ends (R328). -/
def opReady (s : State) (o : CtxWait) : Bool :=
  let c := ctxNum o.bytes
  decide (s.image.phase ≤ 1) && egressFits (opAckLen s o) s &&
  (decide (511 < c) ||
    (!(s.pipe.ops.any fun x => decide (x.order < o.order) && ctxNum x.bytes == c) &&
     (if ctxOp o.bytes = 3 then !sheetBefore s o.order c
      else (ctxAt s c).phase != .closing && (ctxOp o.bytes == 5 || !sheetBefore s o.order c))))

/-- CTX_OP_EFFECT: the waiting operation numbered `idx`. -/
def execCtxOpEffect (idx : Nat) (s : State) : Host.Outcome State Fault Refusal :=
  match s.pipe.ops[idx]? with
  | some o => when' (s.power.logicOn && opReady s o) (opEffect o s) s
  | none => .next s

/-! ### Arrival (R12, R186 to R188, R201, R328) -/

/-- A context before any row is checked against it. -/
def rowWaiting (bs : List Byte) : Row :=
  { bytes := bs, slot0 := 0, nslots := 0, bufRow := none, fail := ⟨false, false, false, false, false⟩, mask := none
    dom := none, domFirst := none, rms := f32Zero, slots := []
    snap := ctxFree, phase := .running, walk := selStart, list := [], extra := false
    capped := false, dup := false, result := none, tokens := [], steps := 0, rerun := [], issue := 0 }

/-- A sheet as it stands in stage 1. -/
def sheetWaiting (seq order port : Nat) (bs : List Byte) (rows : List (List Byte)) : Sheet :=
  { seq := seq, order := order, port := port, tag := pktTag bs, bytes := bs, rows := rows.map rowWaiting, stage := 1, gen := 0
    live := 0, ovfBase := (0, 0), groups := [], retried := [], seen := [], fetch := [], issues := 1, parentLink := none, slotsDue := 0, upAt := [], progressAt := 0 }

/-- The next arrival order. -/
def takeOrder (s : State) : State := s.updPorts fun p => { p with order := p.order + 1 }

/-- A step packet takes its place in sheet order, with the next SEQ (R12, R204). -/
def arriveStep (port : Nat) (bs : List Byte) (rows : List (List Byte)) (s : State) : State :=
  (takeOrder s).updPipe fun p =>
    { p with waiting := p.waiting ++ [sheetWaiting p.nextSeq s.ports.order port bs rows], nextSeq := p.nextSeq + 1 }

/-- A CTX packet takes its place in order; a CANCEL of an OPEN context takes effect at once (R196, R201) (DEDUCED, log entry 25). -/
def arriveCtx (port : Nat) (bs : List Byte) (s : State) : State :=
  let s1 := takeOrder s
  if ctxOp bs = 5 ∧ ctxBlockCode s bs = 0 ∧ (ctxAt s (ctxNum bs)).phase = .opened then
    cancelNow port (pktTag bs) s.ports.order (ctxNum bs) s1
  else s1.updPipe fun p => { p with ops := p.ops ++ [⟨s.ports.order, port, pktTag bs, bs⟩] }

/-- A packet that passed its framing takes its effect or its place (R186) (DEDUCED, log entry 20). -/
def deliver (port : Nat) (bs : List Byte) (s : State) : State :=
  match classifyPkt bs with
  | .stepPkt rows => arriveStep port bs rows s
  | .ctxPkt => arriveCtx port bs s
  | .patchPkt => patchDelivered port bs s
  | _ => s

/-- Count a packet handled under R188. -/
def countMalformed (s : State) : State := s.updCb fun c => { c with malformed := satAdd 0xFF c.malformed 1 }

/-- An image is being applied: packets wait in arrival order until it ends (R328). -/
def imageBusy (s : State) : Bool := s.image.phase != 0

/-- A packet completes arrival (R186 to R188). -/
def packetArrives (port : Nat) (bs : List Byte) (s : State) : State :=
  match classifyPkt bs with
  | .malformedStep => countMalformed (produce port (pktTag bs) 0 1 (.result []) s)
  | .malformed => countMalformed (produce port (pktTag bs) 0 1 .reject s)
  | .unknown => countMalformed (produce port (pktTag bs) 0 2 .reject s)
  | _ => if imageBusy s then s.updPorts fun p => { p with held := p.held ++ [(port, bs)] } else deliver port bs s

/-- The port can carry the packet: the engine is up, PORT_RST is low, and the host chip holds the credits (R20, R208, R333) (DEDUCED,
log entry 21). -/
def canArrive (port : Nat) (bs : List Byte) (s : State) : Bool :=
  let p := portAt s.ports port
  s.power.logicOn && s.power.ready && !p.rst && decide (0 < bs.length) && decide (units bs.length ≤ p.credit)

/-- A packet completes arrival against its credits, and the space it does not hold is granted again (R208) (DEDUCED, log entry 21). -/
def arrive (port : Nat) (bs : List Byte) (s : State) : State :=
  regrant (packetArrives port bs (updPort port (fun p => { p with credit := p.credit - units bs.length }) s))

/-- The outcome of a packet's completed arrival. -/
def arrival (port : Fin 2) (bs : List Byte) (s : State) : Host.Outcome State Fault Refusal :=
  when' (canArrive port.val bs s) (arrive port.val bs s) s

/-- STEP (R12, R188). -/
def execStep (port : Fin 2) (bs : List Byte) (s : State) : Host.Outcome State Fault Refusal := arrival port bs s
/-- UNKNOWN_TYPE (R186). -/
def execUnknownType (port : Fin 2) (bs : List Byte) (s : State) : Host.Outcome State Fault Refusal := arrival port bs s
/-- OPEN (R194, R196). -/
def execCtxOpen (port : Fin 2) (bs : List Byte) (s : State) : Host.Outcome State Fault Refusal := arrival port bs s
/-- SET (R194, R196). -/
def execCtxSet (port : Fin 2) (bs : List Byte) (s : State) : Host.Outcome State Fault Refusal := arrival port bs s
/-- READ (R196). -/
def execCtxRead (port : Fin 2) (bs : List Byte) (s : State) : Host.Outcome State Fault Refusal := arrival port bs s
/-- IMPORT (R195, R196). -/
def execCtxImport (port : Fin 2) (bs : List Byte) (s : State) : Host.Outcome State Fault Refusal := arrival port bs s
/-- CANCEL (R201). -/
def execCtxCancel (port : Fin 2) (bs : List Byte) (s : State) : Host.Outcome State Fault Refusal := arrival port bs s
/-- ROWS (R211 to R214). -/
def execRows (port : Fin 2) (bs : List Byte) (s : State) : Host.Outcome State Fault Refusal := arrival port bs s
/-- SEAL (R216). -/
def execSeal (port : Fin 2) (bs : List Byte) (s : State) : Host.Outcome State Fault Refusal := arrival port bs s
/-- ARM (R218). -/
def execArm (port : Fin 2) (bs : List Byte) (s : State) : Host.Outcome State Fault Refusal := arrival port bs s
/-- DISARM (R218, R222, R225). -/
def execDisarm (port : Fin 2) (bs : List Byte) (s : State) : Host.Outcome State Fault Refusal := arrival port bs s
/-- ADAPTER_LOAD (R227, R270). -/
def execAdapterLoad (port : Fin 2) (bs : List Byte) (s : State) : Host.Outcome State Fault Refusal := arrival port bs s
/-- ADAPTER_RETIRE (R229). -/
def execAdapterRetire (port : Fin 2) (bs : List Byte) (s : State) : Host.Outcome State Fault Refusal := arrival port bs s

/-- OUTBOUND_SEND: the port's first packet leaves; the space it held lets closing contexts be answered (R20, R208). -/
def execOutboundSend (port : Fin 2) (s : State) : Host.Outcome State Fault Refusal :=
  match sendFirst port.val s with
  | some t => .next (settleClosings t)
  | none => .next s

end Sys2Proof.Machine
end

