-- ==== Sys2Proof/Machine/SheetOps.lean ====
section
/-!
DEFINITION. Sheets in stages 2 to 4: admission and conditioning (R353, R51 to R55), context and parameter checks, grader lists and watched
tokens (R14, R15, R91 to R101, R115, R137, R147 to R149, R156, R178, R197, R203, R321), and the start of scoring (R16, R65, R81, R83, R87).
-/

namespace Sys2Proof.Machine

/-! ### Sheets in flight -/

/-- The sheet in flight with a SEQ. -/
def flightSheet (s : State) (seq : Nat) : Option Sheet := s.pipe.flight.find? fun x => x.seq == seq

/-- Change the sheet in flight with a SEQ. -/
def updSheet (seq : Nat) (f : Sheet → Sheet) (s : State) : State :=
  s.updPipe fun p => { p with flight := p.flight.map fun x => if x.seq = seq then f x else x }

/-- Change a row of a sheet. -/
def Sheet.updRow (i : Nat) (f : Row → Row) (x : Sheet) : Sheet := { x with rows := x.rows.modify i f }

/-- Change a slot of a row. -/
def Row.updSlot (p : Nat) (f : Slot → Slot) (r : Row) : Row := { r with slots := r.slots.modify p f }

/-- The row and position of a sheet's slot (R146). -/
def Sheet.slotAt (x : Sheet) (slot : Nat) : Option (Nat × Nat) :=
  ((List.range x.rows.length).find? fun i =>
    match x.rows[i]? with
    | some r => decide (r.slot0 ≤ slot) && decide (slot < r.slot0 + r.nslots)
    | none => false).bind fun i => (x.rows[i]?).map fun r => (i, slot - r.slot0)

/-- The generation a sheet has latched (R182). -/
def sheetGen (s : State) (x : Sheet) : FnGen := genOf (if x.gen = 0 then s.fn.buf0 else s.fn.buf1)

/-- The compatibility setting in force is Vell. -/
def vellOn (s : State) : Bool := match s.image.cfg with | some c => c.vell | none => false

/-- The special functions of a sheet. -/
def sheetSfu (s : State) (x : Sheet) : Sfu := ⟨fnExp2 (sheetGen s x) (vellOn s), fnLog2 (sheetGen s x) (vellOn s)⟩

/-- The mode code of a row, local or opened by a parent. -/
def Row.modeCode (r : Row) : Nat := match r.dom with | some c => c.mode | none => rowModeCode r.bytes

/-- The row stores its scores for later passes: LEDGER, or SCORE with GRAD (R81, R160). -/
def Row.buffered (r : Row) : Bool := r.bufRow.isSome

/-- A LEDGER row. -/
def Row.ledger (r : Row) : Bool := r.modeCode == 2
/-- A VERIFY row. -/
def Row.verify (r : Row) : Bool := r.modeCode == 3
/-- A SCORE row. -/
def Row.score (r : Row) : Bool := r.modeCode == 4
/-- A GRAD row. -/
def Row.grad (r : Row) : Bool := match r.dom with | some c => c.mode == 4 && c.bufRow.isSome | none => isGrad r.bytes
/-- TARGET of a SCORE row. -/
def Row.targetTok (r : Row) : Nat := match r.dom with | some c => c.target | none => rowTarget r.bytes
/-- CV of a SCORE row. -/
def Row.cv (r : Row) : F32 := match r.dom with | some c => c.cv | none => rowCv r.bytes
/-- The adapter version the row's context pins (R203). -/
def Row.pin (r : Row) : Nat := match r.dom with | some c => c.adapter | none => r.snap.pin

/-- Whether any failure condition has been found. -/
def FailFlags.any (f : FailFlags) : Bool := f.poisoned || f.aborted || f.partnerLost || f.overflow || f.adapter

/-- A row completes with a failure: nothing more is computed for it. -/
def Row.failWith (f : FailFlags → FailFlags) (r : Row) : Row := { r with fail := f r.fail, phase := .done }

/-- INPUT_POISONED. -/
def Row.poison (r : Row) : Row := r.failWith fun f => { f with poisoned := true }

/-- The neutral control word. -/
def ctlStart : PassCtl :=
  { pass := 0, useR := false, kw := 1, theta := f32NegInf, resume := none, level := 2, ref := none, hist := false, strict := false
    fromBuffer := false, first := true }

/-- A slot before its lists are built. -/
def slotStart (brine : List IntBlock) : Slot :=
  { brine := brine, params := gradeNeutral, grader := [], remote := [], watch := [], zBlocks := none, ctl := ctlStart, redo := none
    leaves := [], nodes := [], head := none, headFirst := none, grads := [], gradSent := [], gradUp := [], dy := [], due := []
    awaits := ⟨false, false, false⟩ }

/-! ### Where a position stands -/

/-- A position's progress on a slot's pass before its first batch. -/
def leafStart (c : PassCtl) (redone : Bool) : LeafRow := ⟨0, [], statsEmpty c.level c.ref.isSome c.hist, [], [], false, redone⟩

/-- A position's progress on a slot's pass. -/
def Slot.leafAt (sl : Slot) (l : Nat) : LeafRow :=
  match sl.leaves.find? fun q => q.1 == l with
  | some q => q.2
  | none => leafStart (sl.redo.getD sl.ctl) false

/-- The control settings under which a position works on a slot: those of the first pass while a rerun grades it again (R143). -/
def Slot.ctlAt (sl : Slot) (l : Nat) : PassCtl :=
  match sl.redo with
  | some c => if (sl.leafAt l).redone then sl.ctl else c
  | none => sl.ctl

/-- Write a position's progress. -/
def Slot.putLeaf (sl : Slot) (l : Nat) (x : LeafRow) : Slot := { sl with leaves := (l, x) :: sl.leaves.filter fun q => q.1 != l }

/-- A composite to which nothing has come. -/
def nodeStart : NodeRow := ⟨[], [], [], [], false, false⟩

/-- A composite's progress on a slot's pass. -/
def Slot.nodeAt (sl : Slot) (n : Nat) : NodeRow := match sl.nodes.find? fun q => q.1 == n with | some q => q.2 | none => nodeStart

/-- Write a composite's progress. -/
def Slot.putNode (sl : Slot) (n : Nat) (x : NodeRow) : Slot := { sl with nodes := (n, x) :: sl.nodes.filter fun q => q.1 != n }

/-- A child's place in an order of arrival is that of its first record. -/
def joinOrder (k : Nat) (ks : List Nat) : List Nat := if ks.contains k then ks else ks ++ [k]

/-- The statistics of child `k`, and its value sum, have come to a composite (R237). -/
def NodeRow.came (k : Nat) (stats value : Bool) (x : NodeRow) : NodeRow :=
  { x with
    statsOrder := if stats then joinOrder k x.statsOrder else x.statsOrder
    valueOrder := if value then joinOrder k x.valueOrder else x.valueOrder }

/-- What has come of child `k` is dropped. -/
def NodeRow.forget (k : Nat) (x : NodeRow) : NodeRow :=
  { x with statsOrder := x.statsOrder.filter (· != k), valueOrder := x.valueOrder.filter (· != k) }

/-- A child's output reaches a composite. -/
def Slot.arriveAt (n k : Nat) (o : ChildOut) (sl : Slot) : Slot :=
  let x := (sl.nodeAt n).came k true true
  sl.putNode n { x with arrived := x.arrived ++ [(k, o)] }

/-- Chunks a position has sent for a slot in the backward pass. -/
def chunksSent (sl : Slot) (l : Nat) : Nat := (sl.gradSent.filter fun g => g.1 == l).length

/-- A sheet has begun stage 4 and not committed. -/
def scoring (x : Sheet) : Bool := x.stage == 4 || x.stage == 5

/-! ### Stage 2: admission and conditioning (R353) -/

/-- What admission has counted so far: slots, and rows that use the score buffer. -/
structure Admission where
  slots : Nat
  buffered : Nat
deriving DecidableEq, Repr

/-- Most LEDGER and GRAD rows of a sheet (R25, R160). A partition without rows divides by 1 (DEDUCED, log entry 45). -/
def bufLimit (c : ImageCfg) : Nat := 65536 / max 1 c.rmax

/-- Steps 1 to 3 of R353 for one row; `bufRow` marks a row that uses the buffer. -/
def admitRow (c : ImageCfg) (a : Admission) (r : Row) : Admission × Row :=
  if !recordOk c.h c.modes r.bytes then (a, r.poison)
  else if 256 < a.slots + recSlots r.bytes then (a, r.poison)
  else
    let a1 := { a with slots := a.slots + recSlots r.bytes }
    let r1 := { r with slot0 := a.slots, nslots := recSlots r.bytes }
    if !(r1.ledger || r1.grad) then (a1, r1)
    else if bufLimit c ≤ a.buffered then (a1, r1.poison)
    else ({ a1 with buffered := a.buffered + 1 }, { r1 with bufRow := some 0 })

/-- Admission in sheet order. -/
def admitRows (c : ImageCfg) : Admission → List Row → List Row
  | _, [] => []
  | a, r :: rs => (admitRow c a r).2 :: admitRows c (admitRow c a r).1 rs

/-- Score-buffer rows: LEDGER rows from 0, then GRAD rows (R81, R160) (DEDUCED, log entry 45). -/
def numberBuffered : Nat → Nat → List Row → List Row
  | _, _, [] => []
  | l, g, r :: rs =>
    if r.buffered then
      if r.ledger then { r with bufRow := some l } :: numberBuffered (l + 1) g rs
      else { r with bufRow := some g } :: numberBuffered l (g + 1) rs
    else r :: numberBuffered l g rs

/-- Rows admitted and numbered. -/
def admitSheet (c : ImageCfg) (rows : List Row) : List Row :=
  let rs := admitRows c ⟨0, 0⟩ rows
  numberBuffered 0 (rs.filter fun r => r.buffered && r.ledger).length rs

/-- One conditioned hidden state (R51 to R55): brine, RMS scale, clamped elements, and whether its values poison the row. -/
structure Conditioned where
  brine : List IntBlock
  rms : F32
  clamped : Nat
  bad : Bool
deriving DecidableEq, Repr

/-- Conditioning of one payload (R51 to R55). Under gain only and none there is no r, and RMS_SCALE is +0 (DEDUCED, log entry 123). -/
def conditionPayload (c : ImageCfg) (g : FnGen) (f : InFmt) (payload : List Byte) : Conditioned :=
  let a := payload.toArray
  let cls := (List.range c.h).map fun i => classify c.policy c.boundExp (inputNum f c.h (fun k => a.getD k 0) i)
  let xs := cls.map InClass.val
  let r := if c.norm = .rmsGain then rmsScale (fnRsqrt g c.vell) c.h c.eps xs else f32Zero
  let y := conditionRow c.norm r c.gain xs
  ⟨brineBlocks (c.h / 32) y, r, (cls.filter fun x => match x with | .clamped _ => true | _ => false).length,
    (cls.any fun x => x == .poison) || y.any fun v => !fIsFinite v⟩

/-- A row conditioned slot by slot (R52). -/
def conditionSlots (c : ImageCfg) (g : FnGen) (r : Row) : List Conditioned :=
  match inFmtOf (leAt r.bytes 3 1) with
  | some f => (List.range r.nslots).map fun p => conditionPayload c g f (recPayload f c.h r.bytes p)
  | none => []

/-- Put a row's conditioning into it. -/
def putConditioned (cs : List Conditioned) (r : Row) : Row :=
  let r1 := { r with slots := cs.map fun x => slotStart x.brine, rms := (cs.head?.map Conditioned.rms).getD f32Zero }
  if cs.any Conditioned.bad then r1.poison else r1

/-- A sheet's rows admitted and conditioned, with the elements clamped and the rows poisoned by their values. A halted engine reads only
the records (R287). -/
def stage2Rows (s : State) (c : ImageCfg) (g : FnGen) (rows : List Row) : List Row × Nat × Nat :=
  let adm := admitSheet c rows
  if s.fabric.halted then (adm, 0, 0)
  else
    let cs := adm.map fun r => (r, conditionSlots c g r)
    (cs.map fun p => putConditioned p.2 p.1, (cs.map fun p => (p.2.map Conditioned.clamped).sum).sum,
      (cs.filter fun p => p.2.any Conditioned.bad).length)

/-- A READY generation comes into force before the sheet latches (R183) (DEDUCED, log entry 50). -/
def bringIntoForce (s : State) : State :=
  if s.fn.phase = .ready then
    raise srcFnLoadEnd ((s.updFn fun f => { f with inForce := 1 - f.inForce, phase := .idle }).updCb fun c => { c with fnDone := c.fnDone + 1 })
  else s

/-- Stage 2 of the first waiting sheet. Without an image every row is poisoned, since no context is OPEN (R197). -/
def enterStage2 (x : Sheet) (rest : List Sheet) (s0 : State) : State :=
  let s := bringIntoForce s0
  let x1 := { x with stage := 2, gen := s.fn.inForce }
  let done : List Row × Nat × Nat :=
    match s.image.cfg with
    | some c => stage2Rows s c (sheetGen s x1) x.rows
    | none => (x.rows.map Row.poison, 0, 0)
  let s1 := s.updPipe fun p => { p with waiting := rest, flight := p.flight ++ [{ x1 with rows := done.1 }] }
  regrant (s1.updCa fun a =>
    { a with clamped := a.clamped + word done.2.1, poisoned := a.poisoned + word done.2.2 })

/-- A sheet counts among those in flight: a parent's whose work has gone up does not keep the engine's own waiting (DESIGN CHOICE, log entry
191). -/
def countsInFlight (x : Sheet) : Bool := x.parentLink.isNone || decide (x.stage ≤ 5)

/-- A sheet may leave stage 1: fewer than two are in flight, no image is being applied, the launch gate is open and the engine is ON and
not on its way to RETAIN (R13, R248, R328, R340) (DEDUCED, log entry 38). -/
def mayEnter2 (s : State) : Bool :=
  s.power.logicOn && s.power.st == .on && s.power.target != some .retain && !imageBusy s && !s.tide.gateEn &&
  decide ((s.pipe.flight.filter countsInFlight).length < 2)

/-- SHEET_ENTER_STAGE_2. -/
def execSheetEnterStage2 (s : State) : Host.Outcome State Fault Refusal :=
  match s.pipe.waiting with
  | x :: rest => when' (mayEnter2 s) (enterStage2 x rest s) s
  | [] => .next s

/-! ### Stage 3: checks against the context -/

/-- Slots per bitmap s (R99). -/
def maskSlots (c : ImageCfg) : Nat := ceilDiv c.vocab 262144

/-- Bitmaps offered (R99) (DEDUCED, log entry 48). -/
def bitmapCount (c : ImageCfg) : Nat := 1024 / max 1 (maskSlots c)

/-- A token is placed below an admitted remote child (R265). -/
def childPlaces (s : State) (k t : Nat) : Bool := childIn s k && (childSt s k).tokens.contains t

/-- A token that the engine or its merge domain places. -/
def placed (s : State) (c : ImageCfg) (t : Nat) : Bool := (c.place t).isSome || (childIdx s).any fun k => childPlaces s k t

/-- The cuts of R148 and R156 are off. -/
def cutsAreOff (c : CutParams) : Bool := !c.kOn && !c.minOn && !c.epsOn && !c.topOn

/-- Checks of a RACE or LEDGER row's selection (R115, R137, R321). -/
def selectionOk (c : ImageCfg) (x : Ctx) (ledger : Bool) : Bool :=
  x.cuts.passOk && decide (x.cuts.limit ≤ c.passCap) &&
  (!ledger || (decide (x.listLen ≤ 256) && (x.temp == f32Zero || x.cuts.anyOn)))

/-- Checks of a SCORE row (R156, R178). -/
def scoreOk (s : State) (c : ImageCfg) (x : Ctx) (r : List Byte) : Bool :=
  placed s c (rowTarget r) && (!rowHasRef r || (fIsFinite (rowRefLp r) && fLe (rowRefLp r) f32Zero)) &&
  fIsFinite (rowCl r) && fIsFinite (rowCv r) && decide (rowExportK r ≤ 256) && cutsAreOff x.cuts &&
  (fEq (rowCv r) f32Zero || decide (0 < c.vhUnits)) &&
  (!rowGrad r || (fEq x.rho f32One && x.pin == none16)) &&
  (!rowGrad r || fEq (rowCv r) f32Zero || c.actSlot == 7 || c.derivSlot != 0)

/-- Every parameter check that applies to a row of an OPEN context (R92, R93, R100, R115, R137, R148, R156, R178, R321). -/
def rowParamsOk (s : State) (c : ImageCfg) (x : Ctx) (r : List Byte) : Bool :=
  paramsOk x && x.cuts.rangesOk && !(x.bias.any fun p => badBias p.2) &&
  (x.maskRef == none16 || decide (x.maskRef < bitmapCount c)) &&
  (match rowMode r with
   | some .race => selectionOk c x false
   | some .ledger => selectionOk c x true
   | some .verify => draftOk (placed s c) (recNodes r) && cutsAreOff x.cuts
   | some .score => scoreOk s c x r
   | none => true)

/-- The pinned adapter is missing (R203). -/
def adapterMissing (s : State) (x : Ctx) : Bool :=
  x.adapter != none16 &&
  (x.pin == none16 || !((adEntry s x.pin).phase == .current || (adEntry s x.pin).phase == .retiring))

/-- R15: an earlier row names the same context, and not every row that names it is a SCORE row (DEDUCED, log entry 47). -/
def repeatsContext (rows : List Row) (i : Nat) (r : Row) : Bool :=
  let same := rows.filter fun q => rowCtx q.bytes == rowCtx r.bytes
  ((rows.take i).any fun q => rowCtx q.bytes == rowCtx r.bytes) && !(same.all fun q => rowModeCode q.bytes == 4)

/-- The vocabulary is not fully placed: a position is unplaced, or a root's domain is not FORMED (R42, R266) (DEDUCED, log entry 44). -/
def notPlacedNow (s : State) : Bool := anyUnplaced s || (role s == 1 && s.reach.dom.phase != .formed)

/-- The failure conditions that stage 3 finds for a row, on top of those of stage 2 (DEDUCED, log entry 44). -/
def stage3Fail (s : State) (c : ImageCfg) (rows : List Row) (i : Nat) (r : Row) : FailFlags :=
  let x := ctxAt s (rowCtx r.bytes)
  let isOpen := decide (rowCtx r.bytes ≤ 511) && x.phase == .opened
  { r.fail with
    poisoned := r.fail.poisoned || repeatsContext rows i r || !isOpen || !rowParamsOk s c x r.bytes
    partnerLost := notPlacedNow s
    adapter := isOpen && adapterMissing s x }

/-! ### Grader lists, watched tokens, parameters -/

/-- The counts of a context with the tokens of a path added (R149). -/
def countsWith (x : Ctx) (path : List Nat) : List (Nat × Nat) :=
  path.foldl (fun m t => spSet 0 m t (spGet 0 m t + 1)) x.counts

/-- The entries of one slot by token, for tokens that the engine or its domain places (R93, R149). -/
def graderTokens (s : State) (c : ImageCfg) (x : Ctx) (path : List Nat) : List (Nat × GraderEntry) :=
  let cs := countsWith x path
  let keys := mergeKeys (cs.length + x.bias.length) (cs.map (·.1)) (x.bias.map (·.1))
  (keys.filter (placed s c)).map fun t => (t, graderFor (countOf cs t) (biasOf x.bias t))

/-- A token's entry at its place, none for a token that the engine does not place (R93). -/
def graderPlace (c : ImageCfg) (q : Nat × GraderEntry) : Option GraderEntry :=
  (c.place q.1).map fun p => { q.2 with leaf := p.1, pos := p.2 }

/-- Ascending order of (L, j) (R93). -/
def GraderEntry.before (a b : GraderEntry) : Bool := decide (a.leaf < b.leaf) || (a.leaf == b.leaf && decide (a.pos ≤ b.pos))

/-- The grader list of one slot for the engine's own positions, in ascending order of (L, j) (R93). -/
def graderList (c : ImageCfg) (es : List (Nat × GraderEntry)) : List GraderEntry :=
  (es.filterMap (graderPlace c)).mergeSort GraderEntry.before

/-- The entries of tokens that the engine does not place, for its remote children (R93). -/
def graderRemote (c : ImageCfg) (es : List (Nat × GraderEntry)) : List (Nat × GraderEntry) := es.filter fun q => (c.place q.1).isNone

/-- Tokens on the path to a position of a VERIFY row, its own included (R149). -/
def pathTokens (ns : List DraftNode) (p : Nat) : List Nat := (pathOf ns (ns.length + 1) p).map fun i => (nodeAt ns i).tok

/-- The slot `p` of a row that passed its checks: parameters, grader list and watched tokens (R92, R93, R104, R147, R149, R157). -/
def listSlot (s : State) (c : ImageCfg) (x : Ctx) (r : Row) (p : Nat) (sl : Slot) : Slot :=
  let ns := recNodes r.bytes
  let d := if r.verify then depthOf ns p else 0
  let par := gradeParamsOf x (r.modeCode == 1 || r.verify)
  let es := graderTokens s c x (if r.verify then pathTokens ns p else [])
  { sl with
    params := { par with rngStep := par.rngStep + BitVec.ofNat 64 d }
    grader := graderList c es, remote := graderRemote c es
    watch :=
      if r.verify then (childrenOf ns p).map fun k => (nodeAt ns k).tok
      else if r.score then [rowTarget r.bytes] else [] }

/-- Entries bound for each position: those of `es` added to counts so far (R96). -/
def addEntries (counts : List (Nat × Nat)) (es : List GraderEntry) : List (Nat × Nat) :=
  es.foldl (fun m e => spSet 0 m e.leaf (spGet 0 m e.leaf + 1)) counts

/-- Build a row's lists, or poison it where they would take a position above 65,536 entries (R96). -/
def listRow (s : State) (c : ImageCfg) (counts : List (Nat × Nat)) (r : Row) : List (Nat × Nat) × Row × Nat :=
  if r.fail.any then (counts, { r with phase := .done }, 0)
  else
    let x := r.snap
    let r1 := { r with slots := r.slots.mapIdx fun p sl => listSlot s c x r p sl }
    let m := r1.slots.foldl (fun m sl => addEntries m sl.grader) counts
    if m.any fun p => decide (65536 < p.2) then (counts, r.poison, 1) else (m, r1, 0)

/-- Lists of a sheet's rows in sheet order: rows, admitted entries per position, rows poisoned under R96. -/
def listRows (s : State) (c : ImageCfg) : List (Nat × Nat) → List Row → List Row × List (Nat × Nat) × Nat
  | m, [] => ([], m, 0)
  | m, r :: rs =>
    let a := listRow s c m r
    let b := listRows s c a.1 rs
    (a.2.1 :: b.1, b.2.1, a.2.2 + b.2.2)

/-- The rows of a sheet at stage 3: the committed context, the checks and the mask latch (R14, R101, R197). -/
def checkRows (s : State) (c : ImageCfg) (rows : List Row) : List Row :=
  rows.mapIdx fun i r =>
    let x := ctxAt s (rowCtx r.bytes)
    { r with
      fail := stage3Fail s c rows i r, snap := x
      mask := if x.maskRef = none16 then none else some (spGet [] s.masks.zeros x.maskRef) }

/-- The largest entry count of any position. -/
def peakOf (m : List (Nat × Nat)) : Nat := m.foldl (fun a p => max a p.2) 0

/-- Without an image every context is FREE, so a row that passed its record checks is poisoned; a halted engine has every position
unplaced besides (R42, R197, R287). -/
def checkNoImage (s : State) (r : Row) : Row :=
  r.failWith fun f => { f with poisoned := true, partnerLost := f.partnerLost || notPlacedNow s }

/-- A sheet enters stage 3. -/
def enterStage3 (x : Sheet) (s : State) : State :=
  let base := (windowBase s 0, windowBase s 1)
  match s.image.cfg with
  | none => updSheet x.seq (fun y => { y with stage := 3, ovfBase := base, rows := x.rows.map (checkNoImage s) }) s
  | some c =>
    let ls := listRows s c [] (checkRows s c x.rows)
    (updSheet x.seq (fun y => { y with stage := 3, ovfBase := base, rows := ls.1 }) s).updCa fun a =>
      { a with graderOvf := a.graderOvf + word ls.2.2, graderPeak := max a.graderPeak (peakOf ls.2.1) }

/-- A flip holds sheets at stage 3: it is about to be decided, about to fire, or its window is about to open or open
(R16, R219, R220, R225) (DEDUCED, log entry 35). -/
def flipHolds (s : State) : Bool :=
  (firingStep s).isSome || s.weights.flip == .window || decisionDue s ||
  (isSingle s && s.weights.flip == .armed && decide (s.weights.flipTide ≤ s.tide.count))

/-- The contexts a sheet names. -/
def Sheet.ctxs (x : Sheet) : List Nat := (x.rows.map fun r => rowCtx r.bytes).filter fun c => decide (c ≤ 511)

/-- Sheets of the flight before one. -/
def before (s : State) (x : Sheet) : List Sheet := s.pipe.flight.takeWhile fun y => y.seq != x.seq

/-- A waiting operation ordered before the sheet still has to change one of its contexts (R196). -/
def opsBefore (s : State) (x : Sheet) : Bool :=
  s.pipe.ops.any fun o => decide (o.order < x.order) && ctxOp o.bytes != 3 && x.ctxs.contains (ctxNum o.bytes)

/-- A bitmap that the sheet names is being copied (R103). -/
def maskHolds (s : State) (x : Sheet) : Bool :=
  s.masks.phase == .copying && x.ctxs.any fun c => (ctxAt s c).maskRef == s.masks.bitmap

/-- A child's link drains, so no new domain sheet starts until the child has left at a boundary (Table 13.4, R266) (DEDUCED, log entry
96). -/
def childDrains (s : State) : Bool := (childIdx s).any fun k => childIn s k && (childSt s k).departing

/-- Sheets that a parent opened. -/
def memberSheets (s : State) : List Sheet := s.pipe.flight.filter fun x => x.parentLink.isSome

/-- A row whose pass is over may take another: a RACE row with cuts, a LEDGER row, or a GRAD row before its backward pass (R122, R138,
R161). Of the others one pass decides (Tables 6.3, 8.5; R150). -/
def Row.passesOn (r : Row) : Bool :=
  r.phase != .done && r.phase != .backward && (r.ledger || r.grad || (r.modeCode == 1 && r.slots.any fun sl => sl.params.noised && !sl.ctl.useR))

/-- A parent's sheet whose work has gone up is known to be over: no row of it takes another pass, or the root has gone on. It has fired a later
step, which it does at a boundary (R220), or it has started a later sheet that uses the score buffer (R81) (DESIGN CHOICE, log entry
188). -/
def sheetOver (s : State) (x : Sheet) : Bool :=
  let later := ((memberSheets s).dropWhile fun y => y.seq != x.seq).drop 1
  x.parentLink.isSome && x.stage == 6 &&
  (decide (x.live < s.weights.wLive) || (s.reach.dom.fire.any fun v => decide (x.live < v)) ||
    x.rows.all fun r => !r.passesOn || (r.buffered && later.any fun y => y.rows.any Row.buffered))

/-- A sheet is in stage 3, 4 or 5 at the root, as far as this engine knows: a parent's whose work has gone up, until it is known to be over
(R266, R273) (DESIGN CHOICE, log entry 188). -/
def domOpen (s : State) (x : Sheet) : Bool :=
  decide (3 ≤ x.stage) && (decide (x.stage ≤ 5) || (x.parentLink.isSome && !sheetOver s x))

/-- No domain sheet is in stage 3, 4 or 5 (DEDUCED, log entry 100). -/
def domBoundary (s : State) : Bool := s.pipe.flight.all fun x => !domOpen s x

/-- An admitted child waits at a boundary of the domain, the first at which it can join: no domain sheet passes it (R266) (DEDUCED, log
entry 100). -/
def childJoins (s : State) : Bool := domBoundary s && (childIdx s).any fun k => (childSt s k).joinsNext

/-- Stage 3 may begin (R14, R103) (DEDUCED, log entry 38). -/
def mayEnter3 (s : State) (x : Sheet) : Bool :=
  s.power.logicOn && !(before s x).any (fun y => y.ctxs.any x.ctxs.contains) && !opsBefore s x && !maskHolds s x && !childDrains s &&
  !childJoins s

/-- The first sheet of the engine's own at a stage. -/
def firstAt (s : State) (stage : Nat) : Option Sheet := s.pipe.flight.find? fun x => x.stage == stage && x.parentLink.isNone

/-- SHEET_ENTER_STAGE_3. -/
def execSheetEnterStage3 (s : State) : Host.Outcome State Fault Refusal :=
  match firstAt s 2 with
  | some x => when' (mayEnter3 s x) (enterStage3 x s) s
  | none => .next s

/-! ### First-pass control (Tables 6.1, 7.1; R135, R150, R157) -/

/-- The windrow length of a RACE row under its cuts (Table 6.1). -/
def raceKw (x : Ctx) : Nat := if x.temp = f32Zero then 1 else if x.cuts.anyOn then cutKw x.cuts else 1

/-- The control settings of a row's first rake pass at position `p`. -/
def firstCtl (r : Row) (p : Nat) : PassCtl :=
  let x := r.snap
  let hot := x.temp != f32Zero
  match rowMode r.bytes with
  | some .race =>
    { ctlStart with
      useR := hot && !x.cuts.anyOn, kw := raceKw x, strict := hot && (x.cuts.epsOn || x.cuts.topOn) }
  | some .ledger => { ctlStart with pass := 1, theta := f32PosInf, level := 0 }
  | some .verify =>
    { ctlStart with
      pass := depthOf (recNodes r.bytes) p, useR := hot
      kw := if hot then (childrenOf (recNodes r.bytes) p).length + 1 else 1 }
  | some .score => { ctlStart with kw := max 1 (rowExportK r.bytes) }
  | none => ctlStart

/-! ### The adapter's z (R83) -/

/-- Bytes of a row of `n` E4M3 weights at an offset of a pan's region. -/
def e4m3Row (s : State) (p off n : Nat) : Array Byte := (brineRead s p off (33 * n / 32)).toArray

/-- The dot product of A row `j` with a row's brine (R83). -/
def aDot (s : State) (c : ImageCfg) (e : AdEntry) (brine : List IntBlock) (j : Nat) : F32 :=
  let n := s.part.leaves
  let l := j % n
  let off := adapterBase + e.first * slotSize + (c.leafRows l).length * bRowBytes e.rank + j / n * aRowBytes c.h
  weightTerm .e4m3 c.h (readerOf (e4m3Row s (panOf s l) off c.h)) brine

/-- The z of a slot, rank values (DEDUCED, log entry 42). -/
def zOf (s : State) (c : ImageCfg) (e : AdEntry) (brine : List IntBlock) : List F32 := (List.range e.rank).map (aDot s c e brine)

/-- z as brine blocks, padded with zeros to whole blocks (R83). -/
def zBlocksOf (rank : Nat) (z : List F32) : List IntBlock := brineBlocks (bBlocks rank) (z ++ List.replicate (32 * bBlocks rank - z.length) f32Zero)

/-- Give a row's slots their z; a value that is not finite poisons the row (R83) (DEDUCED, log entry 42). -/
def withZ (s : State) (c : ImageCfg) (r : Row) : Row :=
  if r.phase = .done ∨ r.pin = none16 then r
  else
    let e := adEntry s r.pin
    let zs := r.slots.map fun sl => zOf s c e sl.brine
    let r1 := { r with slots := r.slots.mapIdx fun p sl => { sl with zBlocks := some (zBlocksOf e.rank (zs.getD p [])) } }
    if r.dom.isNone ∧ zs.any fun z => z.any fun v => !fIsFinite v then r1.poison else r1

/-- Offset of the last byte of a position's A rows (R83), none where it holds none of the adapter's. -/
def lastARead (s : State) (c : ImageCfg) (e : AdEntry) (l : Nat) : Option Nat :=
  if l < e.rank then
    some (adapterBase + e.first * slotSize + (c.leafRows l).length * bRowBytes e.rank + ((e.rank - 1 - l) / s.part.leaves + 1) * aRowBytes c.h - 1)
  else none

/-- The positions have read the A rows of the last row with an adapter (R282) (DEDUCED, log entry 164). -/
def noteZ (c : ImageCfg) (rows : List Row) (s : State) : State :=
  match (rows.filter fun r => r.phase != .done && r.pin != none16).getLast? with
  | some r =>
    (List.range s.part.leaves).foldl (fun t l =>
      match lastARead s c (adEntry s r.pin) l with
      | some off => noteRead (panOf s l) off t
      | none => t) s
  | none => s

/-! ### The order of a position's work (R64, R127, R162, R166) -/

/-- A position's next work on a slot: its pass in the order of issue, the sweep of a rake pass or the chunk of a backward pass, and the
slot. -/
structure Work where
  issue : Nat
  step : Nat
  slot : Nat
  backward : Bool
  fromBuffer : Bool
deriving DecidableEq, Repr

/-- Batches of one sweep: two in packed ternary (R64, R108). -/
def sweepBatches (f : WFmt) : Nat := rowsPerSweep f / 64

/-- A position still owes a slot's current pass something. -/
def slotOwes (hchunks : Nat) (r : Row) (l : Nat) (sl : Slot) : Bool :=
  match r.phase with
  | .running => !(sl.leafAt l).sent
  | .backward => decide (chunksSent sl l < hchunks)
  | _ => false

/-- Where a position stands in a slot's pass. -/
def workAt (c : ImageCfg) (r : Row) (p l : Nat) (sl : Slot) : Work :=
  ⟨r.issue, if r.phase = .backward then chunksSent sl l else (sl.leafAt l).nextBatch / sweepBatches c.wfmt, r.slot0 + p,
    r.phase == .backward, (sl.ctlAt l).fromBuffer⟩

/-- Passes run in the order of issue, sweeps and chunks in ascending order, and within each the slots in sheet order. -/
def Work.before (a b : Work) : Bool :=
  decide (a.issue < b.issue) || (a.issue == b.issue && (decide (a.step < b.step) || (a.step == b.step && decide (a.slot < b.slot))))

/-- A sheet's work at a position. -/
def worksAt (c : ImageCfg) (x : Sheet) (l : Nat) : List Work :=
  x.rows.flatMap fun r => (r.slots.zipIdx.filter fun q => slotOwes c.hchunks r l q.1).map fun q => workAt c r q.2 l q.1

/-- The work that comes first. -/
def earliest (ws : List Work) : Option Work :=
  ws.foldl (fun b w => match b with | none => some w | some v => if w.before v then some w else b) none

/-- A sheet's first work at a position (R64, R162, R166). -/
def firstWork (c : ImageCfg) (x : Sheet) (l : Nat) : Option Work := earliest (worksAt c x l)

/-- A slot's row is past the step at which the position stands. -/
def slotPast (c : ImageCfg) (l : Nat) (w : Work) (r : Row) (q : Slot × Nat) : Bool :=
  r.issue == w.issue && (r.phase == .running || r.phase == .backward) &&
  (!slotOwes c.hchunks r l q.1 || decide (w.step < (workAt c r q.2 l q.1).step) ||
    (r.phase == .running && (q.1.leafAt l).nextBatch % sweepBatches c.wfmt != 0))

/-- The position stands within a sweep of the sheet: it fetches for it, or some slots are past it. -/
def withinSweep (c : ImageCfg) (l : Nat) (x : Sheet) : Bool :=
  match firstWork c x l with
  | some w => (x.fetch.any fun q => q.1 == l) || x.rows.any fun r => r.slots.zipIdx.any (slotPast c l w r)
  | none => false

/-- The sheet that a position's array works for: one within a sweep, else the first with work, so that a pass of sheet n takes the
array at the end of the sweep that sheet n + 1 computes (R127) (DEDUCED, log entry 135). -/
def arrayTurn (c : ImageCfg) (s : State) (l : Nat) : Option Sheet :=
  let xs := s.pipe.flight.filter fun x => scoring x && (firstWork c x l).isSome
  match xs.find? (withinSweep c l) with
  | some x => some x
  | none => xs.head?

/-- The position's next work is a slot's (DEDUCED, log entry 135). -/
def takesTurn (c : ImageCfg) (s : State) (x : Sheet) (r : Row) (p l : Nat) (sl : Slot) : Bool :=
  (arrayTurn c s l).map Sheet.seq == some x.seq && firstWork c x l == some (workAt c r p l sl)

/-- Rows of a sheet take one pass together: they have the next number of issue (R139, R161, R166). -/
def issueRows (seq : Nat) (is : List Nat) (s : State) : State :=
  if is.isEmpty then s
  else updSheet seq (fun x =>
    { x with issues := x.issues + 1, rows := x.rows.mapIdx fun i r => if is.contains i then { r with issue := x.issues } else r }) s

/-! ### Overflow groups of a sweep (R87) -/

/-- Positions that hold overflow rows. -/
def ovfLeaves (s : State) (c : ImageCfg) : List Nat := (List.range s.part.leaves).filter fun l => decide (0 < c.ovfRows l)

/-- A sheet has not received a group. -/
def lacksGroup (x : Sheet) (l ch : Nat) : Bool := !x.groups.any fun g => g.1 == l && g.2.1 == ch

/-- Base of the live window for a sheet. -/
def liveBase (s : State) (x : Sheet) : Nat := if s.brine.live = 0 then x.ovfBase.1 else x.ovfBase.2

/-- Sweep `k` of a position computes overflow rows. -/
def sweepOverflows (c : ImageCfg) (l k : Nat) : Bool := decide (0 < c.ovfRows l) && decide (c.cap < (k + 1) * rowsPerSweep c.wfmt)

/-- The position works from the window at a step: a projecting sweep that holds overflow rows, or a backward pass of a position that
has them. -/
def stepOverflows (c : ImageCfg) (w : Work) (l : Nat) : Bool :=
  if w.backward then decide (0 < c.ovfRows l) else !w.fromBuffer && sweepOverflows c l w.step

/-- The pass and sweep for which a position fetches groups at a step. -/
def fetchFor (w : Work) : Nat × Option Nat := (w.issue, if w.backward then none else some w.step)

/-- The chunk at which a position's array stands: in the backward pass its chunk, in a projecting sweep the first whose group is
missing. -/
def arrayChunk (c : ImageCfg) (x : Sheet) (w : Work) (l : Nat) : Nat :=
  if w.backward then w.step else ((List.range c.hchunks).find? (lacksGroup x l)).getD c.hchunks

/-- Whether a sheet holds what a position needs for its next batch or chunk. -/
def groupsIn (c : ImageCfg) (x : Sheet) (w : Work) (l : Nat) : Bool :=
  !stepOverflows c w l || (if w.backward then !lacksGroup x l w.step else (List.range c.hchunks).all fun ch => !lacksGroup x l ch)

/-- A position whose step is over keeps none of its groups. -/
def endFetch (c : ImageCfg) (l : Nat) (s : State) (x : Sheet) : State :=
  match x.fetch.find? fun q => q.1 == l with
  | some q =>
    if ((firstWork c x l).map fetchFor) == some q.2 then s
    else
      (updSheet x.seq (fun y =>
        { y with
          fetch := y.fetch.filter fun f => f.1 != l, groups := y.groups.filter fun g => g.1 != l
          retried := y.retried.filter fun g => g.1 != l }) s).updPorts fun p =>
        { p with reads := p.reads.filter fun r => match r.kind with | .overflow a _ => a != l | _ => true }
  | none => s

/-- A position asks for the groups of its step in chunk order, up to 4 ahead of the array (R87) (DEDUCED, log entry 43). -/
def askGroups (c : ImageCfg) (x : Sheet) (w : Work) (l : Nat) (s : State) : State :=
  let a := arrayChunk c x w l
  (((List.range c.hchunks).drop a).take 4).foldl (fun t ch =>
    if lacksGroup x l ch && (readOf (.overflow l ch) t).isNone then
      issueRead (.overflow l ch) (groupAddr c (liveBase s x) l ch) (groupBytes c) t
    else t) (updSheet x.seq (fun y => { y with fetch := (l, fetchFor w) :: y.fetch.filter fun f => f.1 != l }) s)

/-- A position fetches for the step at which its array stands. -/
def fetchAt (c : ImageCfg) (s0 : State) (l : Nat) : State :=
  let s := s0.pipe.flight.foldl (endFetch c l) s0
  match arrayTurn c s l with
  | some x => match firstWork c x l with | some w => if stepOverflows c w l then askGroups c x w l s else s | none => s
  | none => s

/-- Every position that holds overflow rows fetches for its step (R87) (DEDUCED, log entry 43). -/
def settleFetch (s : State) : State :=
  match s.image.cfg with
  | some c => (ovfLeaves s c).foldl (fetchAt c) s
  | none => s

/-! ### Domain records of a sheet (Table 13.6) -/

/-- A brine block's 66 bytes (R55). -/
def brineBlockBytes (b : IntBlock) : List Byte :=
  b.ints.flatMap (fun i => leBytes 2 (BitVec.ofInt 16 i).toNat) ++ leBytes 2 (BitVec.ofInt 16 b.exp).toNat

/-- The brine block that 66 bytes spell. -/
def brineBlockOf (bs : List Byte) : IntBlock :=
  ⟨(List.range 32).map fun i => (BitVec.ofNat 16 (leAt bs (2 * i) 2)).toInt, (BitVec.ofNat 16 (leAt bs 64 2)).toInt⟩

/-- The four blocks of a 264-byte chunk. -/
def brineChunkOf (bs : List Byte) : List IntBlock := (List.range 4).map fun i => brineBlockOf (sliceBytes bs (66 * i) 66)

/-- A GRADER entry of a domain link: word 0 carries the token ID (Table 13.6). -/
def domGraderBytes (t : Nat) (e : GraderEntry) : List Byte :=
  leBytes 4 (t % 2 ^ 22 + 2 ^ 29 * bit01 e.ban + 2 ^ 30 * bit01 e.hasBias + 2 ^ 31 * bit01 e.hasCount) ++ e.tail

/-- The grader entries by token that a GRADER record carries. -/
def domGraderOf (bs : List Byte) : List (Nat × GraderEntry) :=
  (List.range (bs.length / 12)).map fun i =>
    let w := leAt bs (12 * i) 4
    (w % 2 ^ 22, ⟨0, 0, leAt bs (12 * i + 4) 4 % 2 ^ 24, f32At bs (12 * i + 8), bitOf w 29, bitOf w 30, bitOf w 31⟩)

/-- M, S and κ of a row's backward pass: from its forward statistics, or as the parent's control word gives them (R161). -/
def gradConsts (r : Row) (sl : Slot) : F32 × F32 × F32 :=
  match r.dom with
  | some c => (c.gradM, c.gradS, c.kappa)
  | none =>
    let st := (sl.headFirst.map ChildOut.stats).getD (statsEmpty 2 false false)
    (st.m, st.s, kappaOf (rowCl r.bytes) sl.params.invT)

/-- The control word of a slot for a domain link (Tables 2.2 and 13.6). -/
def ctlWord (seq i : Nat) (r : Row) (sl : Slot) (backward : Bool) : CtlWord :=
  let g := gradConsts r sl
  { tag := seq, row := i, mode := r.modeCode, pass := sl.ctl.pass, kw := sl.ctl.kw, useR := sl.ctl.useR, theta := sl.ctl.theta
    resume := sl.ctl.resume.map fun e => (e.tok, e.key), level := sl.ctl.level, ref := sl.ctl.ref, hist := sl.ctl.hist
    strict := sl.ctl.strict, backward := backward, fromBuffer := sl.ctl.fromBuffer, invT := sl.params.invT, rho := sl.params.rho
    invRho := sl.params.invRho, phi := sl.params.phi, pi := sl.params.pi, noised := sl.params.noised
    gradM := if backward then g.1 else f32Zero, gradS := if backward then g.2.1 else f32Zero
    kappa := if backward then g.2.2 else f32Zero, cv := r.cv, target := r.targetTok, seed := sl.params.seed
    rngStep := sl.params.rngStep, bufRow := r.bufRow, adapter := r.pin, lists := ⟨false, false, false⟩ }

/-- The lists that follow a slot's first control word: every child is sent one record of each, empty where the child places none of its tokens
(R267, R268) (DESIGN CHOICE, log entry 187). -/
def listsOf (r : Row) (sl : Slot) : ListFlags := ⟨!sl.remote.isEmpty, r.snap.maskRef != none16, !sl.watch.isEmpty⟩

/-- The remote children at which a sheet has been opened and that take part. -/
def sheetKids (s : State) (x : Sheet) : List Nat := (x.upAt.map (·.1)).filter (childIn s)

/-- Send a record to every remote child of a sheet. -/
def toKids (x : Sheet) (f : OutFlit) (s : State) : State := sendAll ((sheetKids s x).map fun k => (childSt s k).link) f s

/-- Send child `k` the grader entries of a slot for the tokens that it places (R267). -/
def sendEntries (slot : Nat) (es : List (Nat × GraderEntry)) (s : State) (k : Nat) : State :=
  sendUp (childSt s k).link (.grader slot ((es.filter fun e => childPlaces s k e.1).flatMap fun e => domGraderBytes e.1 e.2)) s

/-- Send child `k` the watched tokens of a slot that it places, those of an overlap among them (R147, R267) (DESIGN CHOICE, log entry 177). -/
def sendWatch (slot : Nat) (ws : List Nat) (s : State) (k : Nat) : State :=
  sendUp (childSt s k).link (.watch slot (ws.filter (childPlaces s k))) s

/-- A slot of a sheet as (row, row number, position, slot). -/
abbrev SlotRef := Nat × Row × Nat × Slot

/-- The slots of a sheet's rows that are not done, in sheet order. -/
def Sheet.liveRefs (x : Sheet) : List SlotRef :=
  (x.rows.zipIdx.filter fun q => q.1.phase != .done).flatMap fun q => q.1.slots.zipIdx.map fun sl => (q.2, q.1, sl.2, sl.1)

/-- Send a slot's control word to every child of the sheet. -/
def sendCtl (x : Sheet) (s : State) (q : SlotRef) : State :=
  toKids x (.rowCtl (q.2.1.slot0 + q.2.2.1)
    { ctlWord x.seq q.1 q.2.1 q.2.2.2 false with lists := listsOf q.2.1 q.2.2.2 }) s

/-- Send chunk `ch` of a slot's brine. -/
def sendChunk (x : Sheet) (ch : Nat) (s : State) (q : SlotRef) : State :=
  toKids x (.brine (q.2.1.slot0 + q.2.2.1) (((q.2.2.2.brine.drop (4 * ch)).take 4).flatMap brineBlockBytes)) s

/-- Send the lists of a slot: each child's grader entries, then the mask, then its watched tokens (R94, R101, R147). -/
def sendLists (x : Sheet) (s : State) (q : SlotRef) : State :=
  let slot := q.2.1.slot0 + q.2.2.1
  let a := listsOf q.2.1 q.2.2.2
  let s1 := if a.grader then (sheetKids s x).foldl (sendEntries slot q.2.2.2.remote) s else s
  let s2 := if a.mask then toKids x (.mask slot q.2.1.snap.maskRef) s1 else s1
  if a.watch then (sheetKids s x).foldl (sendWatch slot q.2.2.2.watch) s2 else s2

/-- Send a sheet's first-pass records: control words, the brine chunk by chunk over the slots in sheet order, then the lists (R64, R267). -/
def sendSheet (x : Sheet) (s : State) : State :=
  let qs := x.liveRefs
  let chunks := (qs.map fun q => q.2.2.2.brine.length / 4).foldl max 0
  qs.foldl (sendLists x) ((List.range chunks).foldl (fun t ch => qs.foldl (sendChunk x ch) t) (qs.foldl (sendCtl x) s))

/-- Each child of `ks` owes the slot one more output (DEDUCED, log entry 102). -/
def Slot.ask (ks : List Nat) (sl : Slot) : Slot := { sl with due := ks.foldl (fun d k => spSet 0 d k (spGet 0 d k + 1)) sl.due }

/-- The remote children that take part. -/
def childrenIn (s : State) : List Nat := (childIdx s).filter (childIn s)

/-- A slot's composites before a pass. Parts of remote outputs that have arrived stay: they belong to outputs still owed. -/
def Slot.freshNodes (sl : Slot) : List (Nat × NodeRow) :=
  (sl.nodes.filter fun n => !n.2.parts.isEmpty).map fun n =>
    (n.1, { (n.2.arrived.foldl (fun x a => x.forget a.1) n.2) with arrived := [], sent := false, late := false })

/-- Slots of rows that are not done. -/
def Sheet.liveSlots (x : Sheet) : Nat := ((x.rows.filter fun r => r.phase != .done).map Row.nslots).sum

/-- LOOSE ordering is in force. -/
def looseOn (s : State) : Bool := match s.image.cfg with | some c => c.loose | none => false

/-- A root opens the sheet at its children and sends them every live slot (R267). -/
def openAtChildren (x : Sheet) (s : State) : State :=
  if x.parentLink.isSome ∨ x.liveSlots = 0 ∨ childLinks s = [] then s
  else
    let gid := genBufId (if x.gen = 0 then s.fn.buf0 else s.fn.buf1)
    let ks := (childrenIn s).map fun k => (k, s.tide.osc)
    let x1 := { x with upAt := ks }
    let s1 := toKids x1 (.sheetOpen x.seq x.live gid x.liveSlots (bit01 (looseOn s))) s
    updSheet x.seq (fun y =>
      { y with
        upAt := ks
        rows := y.rows.map fun r => if r.phase = .done then r else { r with slots := r.slots.map (Slot.ask (sheetKids s x1)) } })
      (sendSheet x1 s1)

/-! ### Stage 4 -/

/-- Every slot of a row starts its first pass. -/
def startRow (r : Row) : Row :=
  { r with slots := r.slots.mapIdx fun p sl => { sl with ctl := match r.dom with | some _ => sl.ctl | none => firstCtl r p } }

/-- A row that a parent opened latches its own mask store's bitmap (R101, R268) (DEDUCED, log entry 107). -/
def latchMask (s : State) (r : Row) : Row :=
  if r.dom.isNone ∨ r.snap.maskRef = none16 then r else { r with mask := some (spGet [] s.masks.zeros r.snap.maskRef) }

/-- The first sheet projected in the live step names CTL_FLIP_SEQ (R242) (DEDUCED, log entry 162). -/
def noteFirst (x : Sheet) (s : State) : State :=
  if s.pipe.flipDue then s.updPipe fun p => { p with flipSeq := word x.seq, flipDue := false } else s

/-- The sheet starts scoring: weight generation, first control words, z and domain records (R16, R83, R267). -/
def beginScoring (x : Sheet) (s : State) : State :=
  match s.image.cfg with
  | none => updSheet x.seq (fun y => { y with stage := 6, live := s.weights.wLive }) (noteFirst x s)
  | some c =>
    let rows := x.rows.map fun r => withZ s c (latchMask s (startRow r))
    let x1 := { x with stage := 4, live := s.weights.wLive, rows := rows }
    openAtChildren x1 (updSheet x.seq (fun _ => x1) (noteFirst x (noteZ c x.rows s)))

/-- A returned pan waits for its leaf to move back at the next boundary (R41). -/
def returnWaits (s : State) : Bool := s.fabric.beds.any fun b => b.2.copied

/-- A sheet's buffered rows still take passes (R81, R160). -/
def bufferBusy (s : State) (x : Sheet) : Bool := !sheetOver s x && x.rows.any fun r => r.buffered && r.phase != .done

/-- A sheet's buffered rows wait for those of a sheet before it (R81); between two sheets of a parent, its root has seen to that. -/
def bufferWaits (s : State) (x : Sheet) : Bool :=
  x.rows.any Row.buffered && (before s x).any fun y => !(x.parentLink.isSome && y.parentLink.isSome) && bufferBusy s y

/-- Stage 4 may begin for a sheet (R13, R16, R41, R81) (DEDUCED, log entry 35). -/
def mayEnter4 (s : State) (x : Sheet) : Bool :=
  s.power.logicOn && (before s x).all (fun y => decide (5 ≤ y.stage)) && !flipHolds s && !returnWaits s &&
  !bufferWaits s x

/-- The stage a sheet past stage 3 stands at: 6 when every row is decided, 5 when its first passes have left every leaf. Only the first
sheet in flight leaves stage 4 (R13). -/
def stageNow (x : Sheet) (leaves : Nat) : Nat :=
  if x.rows.all fun r => r.phase == .done then 6
  else if x.stage = 5 then 5
  else if x.rows.all fun r => r.phase == .done || r.slots.all fun sl =>
      !sl.ctl.first || (List.range leaves).all fun l => sl.leaves.any fun q => q.1 == l && q.2.sent then 5
  else 4

/-- The stage of a sheet that a parent opened: 6 when the head merge's output of every slot's pass has gone up, 5 when the first passes
have left every leaf. -/
def memberStage (x : Sheet) (leaves : Nat) : Nat :=
  if x.rows.length < x.slotsDue then 4
  else if x.rows.all fun r => r.phase == .done || (r.phase == .running && r.slots.all fun sl => sl.head.isSome) then 6
  else if x.rows.all fun r => r.phase == .done || r.slots.all fun sl =>
      !sl.ctl.first || (List.range leaves).all fun l => sl.leaves.any fun q => q.1 == l && q.2.sent then 5
  else 4

/-- The sheet's merges run: it is the first in flight, or every sheet before it is a parent's whose work has gone up (R13). -/
def leads (s : State) (x : Sheet) : Bool := (before s x).all fun y => y.stage == 6 && y.parentLink.isSome

/-- Every sheet whose merges run stands at the stage its rows give it. -/
def settleStages (s : State) : State :=
  s.pipe.flight.foldl (fun t x =>
    if 4 ≤ x.stage ∧ leads t x then
      updSheet x.seq (fun y =>
        { y with stage := if y.parentLink.isSome then memberStage y s.part.leaves else stageNow y s.part.leaves }) t
    else t) s

/-- Every list that a slot's control word announced has come. -/
def Slot.listed (sl : Slot) : Bool := sl.awaits == ⟨false, false, false⟩

/-- A sheet may start stage 4: one of the engine's own at any time; one that a parent opened when its every slot has its brine and its lists,
no bitmap that it names is being copied, and the live step is the one SHEET_OPEN named (R103, R267, R268, R271). -/
def readyFor4 (s : State) (x : Sheet) : Bool :=
  match x.parentLink, s.image.cfg with
  | none, _ => true
  | some _, some c =>
    x.rows.length == x.slotsDue && s.weights.wLive == x.live &&
    !(s.masks.phase == .copying && x.rows.any fun r => r.phase != .done && r.snap.maskRef == s.masks.bitmap) &&
    x.rows.all fun r => r.phase == .done || r.slots.all fun sl => sl.brine.length == 4 * c.hchunks && sl.listed
  | some _, none => false

/-- SHEET_ENTER_STAGE_4. -/
def execSheetEnterStage4 (s : State) : Host.Outcome State Fault Refusal :=
  match s.pipe.flight.find? fun x => x.stage == 3 && mayEnter4 s x && readyFor4 s x with
  | some x => .next (settleFetch (settleStages (beginScoring x s)))
  | none => .next s

end Sys2Proof.Machine
end

