-- ==== Sys2Proof/Machine/ScoreOps.lean ====
section
/-!
DEFINITION. Scoring at a leaf position: raw scores, grading, statistics and windrows of a batch, the score buffer, watch reports and the
value head (R59 to R64, R81, R83, R90 to R112, R122, R147, R158, R160), and what a leaf sends its parent.
-/

namespace Sys2Proof.Machine

/-- Change one slot of a sheet in flight. -/
def updSlotAt (seq i p : Nat) (f : Slot → Slot) (s : State) : State := updSheet seq (Sheet.updRow i (Row.updSlot p f)) s

/-! ### Raw scores (R59 to R63) -/

/-- Bytes of a row of the live bank. -/
def residentRow (s : State) (c : ImageCfg) (l j : Nat) : Array Byte :=
  (brineRead s (panOf s l) (bankBase c s.brine.live + j * c.b) c.b).toArray

/-- Group (L, c) that a sheet holds. -/
def groupOf (x : Sheet) (l ch : Nat) : List Byte :=
  match x.groups.find? fun g => g.1 == l && g.2.1 == ch with
  | some g => g.2.2
  | none => []

/-- Weight blocks of the row at (L, j): resident, or from its chunk groups, whose CRC is their only check (R86, R87): an encoding that R58
refuses is taken as the value its bits spell (DESIGN CHOICE, log entry 166). -/
def rowBlocks (s : State) (c : ImageCfg) (x : Sheet) (l j : Nat) : List IntBlock :=
  if c.arr = 2 ∧ c.cap ≤ j then
    (List.range c.hchunks).flatMap fun ch =>
      let a := (groupSlot c (groupOf x l ch) (j - c.cap)).toArray
      (List.range 4).map (chunkBlock c.wfmt (readerOf a))
  else
    let a := residentRow s c l j
    (List.range (4 * c.hchunks)).map (weightBlock c.wfmt c.h (readerOf a))

/-- The adapter term of the row at (L, j) (R62, R83). -/
def adapterTerm (s : State) (r : Row) (l j : Nat) (z : List IntBlock) : F32 :=
  let e := adEntry s r.pin
  let a := e4m3Row s (panOf s l) (adapterBase + e.first * slotSize + j * bRowBytes e.rank) (32 * bBlocks e.rank)
  dotBlocks 1 ((List.range (bBlocks e.rank)).map (weightBlock .e4m3 (32 * bBlocks e.rank) (readerOf a))) z

/-- The raw score of the row at (L, j) against a slot's brine (R61, R62). -/
def rawAt (s : State) (c : ImageCfg) (x : Sheet) (r : Row) (sl : Slot) (l j : Nat) : F32 :=
  rawScore (dotBlocks c.hchunks (rowBlocks s c x l j) sl.brine) (sl.zBlocks.map (adapterTerm s r l j))

/-! ### The score buffer (R81, R160) -/

/-- Entry of the buffer for a row's storage position. -/
def bufEntry (c : ImageCfg) (q j : Nat) : Nat := q * c.rmax + j

/-- A binary32 of the buffer; an entry beyond its 65,536, which only a member whose busiest position outgrows its root's can name, is a
free value. -/
def bufRead (s : State) (p k : Nat) : F32 := if k < 65536 then f32At (brineRead s p (scoreBase + 4 * k) 4) 0 else Config.scoreBeyond k

/-- Write an entry of the buffer. -/
def bufWrite (p k : Nat) (v : F32) (s : State) : State :=
  if k < 65536 then brineWrite p (scoreBase + 4 * k) (leBytes 4 v.toNat) s else s

/-! ### One batch (R90 to R112) -/

/-- Storage positions of batch `n` of a position that holds `rows` rows. -/
def batchRows (rows n : Nat) : List Nat := (List.range (min 64 (rows - 64 * n))).map (64 * n + ·)

/-- Batches of a position. -/
def batchCount (rows : Nat) : Nat := ceilDiv rows 64

/-- The grader file of a position for a slot: the entries that the repeaters bring it, in the order received (R95). -/
def Slot.graderFile (sl : Slot) (l : Nat) : List GraderEntry := sl.grader.filter fun e => e.leaf == l

/-- The entry with a storage position's J in the leaf's file, neutral where there is none (R95). -/
def Slot.entryFor (sl : Slot) (l j : Nat) : GraderEntry := ((sl.graderFile l).find? fun e => e.pos == j).getD graderNeutral

/-- A 4-byte watch entry: J in [11:0], L in [21:12] (R147). -/
def watchWord (l j : Nat) : Word := BitVec.ofNat 32 (j % 4096 + 4096 * (l % 1024))

/-- The watch entries of a slot's watched tokens that the engine places (R147). -/
def Slot.watchWords (c : ImageCfg) (sl : Slot) : List Word := (sl.watch.filterMap c.place).map fun p => watchWord p.1 p.2

/-- Storage positions whose watch entries the repeaters bring a leaf (R147). -/
def Slot.watchedAt (c : ImageCfg) (sl : Slot) (l : Nat) : List Nat :=
  ((sl.watchWords c).filter fun w => bitsOf w.toNat 21 12 == l).map fun w => bitsOf w.toNat 11 0

/-- The token's mask bit (R101). -/
def Row.maskBit (r : Row) (t : Nat) : Bool := match r.mask with | some z => !z.contains t | none => true

/-- A score read back from the buffer: a masked one is −2^127 (R138), and so is every other of that value (DESIGN CHOICE, log
entry 152). One that pass 1 masked as NaN or infinite counts under MASKED in the pass that reads it (DESIGN CHOICE, log entry 176). -/
def fromBuffer (v : F32) : Graded := if v = f32Masked then ⟨f32Masked, f32Masked, .masked⟩ else ⟨v, v, .valid⟩

/-- The graded score of the row at (L, j) for a pass: from the lanes, or read back from the score buffer. -/
def gradedAt (s : State) (c : ImageCfg) (x : Sheet) (r : Row) (sl : Slot) (l j t : Nat) : Graded :=
  if (sl.ctlAt l).fromBuffer then fromBuffer (bufRead s (panOf s l) (bufEntry c (r.bufRow.getD 0) j))
  else gradeScore (sheetSfu s x).log2 sl.params (sl.entryFor l j) (r.maskBit t) t 0 (rawAt s c x r sl l j)

/-- A batch's scores as (storage position, token, graded score). -/
def batchScores (s : State) (c : ImageCfg) (x : Sheet) (r : Row) (sl : Slot) (l n : Nat) : List (Nat × Nat × Graded) :=
  (batchRows (c.leafRows l).length n).map fun j =>
    let t := ((c.leafRows l).getD j (0, false)).1
    (j, t, gradedAt s c x r sl l j t)

/-- The block of one batch (R108, R110). -/
def statsOfBatch (f : Sfu) (ctl : PassCtl) (gs : List (Nat × Nat × Graded)) : Stats :=
  batchStats f.exp2 ctl.level ctl.ref ctl.hist (gs.map fun q => some q.2.2)

/-- A position's progress after a batch: statistics, windrow, reports and batch maximum (R108, R111, R122, R147, R160) (DEDUCED, log
entry 40). -/
def foldBatch (f : Sfu) (ctl : PassCtl) (watched : List Nat) (lr : LeafRow) (gs : List (Nat × Nat × Graded)) : LeafRow :=
  let b := statsOfBatch f ctl gs
  let key (g : Graded) : F32 := if ctl.useR then g.r else g.g
  let offered := (gs.filter fun q => afterResume ctl.resume ⟨q.2.1, key q.2.2⟩).map fun q => (q.2.1, q.2.2)
  { lr with
    nextBatch := lr.nextBatch + 1
    wind := insertBatch ctl.kw ctl.theta ctl.useR lr.wind offered
    stats := combineStats f.exp2 lr.stats b
    reports := lr.reports ++
      if ctl.first then (gs.filter fun q => watched.contains q.1).map fun q => (q.2.1, q.2.2.g) else []
    maxima := lr.maxima ++ [b.m] }

/-- What a row's first pass leaves in the buffer for a score: g of a LEDGER row, e against the batch maximum of a GRAD row, +0 where it is
masked (R81, R160) (DEDUCED, log entry 46; DESIGN CHOICE, log entry 152). -/
def stored (f : Sfu) (grad : Bool) (mb : F32) (g : Graded) : F32 :=
  if grad then (if g.kind = .valid then expTerm f g.g mb else f32Zero) else g.g

/-- Store a batch in the score buffer (DEDUCED, log entry 46). -/
def storeBatch (s0 : State) (c : ImageCfg) (f : Sfu) (r : Row) (l : Nat) (mb : F32) (gs : List (Nat × Nat × Graded)) (s : State) : State :=
  match r.bufRow with
  | some q => gs.foldl (fun t g => bufWrite (panOf s0 l) (bufEntry c q g.1) (stored f r.grad mb g.2.2) t) s
  | none => s

/-- Count NaN and infinite scores of a first rake pass (R102). -/
def countNonfinite (gs : List (Nat × Nat × Graded)) (s : State) : State :=
  let n (k : GradeKind) : Nat := (gs.filter fun g => g.2.2.kind = k).length
  s.updCa fun a => { a with scoreNan := a.scoreNan + word (n .nan), scoreInf := a.scoreInf + word (n .infinite) }

/-- The last offset that a batch whose last row stands at `j` reads of its pan's region: of the score buffer, or of the adapter's B rows, or
else of the last row that is resident; none where it reads only its groups (R282) (DEDUCED, log entry 164). -/
def lastRead (s : State) (c : ImageCfg) (r : Row) (sl : Slot) (l first j : Nat) : Option Nat :=
  if (sl.ctlAt l).fromBuffer then
    (let k := bufEntry c (r.bufRow.getD 0) j
     if k < 65536 then some (scoreBase + 4 * k) else none)
  else if sl.zBlocks.isSome then
    some (adapterBase + (adEntry s r.pin).first * slotSize + (j + 1) * bRowBytes (adEntry s r.pin).rank - 1)
  else if c.arr = 2 ∧ c.cap ≤ first then none
  else
    some (bankBase c s.brine.live + ((if c.arr = 2 then min j (c.cap - 1) else j) + 1) * c.b - 1)

/-- The pan of a position has read what a batch takes from its region (R282) (DEDUCED, log entry 164). -/
def noteBatch (c : ImageCfg) (r : Row) (sl : Slot) (l : Nat) (gs : List (Nat × Nat × Graded)) (s : State) : State :=
  match lastRead s c r sl l ((gs.head?.map (·.1)).getD 0) ((gs.getLast?.map (·.1)).getD 0) with
  | some off => noteRead (panOf s l) off s
  | none => s

/-! ### The value head (R84, R158) -/

/-- Units that position `l` of `n` holds. -/
def unitsAt (c : ImageCfg) (n l : Nat) : List Nat := (List.range c.vhUnits).filter fun u => u % n == l

/-- Bytes of one unit: gate row, up row, down weight. -/
def unitBytes (c : ImageCfg) : Nat := 2 * rowBytes c.vhFmt c.h + 2

/-- The gate or up row of a position's `k`-th unit. -/
def unitRow (s : State) (c : ImageCfg) (l k : Nat) (up : Bool) : Array Byte :=
  let n := rowBytes c.vhFmt c.h
  (brineRead s (panOf s l) (valueBase + k * unitBytes c + (if up then n else 0)) n).toArray

/-- The down weight of a position's `k`-th unit. -/
def unitDown (s : State) (c : ImageCfg) (l k : Nat) : F32 :=
  fOfBf16 (BitVec.ofNat 16 (leAt (brineRead s (panOf s l) (valueBase + k * unitBytes c + 2 * rowBytes c.vhFmt c.h) 2) 0 2))

/-- a and b of a unit (R158). -/
def unitAB (s : State) (c : ImageCfg) (l k : Nat) (brine : List IntBlock) : F32 × F32 :=
  (weightTerm c.vhFmt c.h (readerOf (unitRow s c l k false)) brine, weightTerm c.vhFmt c.h (readerOf (unitRow s c l k true)) brine)

/-- The activation a generation gives the value head (R178). -/
def actFn (s : State) (x : Sheet) (c : ImageCfg) : F32 → F32 := fnEval (sheetGen s x) c.vell c.actSlot

/-- A position's value sum (R158). -/
def leafValue (s : State) (c : ImageCfg) (x : Sheet) (l : Nat) (brine : List IntBlock) : F32 :=
  ((List.range (unitsAt c s.part.leaves l).length).map fun k =>
    let ab := unitAB s c l k brine
    valueUnit (actFn s x c) ab.1 ab.2 (unitDown s c l k)).foldl fAdd f32Zero

/-- The pan of a position has read its value units, where it holds any (R282) (DEDUCED, log entry 164). -/
def noteUnits (c : ImageCfg) (l : Nat) (s : State) : State :=
  let n := (unitsAt c s.part.leaves l).length
  if n = 0 then s else noteRead (panOf s l) (valueBase + n * unitBytes c - 1) s

/-! ### SCORE_BATCH -/

/-- What a position sends its parent once its last batch is folded (Table 2.2, R28). -/
def leafOut (s : State) (c : ImageCfg) (x : Sheet) (r : Row) (sl : Slot) (l : Nat) (lr : LeafRow) : ChildOut :=
  ⟨lr.wind, lr.stats, lr.reports, if r.score && sl.ctl.first then leafValue s c x l sl.brine else f32Zero⟩

/-- The position's outputs go to its parent. A position that has graded a rerun's first pass again turns to the row's current pass, since
its parent has had the first pass's outputs (R143) (DEDUCED, log entry 65). -/
def sendLeaf (s : State) (c : ImageCfg) (x : Sheet) (r : Row) (l : Nat) (lr : LeafRow) (sl : Slot) : Slot :=
  let up := leafParent (fanout s) l
  if sl.redo.isSome ∧ !lr.redone then sl.putLeaf l { leafStart sl.ctl true with maxima := lr.maxima }
  else (sl.putLeaf l { lr with sent := true }).arriveAt up.1 up.2 (leafOut s c x r sl l lr)

/-- Lanes waited for a special-function unit, for a number of handshakes that no rule states (R177) (DESIGN CHOICE, log entry 131). -/
def countStall (s : State) : State :=
  s.updCb fun c => { c with fnStall := c.fnStall + Config.fnStall c.fnDraws, fnDraws := c.fnDraws + 1 }

/-- The position is about to send its outputs, with the value sum of a SCORE row's first pass (R158). -/
def sendsValue (r : Row) (sl : Slot) (lr : LeafRow) : Bool := r.score && sl.ctl.first && !(sl.redo.isSome && !lr.redone)

/-- A batch calls for a special function: race noise for a valid score of a first pass, or the exponential of a valid score that is not
skipped, at LEVEL 1 or 2 (R104, R108, Table 9.5). At LEVEL 0 a pass that reads the buffer calls for none, nor does a masked batch. -/
def batchEvaluates (f : Sfu) (ctl : PassCtl) (noised : Bool) (gs : List (Nat × Nat × Graded)) : Bool :=
  let m := (statsOfBatch f ctl gs).m
  gs.any fun q => q.2.2.kind == .valid &&
    ((noised && !ctl.fromBuffer) || (ctl.level != 0 && !fLt (fMul (fSub q.2.2.g m) constL2e) constM150))

/-- The lanes of a batch wait where a function is evaluated for it, or for the units of the value sum that leaves with it (R158, R177)
(DESIGN CHOICE, log entry 131). -/
def batchStall (evaluates : Bool) (s : State) : State := if evaluates then countStall s else s

/-- One batch of a position, or the empty output of a position without rows, folded and sent after the last (R28, R64, R108). Activations
of a position without rows make no lane wait (R177) (DEDUCED, log entry 40; DESIGN CHOICE, log entry 131). -/
def scoreBatch (c : ImageCfg) (x : Sheet) (i p : Nat) (r : Row) (sl : Slot) (l : Nat) (s : State) : State :=
  let lr := sl.leafAt l
  let rows := (c.leafRows l).length
  let value (s : State) : State := if sendsValue r sl lr then noteUnits c l s else s
  if rows = 0 then updSlotAt x.seq i p (sendLeaf s c x r l lr) (value s)
  else
    let f := sheetSfu s x
    let gs := batchScores s c x r sl l lr.nextBatch
    let ctl := sl.ctlAt l
    let lr1 := foldBatch f ctl (sl.watchedAt c l) lr gs
    let s1 := noteBatch c r sl l gs s
    let s2 := if ctl.first then countNonfinite gs (storeBatch s c f r l (statsOfBatch f ctl gs).m gs s1) else s1
    let evals := batchEvaluates f ctl sl.params.noised gs
    if lr1.nextBatch = batchCount rows then
      updSlotAt x.seq i p (sendLeaf s c x r l lr1)
        (value (batchStall (evals || (sendsValue r sl lr && decide (0 < (unitsAt c s.part.leaves l).length))) s2))
    else updSlotAt x.seq i p (fun y => y.putLeaf l lr1) (batchStall evals s2)

/-- The position can work: it is placed and its bed is not between a fence and the switch to the spare (R40, R42). -/
def leafWorks (s : State) (l : Nat) : Bool := !isUnplaced s l && (bedAt s (l / 16)).phase != .rebuilding

/-- The position's next work is a batch of a slot, and it has what the batch needs (R64, R87, R166). -/
def mayScore (s : State) (c : ImageCfg) (x : Sheet) (r : Row) (p : Nat) (sl : Slot) (l : Nat) : Bool :=
  s.power.logicOn && scoring x && r.phase == .running && leafWorks s l && !(sl.leafAt l).sent && takesTurn c s x r p l sl &&
  groupsIn c x (workAt c r p l sl) l

/-- SCORE_BATCH (DESIGN CHOICE, log entry 130). -/
def execScoreBatch (seq leaf slot : Nat) (s : State) : Host.Outcome State Fault Refusal :=
  forUnit (decide (leaf < s.part.leaves))
    (match s.image.cfg, flightSheet s seq with
     | some c, some x =>
       match x.slotAt slot with
       | some (i, p) =>
         match x.rows[i]? with
         | some r =>
           match r.slots[p]? with
           | some sl => when' (mayScore s c x r p sl leaf) (settleFetch (settleStages (scoreBatch c x i p r sl leaf s))) s
           | none => .next s
         | none => .next s
       | none => .next s
     | _, _ => .next s)

end Sys2Proof.Machine
end

