-- ==== Sys2Proof/Machine/MergeOps.lean ====
section
/-!
DEFINITION. The rake merges of windrows, statistics, watch reports, value sums and gradient packets, with the domain records a member's
head merge sends up (R35, R119 to R121, R147, R158, R163, R237, R267).
-/

namespace Sys2Proof.Machine

/-- The outputs of a composite's children in child order. -/
def inChildOrder {α : Type} (n : Nat) (xs : List (Nat × α)) : List α :=
  (List.range n).filterMap fun k => (xs.find? fun q => q.1 == k).map (·.2)

/-- The outputs arrived in child order (DEDUCED, log entry 39). -/
def arrivedInOrder {α : Type} (n : Nat) (xs : List (Nat × α)) : Bool := xs.map (·.1) == List.range n

/-- Left fold of value sums, from the first child's (R120, R158). -/
def foldValues : List F32 → F32
  | [] => f32Zero
  | v :: vs => vs.foldl fAdd v

/-- The value of a merge: its output, the dropped duplicates, and the timing-dependent choices it made (R119 to R121, R237). -/
structure Merged where
  out : ChildOut
  dups : List (Nat × Nat)
  choices : Nat
deriving DecidableEq, Repr

/-- The outputs of a composite's children in an order of their numbers (DEDUCED, log entry 39). -/
def inOrder {α : Type} (ks : List Nat) (xs : List (Nat × α)) : List α := ks.filterMap fun k => (xs.find? fun q => q.1 == k).map (·.2)

/-- Merge a composite's children for one slot and pass. Windrows do not depend on the order, and of the reports of one token the first in
child order counts; statistics and value sums fold in child order, or each in the order in which its own channel brought them under LOOSE
(R35, R120, R147, R237) (DEDUCED, log entry 39; DESIGN CHOICE, log entry 177). -/
def mergeKids (exp2 : F32 → F32) (ctl : PassCtl) (loose valued : Bool) (n : Nat) (x : NodeRow) : Merged :=
  let ordered := inChildOrder n x.arrived
  let looseStats := loose && !ctl.strict
  let sOrder := if looseStats then inOrder x.statsOrder x.arrived else ordered
  let vOrder := if loose then inOrder x.valueOrder x.arrived else ordered
  let w := rakeMerge ctl.kw (ordered.map ChildOut.wind)
  ⟨⟨w.out, (foldStats exp2 (sOrder.map ChildOut.stats)).getD (statsEmpty ctl.level ctl.ref.isSome ctl.hist),
    ordered.flatMap ChildOut.reports, foldValues (vOrder.map ChildOut.value)⟩,
   w.dups, bit01 (looseStats && x.statsOrder != List.range n) + bit01 (loose && valued && x.valueOrder != List.range n)⟩

/-- The head's child below which a composite lies. -/
def headChildOf (fs : List Nat) (n : Nat) : Nat := (nodeLeaves fs n).1 / max 1 ((fs.drop 1).foldl (· * ·) 1)

/-- Count dropped duplicates and record the last (R121). -/
def countDups (fs : List Nat) (n : Nat) (dups : List (Nat × Nat)) (s : State) : State :=
  match dups.getLast? with
  | none => s
  | some d =>
    let k := if n = 0 then d.1 else headChildOf fs n
    s.updCa fun a => { a with selDup := a.selDup + word dups.length, selLast := word (2 ^ 31 + k * 2 ^ 22 + d.2) }

/-- Count timing-dependent choices (R237). -/
def countLoose (n : Nat) (s : State) : State := s.updCb fun c => { c with loose := c.loose + word n }

/-- A member's head merge sends its output to the parent (R30, R267). -/
def sendHeadOut (slot : Nat) (ctl : PassCtl) (valued : Bool) (o : ChildOut) (s : State) : State :=
  let s1 := toParent (.stats slot ctl.pass o.stats) (toParent (.windrow slot ctl.pass o.wind) s)
  let s2 := if valued then toParent (.vector slot ctl.pass (.value o.value)) s1 else s1
  if o.reports = [] then s2 else toParent (.vector slot ctl.pass (.reports o.reports)) s2

/-- A composite emits its output: the head keeps it, a member sends it up, any other composite hands it to its parent. -/
def emitMerged (x : Sheet) (i p n : Nat) (r : Row) (sl : Slot) (o : ChildOut) (late : Bool) (s : State) : State :=
  let mark (y : Slot) : Slot := y.putNode n { y.nodeAt n with sent := true, late := late }
  match nodeParent (fanout s) n with
  | some up => updSlotAt x.seq i p (fun y => (mark y).arriveAt up.1 up.2 o) s
  | none =>
    let s1 := updSlotAt x.seq i p (fun y => { mark y with head := some o }) s
    if x.parentLink.isSome then sendHeadOut (r.slot0 + p) sl.ctl (r.score && sl.ctl.first) o s1 else s1

/-- The row that a slot belongs to: the row of the sheet, or the parent's row of a member's slot. -/
def rowKey (i : Nat) (r : Row) : Nat := match r.dom with | some c => c.row | none => i

/-- The fold of a VERIFY row's rake pass at composite `n` has made its choice in another slot of the same depth (R150, R237). -/
def foldCounted (x : Sheet) (i n : Nat) (r : Row) (sl : Slot) : Bool :=
  r.verify && x.rows.zipIdx.any fun q =>
    q.1.verify && rowKey q.2 q.1 == rowKey i r && q.1.slots.any fun y => y.ctl.pass == sl.ctl.pass && (y.nodeAt n).late

/-- Merge one composite for one slot. A duplicate dropped at a member's own head merge counts at the member: no record of Table 13.6 carries
it to the root (R121) (DESIGN CHOICE, log entry 158). -/
def mergeAt (x : Sheet) (i p n : Nat) (r : Row) (sl : Slot) (s : State) : State :=
  let fs := fanout s
  let m := mergeKids (sheetSfu s x).exp2 sl.ctl (looseOn s) (r.score && sl.ctl.first) (childCount fs (remoteCount s) n) (sl.nodeAt n)
  let s1 := countLoose (if foldCounted x i n r sl then 0 else m.choices) (countDups fs n m.dups s)
  let s2 := if m.dups = [] then s1 else updSheet x.seq (Sheet.updRow i fun r => { r with dup := true }) s1
  emitMerged x i p n r sl m.out (decide (0 < m.choices)) s2

/-- The slots of a VERIFY row rise in ascending depth: those of smaller depth have passed the composite (R150). -/
def risesNow (x : Sheet) (i : Nat) (r : Row) (sl : Slot) (n : Nat) : Bool :=
  !r.verify || x.rows.zipIdx.all fun q =>
    !(q.1.verify && rowKey q.2 q.1 == rowKey i r && q.1.phase == .running) ||
    q.1.slots.all fun y => decide (sl.ctl.pass ≤ y.ctl.pass) || (y.nodeAt n).sent

/-- Every child of a composite has sent its output for the slot's pass. -/
def kidsIn (s : State) (sl : Slot) (n : Nat) : Bool :=
  (inChildOrder (childCount (fanout s) (remoteCount s) n) (sl.nodeAt n).arrived).length == childCount (fanout s) (remoteCount s) n

/-- A sheet in stage 4 or 5 whose merges run (R13). -/
def mergeSheet (s : State) (seq : Nat) : Option Sheet :=
  match flightSheet s seq with
  | some x => if leads s x ∧ (x.stage = 4 ∨ x.stage = 5) then some x else none
  | none => none

/-- RAKE_MERGE. -/
def execRakeMerge (seq node slot : Nat) (s : State) : Host.Outcome State Fault Refusal :=
  forUnit (decide (node < nodeCount (fanout s)))
    (match mergeSheet s seq with
     | none => .next s
     | some x =>
       match x.slotAt slot with
       | none => .next s
       | some (i, p) =>
         match x.rows[i]? with
         | none => .next s
         | some r =>
           match r.slots[p]? with
           | none => .next s
           | some sl =>
             when' (s.power.logicOn && r.phase == .running && !(sl.nodeAt node).sent && kidsIn s sl node && risesNow x i r sl node)
               (settleStages (mergeAt x i p node r sl s)) s)

/-! ### Gradient packets (R161 to R163) -/

/-- A weight of a stored row decoded to binary32 (R162). -/
def weightVal (f : WFmt) (h : Nat) (rd : Nat → Byte) (i : Nat) : F32 :=
  if f = .bf16 then fOfBf16 (BitVec.ofNat 16 (elemCode f rd i))
  else
    let b := weightBlock f h rd (i / 32)
    fScaled (b.ints.getD (i % 32) 0) b.exp

/-- The 128 decoded weights of chunk `ch` of the row at (L, j). -/
def rowChunkVals (s : State) (c : ImageCfg) (x : Sheet) (l j ch : Nat) : List F32 :=
  if c.arr = 2 ∧ c.cap ≤ j then
    let a := (groupSlot c (groupOf x l ch) (j - c.cap)).toArray
    (List.range 128).map (weightVal c.wfmt 128 (readerOf a))
  else
    let a := residentRow s c l j
    (List.range 128).map fun i => weightVal c.wfmt c.h (readerOf a) (128 * ch + i)

/-- The coefficient of a score in the backward pass's first chunk (R161). -/
def coefAt (s : State) (c : ImageCfg) (x : Sheet) (r : Row) (sl : Slot) (l q j : Nat) : F32 :=
  let t := ((c.leafRows l).getD j (0, false)).1
  let g := gradConsts r sl
  let fb := batchFactor (sheetSfu s x) ((sl.leafAt l).maxima.getD (j / 64) f32Masked) g.1 g.2.1
  if (gradedAt s c x r sl l j t).kind = .valid then
    gradCoef g.2.2 (bufRead s (panOf s l) (bufEntry c q j)) fb (t == r.targetTok)
  else f32Zero

/-- The coefficients of a position: formed in the first chunk, read back from the buffer after it (R161). -/
def coefsAt (s : State) (c : ImageCfg) (x : Sheet) (r : Row) (sl : Slot) (l ch : Nat) : List F32 :=
  let q := r.bufRow.getD 0
  (List.range (c.leafRows l).length).map fun j =>
    if ch = 0 then coefAt s c x r sl l q j else bufRead s (panOf s l) (bufEntry c q j)

/-- Write the coefficients over the row's buffer entries (R161). -/
def storeCoefs (s0 : State) (c : ImageCfg) (r : Row) (l : Nat) (cs : List F32) (s : State) : State :=
  cs.zipIdx.foldl (fun t v => bufWrite (panOf s0 l) (bufEntry c (r.bufRow.getD 0) v.2) v.1 t) s

/-- Columns of one sweep for element `i` of a chunk. -/
def sweepSum (f : WFmt) (k : Nat) (coefs : List F32) (vals : List (List F32)) (i : Nat) : F32 :=
  let n := rowsPerSweep f
  let cols := ((coefs.zip vals).drop (n * k)).take n
  pairSum (if f = .ternary then 7 else 6)
    (cols.map (fun q => fMul q.1 (q.2.getD i f32Zero)) ++ List.replicate (n - cols.length) f32Zero)

/-- SiLU' or the derivative slot at a (R161, R178). -/
def derivFn (s : State) (x : Sheet) (c : ImageCfg) (a : F32) : F32 :=
  if c.actSlot = 7 then siluDeriv (fnSigmoid (sheetGen s x) c.vell) a else fnEval (sheetGen s x) c.vell c.derivSlot a

/-- Gate and up coefficients of a position's units with their rows' weights of a chunk (R161, R162). -/
def unitCols (s : State) (c : ImageCfg) (x : Sheet) (cv : F32) (l ch : Nat) (brine : List IntBlock) : List (F32 × List F32) :=
  (List.range (unitsAt c s.part.leaves l).length).flatMap fun k =>
    let ab := unitAB s c l k brine
    let co := valueCoefs cv (unitDown s c l k) (derivFn s x c ab.1) (actFn s x c ab.1) ab.2
    let vals (up : Bool) : List F32 :=
      let a := unitRow s c l k up
      (List.range 128).map fun i => weightVal c.vhFmt c.h (readerOf a) (128 * ch + i)
    [(co.1, vals false), (co.2, vals true)]

/-- The sum of the value sweep for element `i` (R162). -/
def valueSweep (cols : List (F32 × List F32)) (i : Nat) : F32 :=
  pairSum 6 (cols.map (fun q => fMul q.1 (q.2.getD i f32Zero)) ++ List.replicate (64 - cols.length) f32Zero)

/-- A position's 128 elements of dy for a chunk (R162). -/
def leafDy (s : State) (c : ImageCfg) (x : Sheet) (r : Row) (sl : Slot) (l ch : Nat) (coefs : List F32) : List F32 :=
  let rows := (c.leafRows l).length
  let vals := (List.range rows).map fun j => rowChunkVals s c x l j ch
  let units := if fEq r.cv f32Zero then [] else unitCols s c x r.cv l ch sl.brine
  (List.range 128).map fun i =>
    ((List.range (ceilDiv rows (rowsPerSweep c.wfmt))).map fun k => sweepSum c.wfmt k coefs vals i).foldl fAdd f32Zero
      |> fun a => if fEq r.cv f32Zero then a else fAdd a (valueSweep units i)

/-- Element-by-element left fold of gradient packets (R163). -/
def foldVectors : List (List F32) → List F32
  | [] => []
  | v :: vs => vs.foldl (List.zipWith fAdd) v

/-- The packets that have arrived at a composite for a chunk. -/
def gradArrived (sl : Slot) (n ch : Nat) : List (Nat × List F32) :=
  match sl.grads.find? fun g => g.node == n && g.chunk == ch with
  | some g => g.arrived
  | none => []

/-- Put a composite's packets for a chunk. -/
def putGrads (n ch : Nat) (xs : List (Nat × List F32)) (sl : Slot) : Slot :=
  { sl with grads := ⟨ch, n, xs⟩ :: sl.grads.filter fun g => !(g.node == n && g.chunk == ch) }

/-- A packet rises from child `k` of composite `n`: a composite whose children have all sent theirs folds and passes on the sum, and the
head's sum is dy. Answers the slot, the sum a member sends up, and the timing-dependent choices. `fuel` bounds the levels. -/
def raiseGrad (fs : List Nat) (remote : Nat) (loose : Bool) (ch : Nat) :
    Nat → Nat → Nat → List F32 → Slot → Slot × Option (List F32) × Nat
  | 0, _, _, _, sl => (sl, none, 0)
  | fuel + 1, n, k, xs, sl =>
    let arr := gradArrived sl n ch ++ [(k, xs)]
    let cnt := childCount fs remote n
    if (inChildOrder cnt arr).length < cnt then (putGrads n ch arr sl, none, 0)
    else
      let sum := foldVectors (if loose then arr.map (·.2) else inChildOrder cnt arr)
      let choice := bit01 (loose && !arrivedInOrder cnt arr)
      let sl1 := { sl with grads := sl.grads.filter fun g => !(g.node == n && g.chunk == ch), gradUp := sl.gradUp ++ [(n, ch)] }
      match nodeParent fs n with
      | none => ({ sl1 with dy := sl1.dy ++ [(ch, sum)] }, some sum, choice)
      | some up =>
        let z := raiseGrad fs remote loose ch fuel up.1 up.2 sum sl1
        (z.1, z.2.1, z.2.2 + choice)

/-- dy in index order (R163). -/
def dyOf (h : Nat) (sl : Slot) : List F32 := (List.range h).flatMap fun ch => ((sl.dy.find? fun d => d.1 == ch).map (·.2)).getD []

/-- A GRAD row whose dy is whole is decided: its record takes the gradient and its flag (R163). -/
def finishGrad (hchunks : Nat) (r : Row) : Row :=
  match r.slots.head? with
  | some sl =>
    if sl.dy.length = hchunks then
      let g := dyOf hchunks sl
      let bad := g.any fun v => !fIsFinite v
      { r with
        phase := .done
        result := r.result.map fun q => { q with gradient := g, flags := q.flags + (if bad then 256 else 0) } }
    else r
  | none => r

/-- A packet arrives at composite `n` from child `k`. -/
def gradientArrives (c : ImageCfg) (x : Sheet) (i p n k ch : Nat) (xs : List F32) (s : State) : State :=
  match (x.rows[i]?).bind fun r => (r.slots[p]?).map fun sl => (r, sl) with
  | none => s
  | some (r, sl) =>
    let z := raiseGrad (fanout s) (remoteCount s) (looseOn s) ch (fanout s).length n k xs sl
    let s1 := countLoose z.2.2 (updSheet x.seq (Sheet.updRow i fun q => finishGrad c.hchunks (q.updSlot p fun _ => z.1)) s)
    if x.parentLink.isSome then
      match z.2.1 with
      | some sum => toParent (.vector (r.slot0 + p) sl.ctl.pass (.gradient ch sum)) s1
      | none => s1
    else s1

/-- The position works with units in a row's backward pass (R161). -/
def unitsTurn (s : State) (c : ImageCfg) (r : Row) (l : Nat) : Bool := !fEq r.cv f32Zero && decide (0 < (unitsAt c s.part.leaves l).length)

/-- The pan of a position has read the rows of a chunk, and then its units (R162, R282) (DEDUCED, log entry 164). -/
def noteChunk (c : ImageCfg) (r : Row) (l ch : Nat) (s : State) : State :=
  let n := (c.leafRows l).length
  let k := if c.arr = 2 then min n c.cap else n
  let s1 := if k = 0 then s
    else noteRead (panOf s l) (bankBase c s.brine.live + (k - 1) * c.b + min c.b ((ch + 1) * chunkBytes c.wfmt) - 1) s
  if unitsTurn s c r l then noteUnits c l s1 else s1

/-- A chunk waits for a special-function unit: the first forms the coefficients of the scores, and units have their own (R161, R177) (DESIGN
CHOICE, log entry 131). -/
def chunkStall (c : ImageCfg) (r : Row) (l ch : Nat) (s : State) : State :=
  if (c.leafRows l).length ≠ 0 ∧ (ch = 0 ∨ unitsTurn s c r l) then countStall s else s

/-- A position finishes a chunk of a GRAD row (R161 to R163). -/
def gradientPacket (c : ImageCfg) (x : Sheet) (i p : Nat) (r : Row) (sl : Slot) (l ch : Nat) (s : State) : State :=
  let coefs := coefsAt s c x r sl l ch
  let dy := leafDy s c x r sl l ch coefs
  let s1 := noteChunk c r l ch (if ch = 0 then storeCoefs s c r l coefs s else s)
  let s2 := updSlotAt x.seq i p (fun y => { y with gradSent := y.gradSent ++ [(l, ch)] }) (chunkStall c r l ch s1)
  let up := leafParent (fanout s) l
  match flightSheet s2 x.seq with
  | some y => settleFetch (settleStages (gradientArrives c y i p up.1 up.2 ch dy s2))
  | none => s2

/-- GRADIENT_PACKET: a position works chunk-major over the rows of the backward pass in sheet order (R162). -/
def execGradientPacket (seq leaf slot chunk : Nat) (s : State) : Host.Outcome State Fault Refusal :=
  forUnit (decide (leaf < s.part.leaves))
    (match s.image.cfg, mergeSheet s seq with
     | some c, some x =>
       match x.slotAt slot with
       | none => .next s
       | some (i, p) =>
         match x.rows[i]? with
         | none => .next s
         | some r =>
           match r.slots[p]? with
           | none => .next s
           | some sl =>
             when' (s.power.logicOn && r.phase == .backward && leafWorks s leaf && decide (chunk < c.hchunks) &&
                 chunksSent sl leaf == chunk && takesTurn c s x r p leaf sl && groupsIn c x (workAt c r p leaf sl) leaf)
               (gradientPacket c x i p r sl leaf chunk s) s
     | _, _ => .next s)

end Sys2Proof.Machine
end

