-- ==== Sys2Proof/Machine/HeadOps.lean ====
section
/-!
DEFINITION. Decisions at the head pan: RACE, LEDGER, VERIFY and SCORE rows, further passes, Ledger passes and the backward pass, and the
result fields each mode fills (R116 to R129, R133 to R144, R151 to R157, R160, R161, R164, R167).
-/

namespace Sys2Proof.Machine

/-! ### Flags (Table 10.10) -/

/-- FULLY_MASKED. -/
def flagMasked : Nat := 1
/-- ALL_REJECTED. -/
def flagRejected : Nat := 2
/-- SHORT. -/
def flagShort : Nat := 4
/-- EXTRA_PASS. -/
def flagExtra : Nat := 8
/-- HARVEST_CAPPED. -/
def flagCapped : Nat := 16
/-- DUPLICATE. -/
def flagDup : Nat := 32
/-- TARGET_MASKED. -/
def flagTargetMasked : Nat := 64
/-- TARGET_APPENDED. -/
def flagAppended : Nat := 128
/-- COUNT_FULL. -/
def flagCountFull : Nat := 512
/-- LOGPROB_RECON. -/
def flagRecon : Nat := 1024

/-- A flag where a condition holds. -/
def flagIf (b : Bool) (f : Nat) : Nat := if b then f else 0

/-- LIST_SLOTS (R206) (DEDUCED, log entry 124). -/
def listSlotsOf (r : Row) : Nat :=
  match rowMode r.bytes with
  | some .ledger => r.snap.listLen
  | some .verify => rowD r.bytes + 1
  | some .score => if rowExportK r.bytes = 0 then 0 else rowExportK r.bytes + 1
  | _ => 0

/-- A record with nothing decided, at its index in the packet. -/
def recStart (i : Nat) (r : Row) : ResultRec :=
  { token := noToken, status := 0, mode := rowModeCode r.bytes, row := i, ctx := rowCtx r.bytes, listCount := 0, flags := 0
    logprob := f32Zero, lse := f32Zero, entropy := f32Zero, harvestMass := f32Zero, bitternMass := f32Zero, harvestCount := 0
    validCount := 0, logratio := f32Zero, sqLogratio := f32Zero, value := f32Zero, rmsScale := f32Zero, accepted := 0, hashBlocks := 0
    hash := 0, epoch := 0, rngStep := 0, listSlots := listSlotsOf r, hashPos := 0, list := [], gradient := [] }

/-- A row is decided with a record, the tokens it adds to its context and the rise of its RNG step. -/
def Row.decide (q : ResultRec) (tokens : List Nat) (steps : Nat) (r : Row) : Row :=
  { r with phase := .done, result := some { q with flags := q.flags + flagIf r.dup flagDup }, tokens := tokens, steps := steps }

/-- A fully masked row (Table 6.3, Table 7.2): log-sum-exp −∞, no token. -/
def fullyMasked (i : Nat) (r : Row) : ResultRec := { recStart i r with lse := f32NegInf, flags := flagMasked }

/-- VALID is at least 1 and below K_TOP, at T > 0 (R128). -/
def shortOfK (x : Ctx) (valid : Nat) : Bool := x.temp != f32Zero && x.cuts.kOn && decide (1 ≤ valid) && decide (valid < x.cuts.kTop)

/-- The statistics fields of a record with VALID of at least 1 (R135, R140). -/
def withStats (f : Sfu) (m s w : F32) (valid : Nat) (q : ResultRec) : ResultRec :=
  { q with lse := lseOf f m s, entropy := entropyOf f s w, validCount := valid }

/-- The harvest fields: mass of `c` over S, its bittern mass and the count (R118). -/
def withHarvest (c s : F32) (n : Nat) (q : ResultRec) : ResultRec :=
  { q with harvestMass := harvestMass c s, bitternMass := bitternMass (harvestMass c s), harvestCount := n }

/-- The harvest fields with no cut active (R118, Table 7.2). -/
def withWhole (valid : Nat) (q : ResultRec) : ResultRec :=
  { q with harvestMass := f32One, bitternMass := f32Zero, harvestCount := valid }

/-- The token fields of a winner with graded score g (R136). -/
def withWinner (f : Sfu) (tok : Nat) (g m s : F32) (q : ResultRec) : ResultRec := { q with token := tok, logprob := fSub g (lseOf f m s) }

/-! ### Passes -/

/-- A slot starts another pass. -/
def Slot.repass (ctl : PassCtl) (sl : Slot) : Slot := { sl with ctl := ctl, redo := none, leaves := [], nodes := sl.freshNodes, head := none }

/-- Every slot of a row starts another pass. -/
def Row.repass (ctl : PassCtl) (r : Row) : Row := { r with phase := .running, slots := r.slots.map (Slot.repass ctl) }

/-- The control settings of a further pass (R122 to R124). -/
def furtherCtl (ctl : PassCtl) (x : Ctx) (w : SelWalk) (t : Thresholds) (last : Option Entry) : PassCtl :=
  { ctl with
    pass := ctl.pass + 1, kw := furtherKw x.cuts w.delivered, theta := t.theta, resume := last, level := 0, ref := none, hist := false
    first := false }

/-- The key of R126 for an entry keyed by g. -/
def raceKey (f : Sfu) (x : Ctx) (e : Entry) : F32 := fNoNegZero (fAdd e.key (raceNoise f.log2 x.seed x.rngStep e.tok 0))

/-- One selection pass: the walk goes over its slice (R116, R125, R126). -/
def selectPass (f : Sfu) (x : Ctx) (t : Thresholds) (m : F32) (w : SelWalk) (wind : List Entry) : SelWalk :=
  walkSlice f t m (raceKey f x) { w with passes := w.passes + 1 } wind

/-- The record of a row whose selection has ended (R133, R136, R140, R141, R144). -/
def selectedRec (f : Sfu) (i : Nat) (r : Row) (w : SelWalk) (capped : Bool) (st : Stats) (list : List (Nat × F32 × F32)) : ResultRec :=
  let b := w.best.getD ⟨noToken, f32Zero⟩
  let ask := if r.ledger then r.snap.listLen else 0
  let q := withWinner f b.tok w.bestG st.m st.s (withHarvest w.c st.s w.count (withStats f st.m st.s st.w st.valid (recStart i r)))
  { q with
    list := list, listCount := list.length
    flags := flagIf (shortOfK r.snap st.valid || decide (st.valid < ask)) flagShort + flagIf (decide (1 < w.passes)) flagExtra +
      flagIf capped flagCapped }

/-- After a selection pass: decided, capped, or a further pass (R125). -/
def afterSelection (f : Sfu) (i : Nat) (r : Row) (st : Stats) (t : Thresholds) (wind : List Entry) (ctl : PassCtl)
    (list : List (Nat × F32 × F32)) : Row :=
  let w := selectPass f r.snap t st.m r.walk wind
  let r1 := { r with walk := w, list := list }
  let finish (capped : Bool) : Row :=
    match w.best with
    | some b =>
      { r1 with capped := capped }.decide (selectedRec f i r1 w capped st list) [b.tok] 1
    | none => r1.decide (fullyMasked i r1) [] 1
  match passEnd r.snap.cuts w wind.length ctl.kw with
  | .done => finish false
  | .capped => finish true
  | .more => r1.repass (furtherCtl ctl r.snap w t wind.getLast?)

/-! ### RACE (R133 to R136) -/

/-- The record of a RACE row decided on one entry: the single-candidate race, or a greedy row. -/
def singleRec (f : Sfu) (i : Nat) (r : Row) (st : Stats) (e : Entry) (list : List (Nat × F32 × F32)) : ResultRec :=
  let x := r.snap
  let q := withStats f st.m st.s st.w st.valid (recStart i r)
  let ask := if r.ledger then x.listLen else 0
  let q1 :=
    if x.temp = f32Zero then withHarvest (fAdd f32Zero (expTerm f e.key st.m)) st.s 1 (withWinner f e.tok e.key st.m st.s q)
    else withWhole st.valid
      { withWinner f e.tok (fSub e.key (raceNoise f.log2 x.seed x.rngStep e.tok 0)) st.m st.s q with flags := flagRecon }
  { q1 with list := list, listCount := list.length, flags := q1.flags + flagIf (decide (st.valid < ask)) flagShort }

/-- A RACE row's head-merge output (R133). -/
def headRace (f : Sfu) (i : Nat) (r : Row) (sl : Slot) (o : ChildOut) : Row :=
  let x := r.snap
  let first := (sl.headFirst.map ChildOut.stats).getD o.stats
  let r1 := r.updSlot 0 fun y => { y with headFirst := some (y.headFirst.getD o) }
  if first.valid = 0 then r1.decide (fullyMasked i r) [] 1
  else if x.temp = f32Zero ∨ !x.cuts.anyOn then
    match o.wind with
    | e :: _ => r1.decide (singleRec f i r first e []) [e.tok] 1
    | [] => r1.decide (fullyMasked i r) [] 1
  else afterSelection f i r1 first (thresholdsOf f x.cuts first.m first.s) o.wind sl.ctl []

/-! ### LEDGER (R138 to R141) -/

/-- A LEDGER row's head-merge output: passes 1 and 2 wait for the sheet's other LEDGER rows (R139), later passes select. -/
def headLedger (f : Sfu) (i : Nat) (r : Row) (sl : Slot) (o : ChildOut) : Row :=
  let x := r.snap
  if sl.ctl.pass = 1 then
    let r1 := r.updSlot 0 fun y => { y with headFirst := some o }
    if o.stats.valid = 0 then r1.decide (fullyMasked i r) [] 1 else { r1 with phase := .ledgerWait }
  else
    let first := (sl.headFirst.map ChildOut.stats).getD o.stats
    if sl.ctl.pass = 2 then
      { r.updSlot 0 fun y => { y with headFirst := some { o with stats := { o.stats with valid := first.valid } } } with
        phase := .ledgerWait }
    else
      let list := (r.list ++ o.wind.map (ledgerItem f first.m first.s)).take x.listLen
      if x.temp = f32Zero then
        match o.wind with
        | e :: _ => r.decide (singleRec f i r first e list) [e.tok] 1
        | [] => r.decide (fullyMasked i r) [] 1
      else afterSelection f i r first (thresholdsOf f x.cuts first.m first.s) o.wind sl.ctl list

/-- The next pass of a LEDGER row that waited (Table 7.1). -/
def ledgerNext (r : Row) : PassCtl :=
  let m := ((r.slots.head?.bind Slot.headFirst).map fun o => o.stats.m).getD f32Masked
  let ctl := (r.slots.head?.map Slot.ctl).getD ctlStart
  if ctl.pass = 1 then { ctl with pass := 2, kw := 1, theta := f32PosInf, level := 2, ref := some m, hist := true, fromBuffer := true, first := false }
  else
    { ctl with
      pass := 3, kw := max 1 (max r.snap.listLen (raceKw r.snap)), theta := f32NegInf, level := 0, ref := none, hist := false
      fromBuffer := true, first := false }

/-- The pass a row has reached. -/
def Row.passNo (r : Row) : Nat := (r.slots.head?.map fun sl => sl.ctl.pass).getD 0

/-- The statistics of a LEDGER row's pass `p` have reached the head pan. -/
def ledgerPast (p : Nat) (r : Row) : Bool :=
  !r.ledger || r.phase == .done || decide (p < r.passNo) || (r.phase == .ledgerWait && r.passNo == p)

/-- The rows that wait after a pass whose statistics are all in start the next together (R139) (DEDUCED, log entry 41). -/
def ledgerIssued (x : Sheet) (r : Row) : Bool := r.phase == .ledgerWait && x.rows.all (ledgerPast r.passNo)

/-! ### VERIFY (R150 to R153, R167) -/

/-- What the walk of a VERIFY row reads. -/
def verifyCtx (r : Row) : VerifyCtx :=
  { noised := r.snap.temp != f32Zero, seed := r.snap.seed, rngStep := r.snap.rngStep, nodes := recNodes r.bytes
    outs := r.slots.map fun sl => match sl.head with | some o => ⟨o.stats, o.wind, o.reports⟩ | none => ⟨statsEmpty 2 false false, [], []⟩ }

/-- A VERIFY row's decision. -/
def headVerify (f : Sfu) (i : Nat) (r : Row) : Row :=
  let v := verifyCtx r
  let w := verifyRow f v
  match v.outs.head?, w.emitted with
  | some o, e :: _ =>
    let list := w.emitted.map (verifyItem f v)
    let q := withWinner f e.tok e.g o.stats.m o.stats.s (withWhole o.stats.valid
      (withStats f o.stats.m o.stats.s o.stats.w o.stats.valid (recStart i r)))
    r.decide
      { q with
        list := list, listCount := list.length, accepted := w.accepted
        flags := flagIf (w.accepted == 0 && w.emitted.length == 1) flagRejected + flagIf e.recon flagRecon }
      (w.emitted.map Emitted.tok) w.emitted.length
  | _, _ => r.decide (fullyMasked i r) [] 0

/-! ### SCORE (R157, R158, R164) -/

/-- The export list of a SCORE row and whether TARGET was appended (R164). -/
def exportList (f : Sfu) (st : Stats) (kappa : F32) (k target : Nat) (gt : F32) (wind : List Entry) : List (Nat × F32 × F32) × Bool :=
  if k = 0 then ([], false)
  else
    let es := wind.take k
    let items := es.map fun e => exportItem f st.m st.s kappa target e.tok e.key
    if gt = f32Masked ∨ es.any fun e => e.tok == target then (items, false)
    else (items ++ [exportItem f st.m st.s kappa target target gt], true)

/-- The record of a SCORE row (R157, R158, R164, Table 8.5). A fully masked row carries NO_TOKEN (Table 0.8) (DEDUCED, log entry 123). -/
def scoreRec (c : ImageCfg) (f : Sfu) (i : Nat) (r : Row) (sl : Slot) (o : ChildOut) : ResultRec :=
  let st := o.stats
  let gt := reportOf o.reports r.targetTok
  let fw := scoreForward f st.m st.s gt (if rowHasRef r.bytes then some (rowRefLp r.bytes) else none)
  let k := rowExportK r.bytes
  let ex := exportList f st (kappaOf (rowCl r.bytes) sl.params.invT) k r.targetTok gt o.wind
  let q : ResultRec := { recStart i r with value := fAdd o.value c.valueBias, rmsScale := r.rms }
  let q1 :=
    if st.valid = 0 then { q with lse := f32NegInf, flags := flagMasked }
    else
      let q2 := withStats f st.m st.s st.w st.valid { q with token := r.targetTok }
      let n := (o.wind.take k).length
      if k = 0 then { withWhole st.valid q2 with harvestCount := 0 }
      else withHarvest (((o.wind.take k).map fun e => expTerm f e.key st.m).foldl fAdd f32Zero) st.s n q2
  { q1 with
    logprob := fw.logprob, logratio := fw.logratio, sqLogratio := fw.sqLogratio, list := ex.1, listCount := ex.1.length
    flags := q1.flags + flagIf fw.masked flagTargetMasked + flagIf ex.2 flagAppended +
      flagIf (decide (1 ≤ st.valid) && decide (st.valid < k)) flagShort
    gradient := if r.grad && fw.masked then List.replicate c.h f32Zero else [] }

/-- A SCORE row's forward outputs: decided, or waiting for the backward pass (R157, R161). -/
def headScore (c : ImageCfg) (f : Sfu) (i : Nat) (r : Row) (sl : Slot) (o : ChildOut) : Row :=
  let q := scoreRec c f i r sl o
  let d := (r.updSlot 0 fun y => { y with headFirst := some o }).decide q (if rowAppend r.bytes then [r.targetTok] else []) 0
  if r.grad ∧ reportOf o.reports r.targetTok ≠ f32Masked then { d with phase := .gradWait } else d

/-- GRAD rows whose forward statistics are all in start the backward pass together (R161) (DEDUCED, log entry 41). -/
def gradIssued (x : Sheet) (r : Row) : Bool :=
  r.phase == .gradWait && x.rows.all fun q => !q.grad || q.phase != .running

/-! ### HEAD_PASS_END -/

/-- The head pan's work on a row whose pass has reached it. -/
def headRow (c : ImageCfg) (f : Sfu) (i : Nat) (r : Row) : Row :=
  match r.slots with
  | sl :: _ =>
    match sl.head, rowMode r.bytes with
    | some o, some .race => headRace f i r sl o
    | some o, some .ledger => headLedger f i r sl o
    | some _, some .verify => headVerify f i r
    | some o, some .score => headScore c f i r sl o
    | _, _ => r
  | [] => r

/-- Child number of remote child `k` at the head merge (R37). -/
def remoteIndex (s : State) (k : Nat) : Nat := (fanout s).getD 0 0 + k

/-- A remote child has gradient packets of a slot's backward pass still to send (R163). -/
def owesGrads (s : State) (k : Nat) (sl : Slot) : Bool :=
  (List.range ((s.image.cfg.map ImageCfg.hchunks).getD 0)).any fun ch =>
    !sl.gradUp.contains (0, ch) && !(gradArrived sl 0 ch).any fun q => q.1 == remoteIndex s k

/-- A sheet's remote child has something to send for it: outputs, gradient packets, or those of slots still to be opened (R273) (DEDUCED,
log entry 101). -/
def childOwes (s : State) (k : Nat) (x : Sheet) : Bool :=
  decide (x.rows.length < x.slotsDue) ||
  x.rows.any fun r => r.slots.any fun sl => decide (0 < spGet 0 sl.due k) || (r.phase == .backward && owesGrads s k sl)

/-- A sheet that a child holds in stages 3 to 5: it owes something for it, or a row of it may take a further pass, so that the child works on
the sheet and sends PROGRESS (R273) (DEDUCED, log entry 101; DESIGN CHOICE, log entry 188). -/
def heldBelow (s : State) (k : Nat) (x : Sheet) : Bool := domOpen s x && (childOwes s k x || x.rows.any Row.passesOn)

/-- Before a pass: the time of a child that no longer held the sheet starts again (R273) (DEDUCED, log entry 101). -/
def renewIdle (seq : Nat) (s : State) : State :=
  updSheet seq (fun x => { x with upAt := x.upAt.map fun u => if heldBelow s u.1 x then u else (u.1, s.tide.osc) }) s

/-- Tell the children of the sheet a row's pass (R267); each then owes the pass's output. -/
def sendPass (seq i : Nat) (r : Row) (backward : Bool) (s : State) : State :=
  match flightSheet s seq with
  | none => s
  | some x =>
    let s1 := r.slots.zipIdx.foldl (fun t q => toKids x (.pass (r.slot0 + q.2) (ctlWord seq i r q.1 backward)) t) s
    if backward then s1
    else updSheet seq (Sheet.updRow i fun q => { q with slots := q.slots.map (Slot.ask (sheetKids s x)) }) s1

/-- Count a decided row's capped harvest (R125). -/
def countSelection (r : Row) (s : State) : State := s.updCa fun a => { a with selCapped := a.selCapped + word (bit01 r.capped) }

/-- A row takes a further pass: its first one counts in CTL_SEL_EXTRA, whatever becomes of the row (R122, R132) (DEDUCED, log entry 136). -/
def takeFurther (seq i : Nat) (r : Row) (s : State) : State :=
  if r.extra then s
  else (updSheet seq (Sheet.updRow i fun q => { q with extra := true }) s).updCa fun a => { a with selExtra := a.selExtra + 1 }

/-- A row is in a further pass that no position has begun. -/
def Row.passAhead (r : Row) : Bool := r.phase == .running && r.slots.all fun sl => !sl.ctl.first && sl.leaves.isEmpty

/-- A row's further pass reads the score buffer. -/
def Row.buffersPass (r : Row) : Bool := r.slots.any fun sl => sl.ctl.fromBuffer

/-- The pass issued last is a further one, of the row's kind, that has not yet taken any array: the row takes it too (R123) (DEDUCED, log
entry 135). -/
def joinsLast (x : Sheet) (r : Row) : Bool :=
  let last := x.rows.filter fun q => q.issue + 1 == x.issues && q.phase != .done
  !last.isEmpty && last.all fun q => q.passAhead && q.buffersPass == r.buffersPass

/-- The row numbered `i` takes a further pass with the rows that wait for the arrays, else the next (R123, R127) (DEDUCED, log entry 135). -/
def issueFurther (x : Sheet) (i : Nat) (r : Row) (s : State) : State :=
  if joinsLast x r then updSheet x.seq (Sheet.updRow i fun q => { q with issue := x.issues - 1 }) s else issueRows x.seq [i] s

/-- Issue what the sheet's waiting rows wait for: Ledger passes and the backward pass (R139, R161). -/
def issueWaiting (seq : Nat) (s : State) : State :=
  match flightSheet s seq with
  | none => s
  | some x =>
    let led := x.rows.zipIdx.filter fun q => ledgerIssued x q.1
    let grd := x.rows.zipIdx.filter fun q => gradIssued x q.1
    let s1 := led.foldl (fun t q =>
      let r := q.1.repass (ledgerNext q.1)
      sendPass seq q.2 r false (updSheet seq (Sheet.updRow q.2 fun _ => r) t)) s
    let s2 := grd.foldl (fun t q =>
      let r := { q.1 with phase := .backward }
      sendPass seq q.2 r true (updSheet seq (Sheet.updRow q.2 fun _ => r) t)) (issueRows seq (led.map (·.2)) s1)
    issueRows seq (grd.map (·.2)) s2

/-- A row's pass ends at the head pan. -/
def headPassEnd (c : ImageCfg) (x : Sheet) (i : Nat) (r : Row) (s : State) : State :=
  let r1 := headRow c (sheetSfu s x) i r
  let s1 := updSheet x.seq (Sheet.updRow i fun _ => r1) (renewIdle x.seq s)
  let s2 := if r1.phase = .done then countSelection r1 s1 else s1
  let s3 :=
    if r1.phase = .running then sendPass x.seq i r1 false (issueFurther x i r1 (takeFurther x.seq i r1 s2))
    else s2
  settleFetch (settleStages (issueWaiting x.seq s3))

/-- HEAD_PASS_END: every slot of the row's pass has reached the head pan. -/
def execHeadPassEnd (seq row : Nat) (s : State) : Host.Outcome State Fault Refusal :=
  match s.image.cfg, mergeSheet s seq with
  | some c, some x =>
    match x.rows[row]? with
    | some r =>
      when' (s.power.logicOn && x.parentLink.isNone && r.phase == .running && decide (0 < r.slots.length) &&
          r.slots.all fun sl => sl.head.isSome)
        (headPassEnd c x row r s) s
    | none => .next s
  | _, _ => .next s

end Sys2Proof.Machine
end

