-- ==== Sys2Proof/Machine/CommitOps.lean ====
section
/-!
DEFINITION. The commit of a sheet as one event: statuses and flags, context updates in sheet order, epochs, re-pins, the RESULT packet and
what a commit lets go on (R7, R8, R17 to R19, R145, R155, R165, R198 to R208, R228).
-/

namespace Sys2Proof.Machine

/-- The highest failure code of Table 0.8 among a row's conditions, 0 where there is none. -/
def failStatus (f : FailFlags) : Nat :=
  if f.adapter then 0x14 else if f.overflow then 0x13 else if f.partnerLost then 0x12 else if f.aborted then 0x11
  else if f.poisoned then 0x10 else 0

/-- Bits 11 to 15 of FLAGS (Table 10.10). -/
def failBits (f : FailFlags) : Nat :=
  flagIf f.poisoned 2048 + flagIf f.aborted 4096 + flagIf f.partnerLost 8192 + flagIf f.overflow 16384 + flagIf f.adapter 32768

/-- The status of a row that did not fail: the highest of 0x01 to 0x04 that applies (R7). -/
def okStatus (flags : Nat) : Nat :=
  if bitOf flags 3 then 4 else if bitOf flags 2 then 3 else if bitOf flags 1 then 2 else if bitOf flags 0 then 1 else 0

/-- A failed row's record (R205). -/
def failedRec (i : Nat) (r : Row) : ResultRec :=
  { recStart i r with status := failStatus r.fail, flags := failBits r.fail, listSlots := 0 }

/-- A row with its cancellation judged: a CANCEL ordered after the sheet has made its context CLOSING (R201). -/
def judgeCancel (s : State) (x : Sheet) (r : Row) : Row :=
  if s.pipe.closings.any fun k => decide (x.order < k.order) && k.ctx == rowCtx r.bytes then r.poison else r

/-- One row applied to its context: its record without the epoch, and the context after it (R198, R199, R205). -/
def applyRow (i : Nat) (r : Row) (s : State) : ResultRec × State :=
  match r.fail.any, r.result with
  | false, some q =>
    let c := rowCtx r.bytes
    let e := applyTokens ⟨ctxAt s c, 0, 0, 0⟩ r.tokens
    let x := { e.ctx with rngStep := e.ctx.rngStep + BitVec.ofNat 64 r.steps }
    let flags := q.flags + flagIf (decide (0 < e.drops)) flagCountFull
    ({ q with
       flags := flags, status := okStatus flags, hashBlocks := e.blocks, hash := e.hash, rngStep := x.rngStep, hashPos := x.hashPos },
     (putCtx c x s).updCb fun k => { k with countDrops := k.countDrops + word e.drops })
  | _, _ => (failedRec i r, s)

/-- The rows of a sheet applied in sheet order. -/
def applyRows : Nat → List Row → State → List ResultRec × State
  | _, [], s => ([], s)
  | i, r :: rs, s =>
    let a := applyRow i r s
    let b := applyRows (i + 1) rs a.2
    (a.1 :: b.1, b.2)

/-- Contexts that a committed row names, each once. -/
def committedCtxs (rows : List Row) : List Nat := ((rows.filter fun r => !r.fail.any).map fun r => rowCtx r.bytes).eraseDups

/-- EPOCH rises by 1 for each of them (R200). -/
def raiseEpochs (cs : List Nat) (s : State) : State :=
  cs.foldl (fun t c => putCtx c { ctxAt t c with epoch := (ctxAt t c).epoch + 1 } t) s

/-- The contexts a sheet names whose version has a successor with MOVE take it now (R228) (DEDUCED, log entry 28). -/
def moveNamed (x : Sheet) (s : State) : State :=
  let due := s.adapters.moves.filter fun m => x.ctxs.contains m.1
  let s1 := due.foldl (fun t m => if (ctxAt t m.1).pin = m.2 then putCtx m.1 (rePin t (ctxAt t m.1)) t else t) s
  s1.updAdapters fun a => { a with moves := a.moves.filter fun m => !x.ctxs.contains m.1 }

/-- The epoch a record reports: the context's after the commit, 0 when the context is not OPEN (R205). -/
def recEpoch (s : State) (q : ResultRec) : Dword :=
  if q.ctx ≤ 511 ∧ (ctxAt s q.ctx).phase = .opened then (ctxAt s q.ctx).epoch else 0

/-- Counters of committed VERIFY and SCORE rows; nodes that the walk of a failed row accepted do not count (R168) (DESIGN CHOICE, log entry
168). -/
def countCommitted (rows : List Row) (recs : List ResultRec) (s : State) : State :=
  let ok := (rows.zip recs).filter fun q => !q.1.fail.any
  let ver := ok.filter fun q => q.1.verify
  s.updCa fun a =>
    { a with
      verNodes := a.verNodes + word (ver.map fun q => rowD q.1.bytes).sum
      verAccepted := a.verAccepted + word (ver.map fun q => q.2.accepted).sum
      verAllRej := a.verAllRej + word (ver.filter fun q => q.2.status == 2).length
      scoreTmask := a.scoreTmask + word (ok.filter fun q => q.1.score && bitOf q.2.flags 6).length }

/-- The records of a sheet and the state after its context updates. -/
def commitRecords (x : Sheet) (s : State) : List ResultRec × State :=
  let rows := x.rows.map (judgeCancel s x)
  let a := applyRows 0 rows s
  let s1 := moveNamed x (raiseEpochs (committedCtxs rows) a.2)
  (a.1.map fun q => { q with epoch := recEpoch s1 q }, countCommitted rows a.1 s1)

/-- The commit: contexts, record packet, SEQ, then what waited for it (R17, R198 to R205). -/
def commitSheet (x : Sheet) (s : State) : State :=
  let a := commitRecords x s
  let s1 := a.2.updPipe fun p => { p with flight := p.flight.filter fun y => y.seq != x.seq, lastSeq := word x.seq }
  let s2 := produce x.port x.tag (BitVec.ofNat 64 x.seq) 0 (.result a.1) s1
  settleStages (settleAdapters (settleClosings s2))

/-- A READ ordered before the sheet on one of its contexts has not been taken (R196). -/
def readsBefore (s : State) (x : Sheet) : Bool :=
  s.pipe.ops.any fun o => decide (o.order < x.order) && x.ctxs.contains (ctxNum o.bytes)

/-- Bytes of a sheet's RESULT packet. -/
def resultLen (x : Sheet) (s : State) : Nat := 64 + ((commitRecords x s).1.map ResultRec.len).sum

/-- No admitted child still owes an output of the sheet (R273). -/
def childrenDone (s : State) (x : Sheet) : Bool :=
  x.rows.all fun r => r.slots.all fun sl => sl.due.all fun d => !childIn s d.1 || d.2 == 0

/-- SHEET_COMMIT: sheets commit in their order, once every row has ended and the packet fits the egress buffer (R12, R19, R208) (DESIGN
CHOICE, log entry 130). -/
def execSheetCommit (s : State) : Host.Outcome State Fault Refusal :=
  match s.pipe.flight.find? fun x => x.parentLink.isNone with
  | some x => when' (s.power.logicOn && x.stage == 6 && childrenDone s x && !readsBefore s x && egressFits (resultLen x s) s) (commitSheet x s) s
  | none => .next s

/-! ### Egress waits (CTL_EGRESS_STALL) -/

/-- The first packet of a port waits for host credits. -/
def portWaits (s : State) (p : Nat) : Bool :=
  match s.ports.out.find? fun x => x.port == p with
  | some x => !(portAt s.ports p).rst && decide ((portAt s.ports p).egress < units x.len)
  | none => false

/-- The engine with an empty egress buffer, to ask what waits for space alone. -/
def noOutput (s : State) : State := s.updPorts fun p => { p with out := [] }

/-- The first sheet's commit waits for egress space. -/
def commitWaits (s : State) : Bool :=
  match s.pipe.flight.find? fun x => x.parentLink.isNone with
  | some x => x.stage == 6 && childrenDone s x && !readsBefore s x && !egressFits (resultLen x s) s
  | none => false

/-- An operation or a closing context waits for egress space. -/
def opWaits (s : State) : Bool :=
  (s.pipe.ops.any fun o => opReady (noOutput s) o && !opReady s o) ||
  s.pipe.closings.any fun x => closingReady (noOutput s) x && !closingReady s x

/-- A commit or an operation waits for egress space, or a packet for host credits (DESIGN CHOICE, log entry 91). -/
def egressWaits (s : State) : Bool := portWaits s 0 || portWaits s 1 || commitWaits s || opWaits s

/-- One tick of a wait at egress (DESIGN CHOICE, log entry 91). -/
def stallTick (s : State) : State :=
  if s.power.logicOn && egressWaits s then s.updCb fun c => { c with egressStall := c.egressStall + 1 } else s

end Sys2Proof.Machine
end

