-- ==== Sys2Proof/Machine/ImageFile.lean ====
section
/-!
DEFINITION. The Chegazia image as bytes (16_image.md R315 to R324; 02_pans_and_tree.md R33, R37, R44): its header, directory and
sections, the refusals of Table 16.5 in their order, and the settings it carries.
-/

namespace Sys2Proof.Machine

/-- `n` bytes of an array from an offset, zeros beyond its end. -/
def arrBytes (a : Array Byte) (off n : Nat) : List Byte := (List.range n).map fun i => a.getD (off + i) 0

/-- The little-endian number in `n` bytes of an array. -/
def arrLe (a : Array Byte) (off n : Nat) : Nat := leNat (arrBytes a off n)

/-- Whether `n` bytes of an array are zero. -/
def arrZero (a : Array Byte) (off n : Nat) : Bool := (List.range n).all fun i => a.getD (off + i) 0 == 0

/-! ### Header and directory (R315, R316) -/

/-- TOTAL_LEN. -/
def imgTotal (a : Array Byte) : Nat := arrLe a 16 8

/-- N_SECTIONS. -/
def imgSections (a : Array Byte) : Nat := arrLe a 24 2

/-- IMAGE_VERSION. -/
def imgVersion (a : Array Byte) : Word := BitVec.ofNat 32 (arrLe a 8 4)

/-- The header of Table 16.1 is good (DEDUCED, log entry 79). -/
def imgHeaderOk (a : Array Byte) : Bool :=
  arrLe a 0 4 == 0x47454843 && arrLe a 4 2 == 1 && decide (64 ≤ imgTotal a) && imgTotal a % 64 == 0 &&
  decide (2 ≤ imgSections a) && decide (imgSections a ≤ 16) && arrZero a 26 2 &&
  crc32c (arrBytes a 0 28) == BitVec.ofNat 32 (arrLe a 28 4) && arrZero a 32 32

/-- A directory entry. -/
structure DirEnt where
  type : Nat
  sver : Nat
  crc : Word
  off : Nat
  len : Nat
deriving DecidableEq, Repr

/-- The section directory. -/
def imgDir (a : Array Byte) : List DirEnt :=
  (List.range (imgSections a)).map fun i =>
    let o := 64 + 24 * i
    ⟨arrLe a o 2, arrLe a (o + 2) 2, BitVec.ofNat 32 (arrLe a (o + 4) 4), arrLe a (o + 8) 8, arrLe a (o + 16) 8⟩

/-- Section types of Table 16.2. -/
def secTypes : List Nat := [1, 2, 3, 4, 5, 6, 7, 8, 9, 0xFFFF]

/-- End of the padded directory. -/
def dirEnd (a : Array Byte) : Nat := 64 + pad64 (24 * imgSections a)

/-- A length that a section's type alone fixes (Table 16.5, DIRECTORY). -/
def fixedLenOk (e : DirEnt) : Bool :=
  if e.type = 1 then e.len == 256 else if e.type = 6 then e.len == 65536 else if e.type = 7 ∨ e.type = 9 then e.len == 64
  else if e.type = 0xFFFF then decide (64 ≤ e.len) && decide (e.len ≤ 4096) else true

/-- Entry `i` obeys R316 after the entries before it (DEDUCED, log entry 79). -/
def dirEntryOk (a : Array Byte) (es : List DirEnt) (i : Nat) (e : DirEnt) : Bool :=
  let before := es.take i
  let start := match before.getLast? with | some p => p.off + p.len | none => dirEnd a
  secTypes.contains e.type && !(before.any fun p => p.type == e.type) && e.sver == 1 && e.off % 64 == 0 && decide (start ≤ e.off) &&
  decide (e.off + e.len ≤ imgTotal a) && fixedLenOk e &&
  (e.type != 0xFFFF || (i + 1 == es.length && e.off + e.len == imgTotal a))

/-- The section of a type, with its directory index. -/
def secOf (a : Array Byte) (t : Nat) : Option (Nat × DirEnt) :=
  (imgDir a).zipIdx.findSome? fun q => if q.1.type = t then some (q.2, q.1) else none

/-- Directory index of a section, 31 for an absent one (R325) (DEDUCED, log entry 81). -/
def secIdx (a : Array Byte) (t : Nat) : Nat := match secOf a t with | some q => q.1 | none => 31

/-- Offset of a section. -/
def secOff (a : Array Byte) (t : Nat) : Nat := match secOf a t with | some q => q.2.off | none => 0

/-- Length of a section, 0 for an absent one. -/
def secLen (a : Array Byte) (t : Nat) : Nat := match secOf a t with | some q => q.2.len | none => 0

/-- A section is present. -/
def hasSec (a : Array Byte) (t : Nat) : Bool := (secOf a t).isSome

/-- DIRECTORY without the presence rules that STRUCTURE decides. -/
def dirFault (a : Array Byte) : Option (Nat × Nat) :=
  let es := imgDir a
  if imgTotal a < dirEnd a ∨ !arrZero a (64 + 24 * es.length) (dirEnd a - (64 + 24 * es.length)) then some (2, 31)
  else
    match es.zipIdx.find? fun q => !dirEntryOk a es q.2 q.1 with
    | some q => some (2, q.2)
    | none => if hasSec a 1 ∧ hasSec a 2 ∧ hasSec a 3 ∧ hasSec a 0xFFFF then none else some (2, 31)

/-- A section's bytes have the CRC of its entry. -/
def secCrcOk (a : Array Byte) (e : DirEnt) : Bool := crc32c (arrBytes a e.off e.len) == e.crc

/-- CRC. -/
def crcFault (a : Array Byte) : Option (Nat × Nat) :=
  ((imgDir a).zipIdx.find? fun q => !secCrcOk a q.1).map fun q => (3, q.2)

/-- TARGET. -/
def targetFault (p : Part) (a : Array Byte) : Option (Nat × Nat) :=
  if arrLe a 6 1 ≠ p.variant ∨ (arrLe a 7 1 ≠ 0 ∧ arrLe a 7 1 ≠ 1) then some (4, 31) else none

/-! ### STRUCTURE, LIMITS, REPRO (R317, R321, R323) -/

/-- A number of a section. -/
def secLe (a : Array Byte) (t off n : Nat) : Nat := arrLe a (secOff a t + off) n

/-- The fan-out list. -/
def imgFanout (a : Array Byte) : List Nat := (List.range (secLe a 1 7 1)).map fun i => secLe a 1 (8 + i) 1

/-- STRUCTURE obeys R317 (Table 16.3, R33, R37, R48) (DEDUCED, log entry 78). -/
def structOk (p : Part) (a : Array Byte) : Bool :=
  let u (off n : Nat) : Nat := secLe a 1 off n
  let depth := u 7 1
  decide (u 0 1 ≤ 6) && decide (u 1 1 ≤ 2) && decide (u 2 1 ≤ 2) && decide (u 3 1 ≤ 1) &&
  decide (1 ≤ u 4 2) && decide (u 4 2 ≤ 128) && decide (u 6 1 ≤ 56) && decide (1 ≤ depth) && decide (depth ≤ 10) &&
  ((imgFanout a).all fun f => decide (2 ≤ f) && decide (f ≤ 16)) && (imgFanout a).foldl (· * ·) 1 == p.leaves &&
  arrZero a (secOff a 1 + 8 + depth) (10 - depth) && decide (u 18 1 ≤ 14) && decide ((imgFanout a).getD 0 0 + u 18 1 ≤ 16) &&
  decide (u 19 1 ≤ 6) && (u 32 2 != 0 || u 19 1 == 0) && decide (1 ≤ u 20 4) && decide (u 20 4 ≤ 4194304) &&
  fIsFinite (BitVec.ofNat 32 (u 24 4)) && decide (0x00800000 ≤ u 24 4) && decide (u 24 4 < 0x7F800000) &&
  fIsFinite (BitVec.ofNat 32 (u 28 4)) && decide (u 32 2 ≤ 1024) && decide (1 ≤ u 34 1) && decide (u 34 1 ≤ 31) &&
  decide (u 35 1 ≤ 31) && arrZero a (secOff a 1 + 36) 220

/-- LIMITS obeys Table 16.4. -/
def limitsOk (a : Array Byte) : Bool :=
  let u (off n : Nat) : Nat := secLe a 7 off n
  decide (50 ≤ u 0 4) && decide (u 0 4 ≤ 10000) && decide (10 ≤ u 4 4) && decide (u 4 4 ≤ 100000) && decide (1 ≤ u 8 1) &&
  decide (u 8 1 ≤ 15) && decide (1 ≤ u 9 1) && decide (u 9 1 ≤ 16) && arrZero a (secOff a 7 + 10) 54

/-- R2: Vell only where the configuration offers it. -/
def vellOk (p : Part) (a : Array Byte) : Bool := !hasSec a 9 || secLe a 9 1 1 != 1 || p.vell

/-- REPRO obeys R323, and R2 for the configuration. -/
def reproOk (p : Part) (a : Array Byte) : Bool :=
  decide (secLe a 9 0 1 ≤ 1) && decide (secLe a 9 1 1 ≤ 1) && arrZero a (secOff a 9 + 2) 62 && vellOk p a

/-- STRUCTURE (0x5): an image that R2 refuses reports REPRO, where COMPAT stands (DESIGN CHOICE, log entry 165). -/
def structFault (p : Part) (a : Array Byte) : Option (Nat × Nat) :=
  if !structOk p a then some (5, secIdx a 1)
  else if hasSec a 7 ∧ !limitsOk a then some (5, secIdx a 7)
  else if hasSec a 9 ∧ !reproOk p a then some (5, secIdx a 9)
  else none

/-- The presence rules of R316, judged only where STRUCTURE passes its CRC and R317, R2 among its rules (DESIGN CHOICE, log entry 165). -/
def presenceFault (p : Part) (a : Array Byte) : Option (Nat × Nat) :=
  match secOf a 1 with
  | some q =>
    if secCrcOk a q.2 ∧ structOk p a ∧ vellOk p a then
      (if (secLe a 1 2 1 ≤ 1 ∧ !hasSec a 4) ∨ (decide (0 < secLe a 1 32 2) ≠ hasSec a 5) then some (2, 31) else none)
    else none
  | none => none

/-! ### PARTITION, WEIGHTS, GAIN, VALUE_HEAD (R318 to R320) -/

/-- The rows that PARTITION lists, by leaf: token words; none where its row counts do not fill it. The walk stops at a count above
4,096. -/
def walkPartition (a : Array Byte) (stop : Nat) : Nat → Nat → Option (List (List Nat))
  | 0, off => if off = stop then some [] else none
  | n + 1, off =>
    let r := arrLe a off 4
    if stop < off + 4 + 4 * r then none
    else (walkPartition a stop n (off + 4 + 4 * r)).map fun t => ((List.range r).map fun i => arrLe a (off + 4 + 4 * i) 4) :: t

/-- A row count above 4,096 met by the walk. -/
def badCount (a : Array Byte) (stop : Nat) : Nat → Nat → Bool
  | 0, _ => false
  | n + 1, off =>
    let r := arrLe a off 4
    decide (off + 4 ≤ stop) && (decide (4096 < r) || (decide (off + 4 + 4 * r ≤ stop) && badCount a stop n (off + 4 + 4 * r)))

/-- PARTITION's token words. -/
def imgPartition (p : Part) (a : Array Byte) : Option (List (List Nat)) :=
  walkPartition a (secOff a 2 + secLen a 2) p.leaves (secOff a 2)

/-- A token word as token and FROZEN (R318). -/
def tokenOf (w : Nat) : Nat × Bool := (w % 2 ^ 22, bitOf w 31)

/-- Children that REACH names (R322). -/
def imgChildren (a : Array Byte) : List ChildCfg :=
  (List.range (secLe a 8 3 1)).map fun i =>
    ⟨secLe a 8 (64 + 16 * i) 2, secLe a 8 (66 + 16 * i) 2, BitVec.ofNat 64 (secLe a 8 (72 + 16 * i) 8)⟩

/-- The settings of an image, its rows taken from `ws` (R315 to R323). -/
def imgCfg (a : Array Byte) (ws : List (List Nat)) : ImageCfg :=
  let u (off n : Nat) : Nat := secLe a 1 off n
  let opt {α : Type} (t : Nat) (v d : α) : α := if hasSec a t then v else d
  { version := imgVersion a, zynfein := BitVec.ofNat 32 (arrLe a 12 4), wfmt := (wFmtOf (u 0 1)).getD .mxfp4, arr := u 1 1
    norm := if u 2 1 = 0 then .rmsGain else if u 2 1 = 1 then .gainOnly else .none
    policy := if u 3 1 = 0 then .clamp else .poison
    hchunks := u 4 2, boundExp := u 6 1, fanout := imgFanout a, remote := u 18 1, vhFmt := (wFmtOf (u 19 1)).getD .mxfp4, vocab := u 20 4
    eps := BitVec.ofNat 32 (u 24 4), valueBias := BitVec.ofNat 32 (u 28 4), vhUnits := u 32 2, actSlot := u 34 1, derivSlot := u 35 1
    rows := ws.map fun l => l.map tokenOf
    gain := opt 4 ((List.range (128 * u 4 2)).map fun i => BitVec.ofNat 16 (secLe a 4 (2 * i) 2)) (List.replicate (128 * u 4 2) 0x3F80#16)
    wdog := opt 7 (secLe a 7 0 4) 200, ovfLimit := opt 7 (secLe a 7 4 4) 500, modes := opt 7 (secLe a 7 8 1) 15
    passCap := opt 7 (secLe a 7 9 1) 16, role := opt 8 (secLe a 8 0 1) 0, tide := opt 8 (secLe a 8 1 1) 0
    allowOverlap := hasSec a 8 && secLe a 8 2 1 == 1, links := opt 8 (secLe a 8 4 4) 4, parent := opt 8 (secLe a 8 8 2) 0
    children := opt 8 (imgChildren a) [], loose := hasSec a 9 && secLe a 9 0 1 == 1, vell := hasSec a 9 && secLe a 9 1 1 == 1 }

/-- Resident rows of a position (R319). -/
def residentRows (c : ImageCfg) (l : Nat) : Nat := min (c.leafRows l).length (if c.arr = 2 then c.cap else (c.leafRows l).length)

/-- Bytes that WEIGHTS must hold. -/
def weightsLen (c : ImageCfg) : Nat := c.b * ((List.range c.rows.length).map (residentRows c)).sum

/-- Bytes of one value-head unit: gate row, up row, down weight (R84). -/
def vhUnitBytes (c : ImageCfg) : Nat := 2 * rowBytes c.vhFmt c.h + 2

/-- Units that position `l` of `n` holds (R84). -/
def vhUnitsAt (c : ImageCfg) (n l : Nat) : Nat := ((List.range c.vhUnits).filter fun u => u % n == l).length

/-- R74 holds of every position. -/
def arrangementOk (c : ImageCfg) : Bool :=
  let lens := c.rows.map List.length
  if c.arr = 2 then
    let ovf := ((List.range c.rows.length).map c.ovfRows).sum
    decide (ovf ≤ lens.sum / 8) && decide (c.ovfMax ≤ 512)
  else lens.all fun n => decide (n ≤ c.cap)

/-- CAPACITY (0x6). -/
def capacityFault (p : Part) (a : Array Byte) : Option (Nat × Nat) :=
  if badCount a (secOff a 2 + secLen a 2) p.leaves (secOff a 2) then some (6, secIdx a 2)
  else
    let ws := imgPartition p a
    let c := imgCfg a (ws.getD [])
    if ws.isSome ∧ !arrangementOk c then some (6, secIdx a 2)
    else if ws.isSome ∧ secLen a 3 ≠ weightsLen c then some (6, secIdx a 3)
    else if hasSec a 4 ∧ secLen a 4 ≠ 2 * c.h then some (6, secIdx a 4)
    else if hasSec a 5 ∧ (secLen a 5 ≠ c.vhUnits * vhUnitBytes c ∨
        (List.range p.leaves).any fun l => decide (32 < vhUnitsAt c p.leaves l) || decide (65536 < vhUnitsAt c p.leaves l * vhUnitBytes c)) then
      some (6, secIdx a 5)
    else none

/-- ROLE of the image. -/
def imgRole (a : Array Byte) : Nat := if hasSec a 8 then secLe a 8 0 1 else 0

/-- Ascending order of the tokens, for the check that none appears twice. -/
def noRepeat : List Nat → Bool
  | a :: b :: r => decide (a < b) && noRepeat (b :: r)
  | _ => true

/-- PARTITION (0x7). -/
def partitionFault (p : Part) (a : Array Byte) : Option (Nat × Nat) :=
  match imgPartition p a with
  | none => some (7, secIdx a 2)
  | some ws =>
    let v := secLe a 1 20 4
    let toks := ws.flatMap fun l => l.map fun w => w % 2 ^ 22
    if (ws.any fun l => l.any fun w => bitsOf w 30 22 != 0 || decide (v ≤ w % 2 ^ 22)) ∨ !noRepeat (toks.mergeSort fun x y => decide (x ≤ y)) ∨
        (imgRole a = 0 ∧ toks.length ≠ v) then
      some (7, secIdx a 2)
    else none

/-- Row `i` of WEIGHTS holds data that R58 refuses. -/
def weightRowBad (a : Array Byte) (c : ImageCfg) (i : Nat) : Bool :=
  badWeightRow c.wfmt c.h fun k => a.getD (secOff a 3 + i * c.b + k) 0

/-- Unit `i` of VALUE_HEAD holds data that R58 refuses. -/
def unitBad (a : Array Byte) (c : ImageCfg) (i : Nat) : Bool :=
  let o := secOff a 5 + i * vhUnitBytes c
  let n := rowBytes c.vhFmt c.h
  badWeightRow c.vhFmt c.h (fun k => a.getD (o + k) 0) || badWeightRow c.vhFmt c.h (fun k => a.getD (o + n + k) 0) ||
  badElem .bf16 (arrLe a (o + 2 * n) 2)

/-- DATA (0x8). -/
def dataFault (p : Part) (a : Array Byte) : Option (Nat × Nat) :=
  let c := imgCfg a ((imgPartition p a).getD [])
  if (List.range (secLen a 3 / max 1 c.b)).any (weightRowBad a c) then some (8, secIdx a 3)
  else if hasSec a 4 ∧ (List.range (128 * c.hchunks)).any fun i => badElem .bf16 (secLe a 4 (2 * i) 2) then some (8, secIdx a 4)
  else if hasSec a 5 ∧ (List.range c.vhUnits).any (unitBad a c) then some (8, secIdx a 5)
  else none

/-! ### FUNCTIONS and REACH (R322, R323) -/

/-- The buffer of the generation in use once the image is applied, none where it breaks R174, R180, R181 or R323. -/
def imgGen (a : Array Byte) : Option GenBuf :=
  let act := secLe a 1 34 1
  let der := secLe a 1 35 1
  if hasSec a 6 then
    match genCheck (arrBytes a (secOff a 6) 65536) act der with
    | .ok g => some (bufOfGen g)
    | .error _ => none
  else if act ≤ 8 ∧ der ≤ 8 then some .builtin
  else none

/-- FUNCTIONS (0x9). -/
def fnFault (a : Array Byte) : Option (Nat × Nat) := if (imgGen a).isNone then some (9, secIdx a 6) else none

/-- Lanes of a width code (RCH_LINK_CFG). -/
def lanesOf (code : Nat) : Nat := if code = 0 then 0 else 2 ^ (code - 1)

/-- Width code of link `l`. -/
def widthCode (w l : Nat) : Nat := bitsOf w (3 * l + 2) (3 * l)

/-- Widths that R250 allows: each link starts at a multiple of its width, and no lane belongs to two. -/
def linksOk (w : Nat) : Bool :=
  decide (w < 2 ^ 24) &&
  (List.range 8).all fun l =>
    let n := lanesOf (widthCode w l)
    decide (widthCode w l ≤ 4) && (n == 0 || (l % n == 0 && decide (l + n ≤ 8))) &&
    (List.range 8).all fun m => m == l || n == 0 || widthCode w m == 0 || decide (m < l) || decide (l + n ≤ m)

/-- A block address that management assigns (R261). -/
def blockAddr (x : Nat) : Bool := decide (1 ≤ x) && decide (x ≤ 0xFEFF)

/-- REACH obeys R322, R250 and R264 (DEDUCED, log entry 80). -/
def reachOk (a : Array Byte) : Bool :=
  let u (off n : Nat) : Nat := secLe a 8 off n
  decide (64 ≤ secLen a 8) && secLen a 8 == 64 + 16 * u 3 1 && decide (u 0 1 ≤ 2) && decide (u 1 1 ≤ 1) && decide (u 2 1 ≤ 1) &&
  (u 2 1 == 0 || u 0 1 == 1) && u 3 1 == secLe a 1 18 1 && (u 3 1 == 0 || u 0 1 != 0) && linksOk (u 4 4) &&
  (if u 0 1 = 2 then blockAddr (u 8 2) else u 8 2 == 0) && arrZero a (secOff a 8 + 10) 54 &&
  (List.range (u 3 1)).all fun i =>
    blockAddr (u (64 + 16 * i) 2) && (u (66 + 16 * i) 2 == 0 || blockAddr (u (66 + 16 * i) 2)) && u (68 + 16 * i) 4 == 0

/-- REACH (0xA). An absent section names no remote child. -/
def reachFault (a : Array Byte) : Option (Nat × Nat) :=
  if hasSec a 8 then (if reachOk a then none else some (10, secIdx a 8))
  else if secLe a 1 18 1 = 0 then none else some (10, 31)

/-! ### The whole image -/

/-- The first failure of kinds 0x2 to 0xA, in the order of R325 (DEDUCED, log entry 73). -/
def imageFault (p : Part) (a : Array Byte) : Option (Nat × Nat) :=
  dirFault a <|> presenceFault p a <|> crcFault a <|> targetFault p a <|> structFault p a <|> capacityFault p a <|> partitionFault p a <|>
  dataFault p a <|> fnFault a <|> reachFault a

/-- A section has arrived whole within the first `n` bytes. -/
def arrived (n : Nat) (e : DirEnt) : Bool := decide (e.off + e.len ≤ n)

/-- What `n` bytes of an image show, in the order of R325: a broken directory once it is in, a presence rule once STRUCTURE and REPRO are, and
then the CRC of each section that has arrived (R328 phase 3) (DEDUCED, log entry 73). -/
def earlyFault (p : Part) (a : Array Byte) (n : Nat) : Option (Nat × Nat) :=
  if n < dirEnd a then none
  else
    dirFault a <|>
    (if (imgDir a).all fun e => (e.type != 1 && e.type != 9) || arrived n e then
      presenceFault p a <|> ((imgDir a).zipIdx.find? fun q => arrived n q.1 && !secCrcOk a q.1).map fun q => (3, q.2)
     else none)

/-- The byte stream of R44. -/
def treeStream (c : ImageCfg) : List Byte :=
  leBytes 1 c.fanout.length ++ c.fanout.flatMap (leBytes 1 ·) ++ leBytes 1 c.remote ++
  c.rows.flatMap (fun l => leBytes 2 l.length ++ l.flatMap fun r => leBytes 4 r.1) ++ c.children.flatMap fun k => leBytes 8 k.sig.toNat

/-- The settings of a good image. -/
def goodCfg (p : Part) (a : Array Byte) : ImageCfg := imgCfg a ((imgPartition p a).getD [])

/-- Directory index of the section being read after `n` bytes, 31 before the sections (DEDUCED, log entry 81). -/
def sectionAt (a : Array Byte) (n : Nat) : Nat :=
  if n < 64 ∨ n < dirEnd a then 31
  else
    match (imgDir a).findIdx? fun e => decide (n < e.off + e.len) with
    | some i => i
    | none => 31

/-- Index of the first resident row of position `l` in WEIGHTS. -/
def firstRow (c : ImageCfg) (l : Nat) : Nat := ((List.range l).map (residentRows c)).sum

/-- Index of the first unit of position `l` of `n` in VALUE_HEAD. -/
def firstUnit (c : ImageCfg) (n l : Nat) : Nat := ((List.range l).map (vhUnitsAt c n)).sum

/-- STRUCTURE and PARTITION have arrived within `n` bytes and place the rows of WEIGHTS and the units of VALUE_HEAD (R319, R320). -/
def storable (p : Part) (a : Array Byte) (n : Nat) : Bool :=
  decide (dirEnd a ≤ n) && (dirFault a).isNone && ((imgDir a).all fun e => (e.type != 1 && e.type != 2) || (arrived n e && secCrcOk a e)) &&
  structOk p a && (capacityFault p a).isNone && (partitionFault p a).isNone

/-- Whole items of `size` bytes among `len` bytes from `start` that have arrived within `n` bytes, as a length. -/
def arrivedBytes (start len size n : Nat) : Nat := size * (min len (n - start) / max 1 size)

/-- Bytes of WEIGHTS for position `l`. -/
def leafWeights (a : Array Byte) (c : ImageCfg) (l : Nat) : List Byte :=
  arrBytes a (secOff a 3 + firstRow c l * c.b) (residentRows c l * c.b)

/-- Bytes of VALUE_HEAD for position `l` of `n`. -/
def leafUnits (a : Array Byte) (c : ImageCfg) (n l : Nat) : List Byte :=
  if c.vhUnits = 0 then [] else arrBytes a (secOff a 5 + firstUnit c n l * vhUnitBytes c) (vhUnitsAt c n l * vhUnitBytes c)

end Sys2Proof.Machine
end

