-- ==== Sys2Proof/Machine/LinkBase.lean ====
section
/-!
DEFINITION. What the fall of a reach link does apart from the merge domain, and the grouping of lanes into links (13_reach_fabric.md R250, R258,
R262, R263, R277, R278): hops, the route table, multicast pruning, entry into DOWN and LOCK.
-/

namespace Sys2Proof.Machine

/-! ### Tide hops (R263) -/

/-- The engine is a tide master (R245). -/
def isMaster (s : State) : Bool := !s.tide.follower

/-- The upstream neighbour's link: the lowest advertised HOPS, then the lower block address, then the lower link (R263). -/
def upstream (s : State) : Option Nat :=
  (upLinks s).foldl (fun b l =>
    match b with
    | none => some l
    | some m =>
      let key (n : Nat) : Nat := leAt (linkAt s n).peerFrame 35 1 * 65536 + (linkAt s n).peer
      if key l < key m then some l else some m) none

/-- HOPS: 0 at a master, one more than the upstream neighbour's at a follower, at most 15. -/
def hopsNow (s : State) : Nat :=
  if isMaster s then 0
  else match upstream s with | some l => min 15 (leAt (linkAt s l).peerFrame 35 1 + 1) | none => s.tide.hops

/-- HOPS follows the neighbours. -/
def setHops (s : State) : State := s.updTide fun t => { t with hops := hopsNow s }

/-! ### Routes (R262) -/

/-- The flits that list the engine's own address and every entry, 60 to a flit. -/
def routeFlits (s : State) (own : Nat) : List OutFlit :=
  let es := (own, 0) :: s.reach.routes.map fun e => (e.addr, e.hops)
  (List.range (ceilDiv es.length 60)).map fun i => .route ((es.drop (60 * i)).take 60)

/-- Advertise on every UP link; unreachable entries are then removed. An engine with no address takes no part (R261). -/
def advertise (s : State) : State :=
  match s.reach.addr with
  | none => s
  | some own =>
    let s1 := (routeFlits s own).foldl (fun t f => sendAll (upLinks t) f t) s
    s1.updReach fun r => { r with advertisedAt := s.tide.osc, routes := r.routes.filter fun e => decide (e.hops < 16) }

/-- An offer of `addr` at `h` hops over link `l` (R262). -/
def offerRoute (l : Nat) (s : State) (e : Nat × Nat) : State :=
  let h := min 16 (e.2 + 1)
  let entry : RouteEnt := ⟨e.1, l, h, s.tide.osc⟩
  match s.reach.routes.find? fun x => x.addr == e.1 with
  | some x =>
    if h < x.hops ∨ (h = x.hops ∧ l < x.link) ∨ x.link = l then
      s.updReach fun r => { r with routes := r.routes.map fun y => if y.addr = e.1 then entry else y }
    else s
  | none =>
    if 16 ≤ h then s
    else if 1024 ≤ s.reach.routes.length then raise srcRouteFull (s.updReach fun r => { r with routesFull := true })
    else s.updReach fun r => { r with routes := r.routes ++ [entry] }

/-- The entries of the table as (address, link, hops): a change of any is advertised (R262). -/
def routeView (s : State) : List (Nat × Nat × Nat) := s.reach.routes.map fun e => (e.addr, e.link, e.hops)

/-- Entries become unreachable, are advertised once and removed. -/
def dropRoutes (hit : RouteEnt → Bool) (s : State) : State :=
  if s.reach.routes.any hit then
    let t := advertise (s.updReach fun r => { r with routes := r.routes.map fun e => if hit e then { e with hops := 16 } else e })
    t.updReach fun r => { r with routes := r.routes.filter fun e => decide (e.hops < 16) }
  else s

/-! ### Multicast pruning (R277) -/

/-- A DOWN link that fails leaves every group that names it. -/
def pruneGroups (l : Nat) (s : State) : State :=
  let hit (g : McastSt) : Bool := bitOf g.down l
  if s.reach.groups.any hit then
    raise srcMcastPrune (reportGroups (s.updReach fun r =>
      { r with groups := r.groups.map fun g =>
          if hit g then { g with down := g.down - 2 ^ l, reports := g.reports.filter fun p => p.1 != l } else g }))
  else s

/-! ### Errors of the line code (R252) -/

/-- Count corrected symbols and uncorrectable codewords; CORR counts symbols in units of 256. -/
def countCodewords (l : Nat) (errors : List Nat) (s : State) : State :=
  let bad := (errors.filter fun n => !correctable n).length
  updLink l (fun k => { k with corr := satAdd 1048575 k.corr (errors.filter correctable).sum, uncorr := satAdd 0xFF k.uncorr bad }) s

/-! ### DOWN and LOCK (R258) -/

/-- PHY_READY of every lane of a link. -/
def phyAll (s : State) (l : Nat) : Bool :=
  (List.range (linkAt s l).width).all fun i => s.reach.phy.getD (l + i) false

/-- A DOWN link that is enabled and not waiting leaves for LOCK once PHY_READY is high (DEDUCED, log entry 94). -/
def tryLock (l : Nat) (s : State) : State :=
  let k := linkAt s l
  if k.phase = .down ∧ k.en ∧ !k.wait ∧ 0 < k.width ∧ phyAll s l ∧ s.power.logicOn then
    updLink l (fun k => { k with phase := .lock, since := s.tide.osc, retrain := false }) s
  else s

/-- Receive credits of Table 13.3's channels (R256). -/
def fullCredits : List Nat := [64, 1024, 1024, 1024]

/-- A link in DOWN: nothing in flight, nothing waiting, full credits. -/
def downLink (now : Nat) (failure : Option Nat) (k : LinkSt) : LinkSt :=
  { k with
    phase := .down, detach := false, wait := failure.isSome, reason := failure.getD k.reason, since := now, txSeq := 0, rxSeq := 0
    credits := fullCredits, replay := [], queue := [], begun := [0, 0], stream := [[], [], [], []], owed := [0, 0, 0, 0], group := [] }

/-- A multicast report that has left towards a link and has not been acknowledged is lost with the link, and is due again (R277). -/
def reportLost (k : LinkSt) (i : Nat) : Bool :=
  (k.queue.any fun f => match f with | .mcastReport g _ => g == i | _ => false) ||
  k.replay.any fun q => q.1.type == 0x21 && leAt q.1.payload 0 2 == i

/-- Reports that are lost with a link are due again (DEDUCED, log entry 190). -/
def forgetReports (l : Nat) (s : State) : State :=
  s.updReach fun r => { r with
    groups := r.groups.mapIdx fun i g => if g.upLink = l ∧ reportLost (linkAt s l) i then { g with reported := none } else g }

/-- A link's own state and records as it enters DOWN (R258). -/
def linkFalls (l : Nat) (failure : Option Nat) (s0 : State) : State :=
  let s := forgetReports l s0
  let k := linkAt s l
  let active := k.phase == .lock || k.phase == .hail || k.phase == .check || k.phase == .up || k.phase == .drain
  let s1 := updLink l (downLink s.tide.osc failure) s
  if active then bbRecord 0x30 4 l noSeq (word (failure.getD k.reason)) 0 (raise (srcLinkDown l) s1) else s1

/-! ### Grouping of lanes (R250, R278) -/

/-- Lanes of link `l` under a LINKS value. -/
def imageLanes (w l : Nat) : Nat := lanesOf (widthCode w l)

/-- A link that has fallen leaves the multicast groups, and what its copies held back goes on (R277). -/
def leaveGroups (l : Nat) (s : State) : State := settleMcast (pruneGroups l s)

/-- A link whose grouping changes goes DOWN; there is no merge domain at this moment (DEDUCED, log entry 77). One that the image leaves out
keeps no multicast copies (DESIGN CHOICE, log entry 160). -/
def regroupDown (w : Nat) (s : State) (l : Nat) : State :=
  let s1 := if (linkAt s l).phase = .down then s else linkFalls l none s
  let s2 := if linkOpen s l then dropRoutes (fun e => e.link == l) s1 else s1
  let s3 := if (linkAt s l).phase = .down then s2 else leaveGroups l s2
  let s4 := updLink l (fun k => { k with width := imageLanes w l, phase := .down, wait := false, gseq := 0, scramblers := none }) s3
  if imageLanes w l = 0 then settleMcast (updLink l (fun k => { k with queue := [] }) s4) else s4

/-- RCH_LINK_CFG is rewritten and every link whose grouping changes is retrained (R278) (DEDUCED, log entry 77). -/
def regroup (w : Nat) (s : State) : State :=
  let moved := (List.range 8).filter fun l => (linkAt s l).width != imageLanes w l
  setHops (moved.foldl (fun t l => tryLock l t) ((moved.foldl (regroupDown w) s).updReach fun r => { r with widths := w }))

end Sys2Proof.Machine
end

