-- ==== Sys2Proof/Machine/LoadOps.lean ====
section
/-!
DEFINITION. Mask loads (05_grading.md R99 to R103) and function-table loads (09_functions.md R180 to R185): the GO writes, the bytes that
arrive, the copy, the writing and the ends.
-/

namespace Sys2Proof.Machine

/-! ### Mask loads (R103) -/

/-- Bytes of a bitmap's source: ceil(V ÷ 8), padded to a multiple of 64. -/
def maskBytes (c : ImageCfg) : Nat := pad64 (ceilDiv c.vocab 8)

/-- The source address latched at a GO. -/
def srcAddr (lo hi : Word) : Dword := hi ++ lo

/-- The load ends: BUSY clears, MASK_LOAD_END is raised, and a failure leaves its kind. -/
def endMaskLoad (err : Option Nat) (s : State) : State :=
  raise srcMaskLoadEnd ((dropRead .mask s).updMasks fun m =>
    { m with phase := .idle, staging := [], err := m.err || err.isSome, kind := err.getD m.kind })

/-- A GO of a mask load (R103). One written while BUSY is 1 is refused (DEDUCED, log entries 48 and 49; DESIGN CHOICE, log entry 142). -/
def maskGo (b : Nat) (s : State) : State :=
  if s.masks.phase ≠ .idle then raise srcMaskLoadEnd (s.updMasks fun m => { m with err := true, kind := 3 })
  else
    let src := srcAddr s.soft.maskSrcLo s.soft.maskSrcHi
    let s1 := s.updMasks fun m => { m with phase := .reading, err := false, bitmap := b, src := src, staging := [] }
    match s.image.cfg with
    | none => endMaskLoad (some 2) s1
    | some c => if bitmapCount c ≤ b then endMaskLoad (some 1) s1 else issueRead .mask src.toNat (maskBytes c) s1

/-- A write of CTL_MASK_LOAD. -/
def writeMaskLoad (value : Word) (s : State) : State :=
  if bitOf value.toNat 31 then maskGo (bitsOf value.toNat 9 0) s else s

/-- MASK_LOAD. -/
def execMaskLoad (value : Word) (s : State) : Host.Outcome State Fault Refusal := .next (chipWrite (writeMaskLoad value) s)

/-- Bytes of the source arrived; with the last the bits stand permuted in the staging buffer. -/
def maskData (c : ImageCfg) (data : List Byte) (s : State) : State :=
  let d := s.masks.staging ++ data
  if d.length < maskBytes c then s.updMasks fun m => { m with staging := d }
  else (dropRead .mask s).updMasks fun m => { m with staging := d, phase := .staged }

/-- A row has not yet sent its last mask block: some slot has folded no batch of its first pass (R101). -/
def masksGoing (r : Row) : Bool := r.phase == .running && r.slots.any fun sl => sl.ctl.first && sl.leaves.isEmpty

/-- The bitmap that a row names. -/
def rowMaskRef (r : Row) : Nat := r.snap.maskRef

/-- No sheet naming the bitmap lies between the start of its stage 3 and its last mask block (R103, R268). -/
def maskFree (s : State) (b : Nat) : Bool :=
  !s.pipe.flight.any fun x => x.rows.any fun r =>
    rowMaskRef r == b && ((x.stage == 3 && r.phase == .running) || (x.stage == 4 && masksGoing r))

/-- MASK_COPY: the copy into the bitmap begins (R103). -/
def execMaskCopy (s : State) : Host.Outcome State Fault Refusal :=
  when' (s.power.logicOn && s.masks.phase == .staged && maskFree s s.masks.bitmap)
    (s.updMasks fun m => { m with phase := .copying }) s

/-- The placed tokens whose bit of a source is 0, in placement order (R99). Other bits are ignored (DEDUCED, log entry 51). -/
def zeroBits (c : ImageCfg) (src : List Byte) : List Nat :=
  let a := src.toArray
  ((c.rows.flatMap id).map (·.1)).filter fun t => !bitOf (a.getD (t / 8) 0).toNat (t % 8)

/-- The copy has ended: the bitmap holds the loaded bits (R103). DONE counts the loads that end so, not those that fail (DESIGN CHOICE, log
entry 141). -/
def maskCopied (c : ImageCfg) (s : State) : State :=
  endMaskLoad none ((s.updMasks fun m => { m with zeros := spSet [] m.zeros m.bitmap (zeroBits c m.staging) }).updCb fun k =>
    { k with maskDone := k.maskDone + 1 })

/-- MASK_LOAD_END. A load that fails ends at its GO, or with the read that fails. -/
def execMaskLoadEnd (s : State) : Host.Outcome State Fault Refusal :=
  match s.image.cfg with
  | some c => when' (s.power.logicOn && s.masks.phase == .copying) (maskCopied c s) s
  | none => .next s

/-! ### Function-table loads (R183) -/

/-- Bytes of a generation (R180). -/
def genLen : Nat := 65536

/-- ACT_SLOT and DERIV_SLOT of FN_CFG. -/
def fnSlots (s : State) : Nat × Nat := match s.image.cfg with | some c => (c.actSlot, c.derivSlot) | none => (7, 0)

/-- The load in progress ends with a failure: BUSY clears, ERR, KIND and SLOT are set, and both buffers keep what they held. -/
def failFn (kind slot : Nat) (s : State) : State :=
  raise srcFnLoadEnd ((dropRead .function s).updFn fun f =>
    { f with phase := .idle, staging := [], err := true, kind := kind, slot := slot })

/-- A GO of a function-table load (R183) (DEDUCED, log entries 49 and 50). -/
def fnGo (s : State) : State :=
  if s.fn.phase ≠ .idle then raise srcFnLoadEnd (s.updFn fun f => { f with err := true, kind := 3 })
  else
    let src := srcAddr s.soft.fnSrcLo s.soft.fnSrcHi
    issueRead .function src.toNat genLen (s.updFn fun f => { f with phase := .reading, err := false, src := src, staging := [] })

/-- A write of FN_LOAD. -/
def writeFnLoad (value : Word) (s : State) : State := if bitOf value.toNat 31 then fnGo s else s

/-- FN_LOAD. -/
def execFnLoad (value : Word) (s : State) : Host.Outcome State Fault Refusal := .next (chipWrite (writeFnLoad value) s)

/-- The lowest region that has arrived whole and fails its check: the header, or a slot (R183). An absent slot with a byte that is not zero
fails as that slot (DESIGN CHOICE, log entry 169). -/
def badRegion (bs : List Byte) (act deriv : Nat) : Option Nat :=
  (List.range 32).find? fun k =>
    decide (2048 * (k + 1) ≤ bs.length) &&
    (if k = 0 then !genHeaderOk bs act deriv
     else if bitOf (leAt bs 4 4) k then !slotOk bs k else !zeroRange bs (2048 * k) 2048)

/-- Bytes of the source arrived: checks as they arrive, the ID after the last byte (R183, step 2). -/
def fnData (data : List Byte) (s : State) : State :=
  let d := (s.fn.staging ++ data).take genLen
  let ad := fnSlots s
  match badRegion d ad.1 ad.2 with
  | some k => failFn 2 k s
  | none =>
    if d.length < genLen then s.updFn fun f => { f with staging := d }
    else
      let g := genOfBytes d
      if g.id = genIdOf g then
        (dropRead .function s).updFn fun f => { f with staging := [], phase := .waiting (bufOfGen g) }
      else failFn 1 0 s

/-- Sheets that hold a buffer (R182): a parent's holds it until it is known to be over (DESIGN CHOICE, log entry 188). -/
def fnHolders (s : State) (g : Nat) : Nat :=
  (s.pipe.flight.filter fun x => decide (2 ≤ x.stage) && x.gen == g && !sheetOver s x).length

/-- Replace a buffer. -/
def setBuf (g : Nat) (b : GenBuf) (f : FnSt) : FnSt := if g = 0 then { f with buf0 := b } else { f with buf1 := b }

/-- FN_WRITE: the buffer not in force has no holder, and its writing begins; its ID reads 0 meanwhile (R183, steps 3 and 4). -/
def execFnWrite (s : State) : Host.Outcome State Fault Refusal :=
  match s.fn.phase with
  | .waiting g =>
    let k := 1 - s.fn.inForce
    when' (s.power.logicOn && fnHolders s k == 0) (s.updFn fun f => { setBuf k .empty f with phase := .writing g }) s
  | _ => .next s

/-- FN_READY: the last word is written, the buffer has its ID, and READY is set (R183, step 5). -/
def execFnReady (s : State) : Host.Outcome State Fault Refusal :=
  match s.fn.phase with
  | .writing g => when' s.power.logicOn (s.updFn fun f => { setBuf (1 - f.inForce) g f with phase := .ready }) s
  | _ => .next s

/-! ### The end of an image load (R326, R328) -/

/-- Packets held while an image was applied are delivered in their order; multicast packets are held as port 2. -/
def releaseHeld (s : State) : State :=
  s.ports.held.foldl (fun t p => if p.1 = 2 then patchArrives 2 p.2 false t else deliver p.1 p.2 t)
    (s.updPorts fun p => { p with held := [] })

/-- With no image applied the engine is a tide master (R245, R326) (DEDUCED, log entry 82). -/
def tideMaster (t : TideSt) : TideSt :=
  if t.follower then
    { t with
      follower := false, measured := false, hops := 0, theta := 0, slew := .none, slewEdges := 0, slewLeft := 0
      phase := if t.refOk then .locked else .holdover }
  else t

/-- A function-table load in progress ends with ABANDONED (R183). -/
def abandonFn (s : State) : State := if s.fn.phase ≠ .idle then failFn 4 0 s else s

/-- A function-table load ends with ABANDONED and a mask load with no image: those that an image GO finds in progress (R183, R328), and those
that were started in phase 1, whose application goes on to reset bitmaps and buffers, or is refused (R103, R329) (DESIGN CHOICE, log entry
142). -/
def endTableLoads (s : State) : State :=
  let s1 := abandonFn s
  if s.masks.phase ≠ .idle then endMaskLoad (some 2) s1 else s1

/-- A load is refused: no image is applied, the kind and section are reported, links regroup as before an image, and held packets go on. A
refusal in phase 1 ends the table loads that phase 2 would have ended (R326) (DEDUCED, log entries 62 and 82; DESIGN CHOICE, log entry 142).
-/
def refuseImage (kind sec : Nat) (s0 : State) : State :=
  let s := if s0.image.phase = 1 then endTableLoads s0 else s0
  let s1 := (dropRead .image s).updImage fun i =>
    { i with
      cfg := none, phase := 0, err := true, kind := kind, section_ := sec, data := [], authReq := none, checked := none, checkedGen := .empty
      checkedSig := 0, treeSig := 0 }
  regrant (releaseHeld (regroup 4 ((s1.updReach fun r => { r with dom := domainReset }).updTide tideMaster)))

end Sys2Proof.Machine
end

