-- ==== Sys2Proof/Machine/FaultOps.lean ====
section
/-!
DEFINITION. Faults, probes and return to service (14_faults.md R279 to R291; 02_pans_and_tree.md R32, R38 to R43; 04_brine_store.md R75 to
R79, R87), and the management mirror's checker.
-/

namespace Sys2Proof.Machine

/-! ### Units and records -/

/-- UNITTYPE of Table 14.6. -/
def unitType : UnitId → Nat
  | .pan _ => 1
  | .cell _ => 2
  | .head => 3

/-- UNIT of Table 14.6. -/
def unitNum : UnitId → Nat
  | .pan p => p
  | .cell p => p
  | .head => 0

/-- A unit as ARG1 of a TIMEOUT record: UNITTYPE in [18:16], UNIT in [15:0]. -/
def unitArg (u : UnitId) : Word := word (unitType u * 65536 + unitNum u)

/-- The configuration has the unit. -/
def unitThere (s : State) : UnitId → Bool
  | .pan p => decide (p < s.part.pans)
  | .cell p => decide (p < s.part.pans)
  | .head => true

/-- The unit is fenced (DEDUCED, log entry 57). -/
def unitFenced (s : State) : UnitId → Bool
  | .pan p => (panAt s p).fenced
  | .cell p => match (cellAt s p).phase with | .fenced | .lasting => true | _ => false
  | .head => false

/-- The probe of a unit. -/
def probeOf (s : State) (u : UnitId) : Option Probe := s.fabric.probes.find? fun x => x.unit == u

/-- The sheet concerned by work at the leaves: the first in stage 4 or 5 (DEDUCED, log entry 55). -/
def workSeq (s : State) : Word :=
  match s.pipe.flight.find? fun x => x.stage == 4 || x.stage == 5 with
  | some x => word x.seq
  | none => noSeq

/-- The sheet concerned by the head pan's conditioning: the last in stage 2 (DEDUCED, log entry 55). -/
def conditionSeq (s : State) : Word :=
  match (s.pipe.flight.filter fun x => x.stage == 2).getLast? with
  | some x => word x.seq
  | none => noSeq

/-- A record about a unit. -/
def unitRecord (kind : Nat) (u : UnitId) (seq arg0 arg1 : Word) (s : State) : State :=
  bbRecord kind (unitType u) (unitNum u) seq arg0 arg1 s

/-- A record with an argument that Table 14.7 does not state for the unit's case (DESIGN CHOICE, log entry 9). -/
def freeArg (s : State) : Word := Config.bbArg (s.bb.recno.toNat + 1)

/-! ### Overflow failures (R87) -/

/-- Every row of a sheet completes with OVERFLOW_STALL (R87). -/
def failOverflow (x : Sheet) (s : State) : State :=
  let s1 := updSheet x.seq (fun y => { y with rows := y.rows.map fun r => r.failWith fun f => { f with overflow := true } }) s
  settleFetch (settleStages (s1.updCa fun a => { a with ovfStalls := satAdd 0xFFFF a.ovfStalls 1 }))

/-- A sheet waits for groups that a position has asked for. -/
def fetching (s : State) (l : Nat) (x : Sheet) : Bool :=
  (x.fetch.any fun q => q.1 == l) && s.ports.reads.any fun r => match r.kind with | .overflow a _ => a == l | _ => false

/-- A fence of a pan that fetches overflow rows fails its sheet (R87, Table 14.5). -/
def failFetching (l : Nat) (s : State) : State :=
  match s.pipe.flight.find? (fetching s l) with
  | some x => failOverflow x s
  | none => s

/-! ### Unplaced positions (R42, R287) -/

/-- Every row of every sheet in flight completes with PARTNER_LOST. No record of Table 13.6 tells a parent that a position of its member is
unplaced: the member sends nothing more for its rows, and STEP_TIMEOUT at the parent shows it (DESIGN CHOICE, log entry 175). -/
def losePartners (s : State) : State :=
  settleFetch (settleStages (s.updPipe fun p =>
    { p with
      flight := p.flight.map fun x => { x with rows := x.rows.map fun r => r.failWith fun f => { f with partnerLost := true } } }))

/-- A position is unplaced, with its record against the unit that failed. -/
def unplace (u : UnitId) (s : State) (l : Nat) : State :=
  if s.fabric.unplaced.contains l then s
  else unitRecord 0x27 u noSeq (word l) 0 (s.updFabric fun f => { f with unplaced := f.unplaced ++ [l] })

/-- Positions are unplaced. -/
def unplaceAll (u : UnitId) (ls : List Nat) (s : State) : State :=
  if ls.isEmpty then s else losePartners (ls.foldl (unplace u) s)

/-! ### Reruns (R281, R143, R166) -/

/-- Position `l` has not sent its last upward record of the row's current pass. One that has is not affected, and a LEDGER row between
passes owes none (R281). -/
def leafOwes (hchunks : Nat) (r : Row) (l : Nat) : Bool := r.slots.any (slotOwes hchunks r l)

/-- Composite `n` has not sent its last upward record of the row's current pass. -/
def nodeOwes (hchunks : Nat) (r : Row) (n : Nat) : Bool :=
  match r.phase with
  | .running => r.slots.any fun sl => !(sl.nodeAt n).sent
  | .backward => r.slots.any fun sl => decide ((sl.gradUp.filter fun g => g.1 == n).length < hchunks)
  | _ => false

/-- A row of the engine's own starts again at its first rake pass. -/
def restartRow (r : Row) : Row :=
  { r with
    phase := .running, walk := selStart, list := [], capped := false, dup := false
    result := none, tokens := [], steps := 0
    slots := r.slots.mapIdx fun p sl =>
      { sl with
        ctl := firstCtl r p, redo := none, leaves := [], nodes := sl.freshNodes, head := none, headFirst := none, grads := []
        gradSent := [], gradUp := [], dy := [] } }

/-- A slot's composites before a member's rerun: the head keeps what its remote children have sent for the current pass, since only this
engine's part is rerun. -/
def Slot.rerunNodes (first : Nat) (sl : Slot) : List (Nat × NodeRow) :=
  (sl.nodes.filter fun n => n.1 == 0).map fun n => (n.1, 
    { arrived := n.2.arrived.filter fun a => decide (first ≤ a.1), statsOrder := n.2.statsOrder.filter fun k => decide (first ≤ k)
      valueOrder := n.2.valueOrder.filter fun k => decide (first ≤ k), parts := n.2.parts, sent := false, late := false })

/-- A row that a parent opened begins again at its first rake pass, from its kept brine and controls: every position grades the first pass
again, whose outputs the parent has had, and goes on to the current pass (R143) (DEDUCED, log entry 65). -/
def restartMember (first : Nat) (r : Row) : Row :=
  { r with
    slots := r.slots.map fun sl =>
      { sl with
        redo := if sl.ctl.first then none else r.domFirst
        leaves := [], nodes := sl.rerunNodes first, head := none } }

/-- A position's buffer entries of a row are formed anew: its first pass is graded again, from its kept brine and controls and the overflow
groups that it has had, and counted (R102), and coefficients that its backward pass has formed are formed again (R39, R232) (DEDUCED, log
entry 65; DESIGN CHOICE, log entry 154). -/
def rebuildBuffer (c : ImageCfg) (x : Sheet) (r : Row) (s : State) (l : Nat) : State :=
  match r.slots.head? with
  | none => s
  | some sl =>
    let f := sheetSfu s x
    let x1 := { x with groups := x.seen }
    let sl1 := { sl with ctl := r.domFirst.getD (firstCtl r 0), redo := none }
    let s1 := (List.range (batchCount (c.leafRows l).length)).foldl (fun t n =>
      let gs := batchScores s c x1 r sl1 l n
      batchStall (batchEvaluates f sl1.ctl sl1.params.noised gs)
        (countNonfinite gs (storeBatch s c f r l (statsOfBatch f sl1.ctl gs).m gs (noteBatch c r sl1 l gs t)))) s
    if 0 < chunksSent sl l then storeCoefs s c r l (coefsAt s1 c x1 r sl1 l 0) s1 else s1

/-- Rerun the row numbered `i` of a sheet. A parent's row in its backward pass grades its whole first pass again, which counts again, at every
position (R102, R166, R281). -/
def rerunRow (c : ImageCfg) (x : Sheet) (i : Nat) (r : Row) (s : State) : State :=
  if r.dom.isNone then
    let r1 := restartRow r
    sendPass x.seq i r1 false (updSheet x.seq (Sheet.updRow i fun _ => r1) s)
  else if r.phase = .backward then (List.range s.part.leaves).foldl (rebuildBuffer c x r) s
  else updSheet x.seq (Sheet.updRow i fun _ => restartMember ((fanout s).getD 0 0) r) s

/-- Rerun the rows of a sheet that `hit` names, and record and count them (R281, Table 14.7) (DEDUCED, log entry 54). -/
def rerunSheet (c : ImageCfg) (u : UnitId) (hit : Row → Bool) (s : State) (x : Sheet) : State :=
  let rows := x.rows.zipIdx.filter fun q => hit q.1 && q.1.phase != .done
  if rows.isEmpty then s
  else
    let s1 := issueRows x.seq ((rows.filter fun q => q.1.phase != .backward || q.1.dom.isNone).map (·.2))
      (rows.foldl (fun t q => rerunRow c x q.2 q.1 t) (renewIdle x.seq s))
    let s2 := bbRecord 0x22 0 0 (word x.seq) (word rows.length) (unitArg u) s1
    s2.updCb fun k => { k with fltReruns := satAdd 0xFFF k.fltReruns 1 }

/-- Rerun every row that `hit` names in the sheets that score (DEDUCED, log entry 53). -/
def rerunRows (u : UnitId) (hit : Row → Bool) (s : State) : State :=
  match s.image.cfg with
  | some c => settleFetch (settleStages ((s.pipe.flight.filter scoring).foldl (rerunSheet c u hit) s))
  | none => s

/-- At the fence of a pan that serves `l`, its affected rows in every sheet in flight are noted until the takeover ends; those of a sheet
that has begun stage 4 by then are rerun (R281) (DEDUCED, log entry 53). -/
def noteAffected (p l : Nat) (s : State) : State :=
  match s.image.cfg with
  | none => s
  | some c =>
    s.updPipe fun q =>
      { q with
        flight := q.flight.map fun x =>
          { x with rows := x.rows.map fun r => if leafOwes c.hchunks r l then { r with rerun := p :: r.rerun } else r } }

/-- The position has stored a row's scores, which later passes read, and no takeover of pan `p` reruns the row (R81, R160). -/
def holdsScores (p l : Nat) (r : Row) : Bool :=
  r.buffered && r.phase != .done && !r.rerun.contains p && r.slots.any fun sl => !sl.ctl.first || (sl.leafAt l).sent

/-- Another pan serves position `l`: the buffer entries of the rows that `p`'s takeover does not rerun are formed anew in it, so that a
row's passes read the same scores whichever pan serves (R39, R232) (DESIGN CHOICE, log entry 154). -/
def reformScores (p l : Nat) (s : State) : State :=
  match s.image.cfg with
  | none => s
  | some c =>
    (s.pipe.flight.filter fun x => decide (4 ≤ x.stage)).foldl (fun t x =>
      (x.rows.filter (holdsScores p l)).foldl (fun t r => rebuildBuffer c x r t l) t) s

/-- The rows that a pan's takeover reruns. -/
def clearRerun (p : Nat) (s : State) : State :=
  s.updPipe fun q =>
    { q with flight := q.flight.map fun x => { x with rows := x.rows.map fun r => { r with rerun := r.rerun.filter (· != p) } } }

/-! ### Probes (R282) -/

/-- A probe of a fenced unit begins; it ends by a PROBE_END, or after 40 µs of the always-on oscillator (R282, R337) (DEDUCED, log entry
147). -/
def startProbe (u : UnitId) (cause block : Nat) (crossed : Option UnitId) (arg0 : Word) (s : State) : State :=
  unitRecord 0x23 u noSeq arg0 (word (if cause = 6 then 1 else if cause = 7 then 2 else 0))
    (s.updFabric fun f => { f with probes := f.probes ++ [⟨u, s.tide.osc, block, cause, crossed, false⟩] })

/-! ### Fences and substitution (Tables 2.5 and 2.6, R32) -/

/-- Every range of a region that parity covers (R78). -/
def parityRanges : List (Nat × Nat) := [(0, scoreBase), (adapterBase, regionSize)]

/-- Copy every such range between two pans of a bed. -/
def copyRegion (src dst : Nat) (s : State) : State := parityRanges.foldl (fun t r => brineCopy src dst r.1 r.2 t) s

/-- Table 2.6 treats a bed as in PARITY_BUILD from phase 2 of an image application on (Table 14.5) (DEDUCED, log entry 63). -/
def parityBuilding (s : State) (b : Bed) : Bool :=
  b.phase == .parityBuild || (b.phase == .intact && decide (2 ≤ s.image.phase) && decide (s.image.phase ≤ 4))

/-- What a fence of member or spare `m` makes of its bed, and the members whose positions it leaves unplaced (Table 2.6) (DEDUCED, log
entry 63). -/
def bedAfterFence (building : Bool) (b : Bed) (m : Nat) : Bed × List Nat :=
  let spare := m = 16
  let idle : Bed := { b with copying := false, copied := false }
  if building then
    if spare then ({ idle with phase := .degraded, subst := none, switched := false }, [])
    else ({ idle with phase := .substituted, subst := some m, switched := true }, [])
  else
    match b.phase with
    | .intact =>
      if spare then ({ idle with phase := .degraded, spareProbe := true }, [])
      else ({ idle with phase := .rebuilding, subst := some m, switched := false, shadowLeft := true }, [])
    | .restoring =>
      if spare then ({ idle with phase := .degraded, spareProbe := true }, []) else ({ idle with phase := .degraded }, [m])
    | .rebuilding =>
      ({ idle with phase := .degraded, subst := none, switched := false, shadowLeft := false },
        b.subst.toList ++ (if spare then [] else [m]))
    | _ =>
      if spare then
        ({ idle with phase := .degraded, subst := none, switched := false, shadowLeft := false }, b.subst.toList)
      else if b.subst = some m then (idle, [])
      else ({ idle with phase := .degraded }, [m])

/-- A pan is fenced: its bed follows Table 2.6, its affected rows are noted, and its probe begins (DESIGN CHOICE, log entry 52; DEDUCED,
log entry 64). -/
def fencePan (p cause block : Nat) (crossed : Option UnitId) (s : State) : State :=
  let b := p / 17
  let m := p % 17
  let building := parityBuilding s (bedAt s b)
  let after := bedAfterFence building (bedAt s b) m
  let takeover := after.1.phase == .rebuilding
  let s1 := if takeover then noteAffected p (16 * b + m) s else s
  let s2 := unitRecord 0x20 (.pan p) noSeq (word cause) 0
    (setPan p { panAt s p with fenced := true, lastKind := cause } s1)
  let s3 := if building && m != 16 then copyRegion p (17 * b + 16) s2 else s2
  let s4 := changeBed s b after.1 s3
  let s5 := unplaceAll (.pan p) (after.2.map (16 * b + ·)) s4
  let s6 := match leafOfPan s p with | some l => failFetching l s5 | none => s5
  startProbe (.pan p) cause block crossed (word block) s6

/-- Free leaf-tile merge cells. -/
def freeCells (s : State) : List Nat := (List.range s.part.pans).filter fun p => (cellAt s p).phase == .free

/-- The free cell that takes a composite: which one is left to the part (R31) (DESIGN CHOICE, log entry 5). -/
def pickCell (s : State) : Option Nat :=
  let fs := freeCells s
  fs[Config.cellChoice s.image.applications % fs.length]?

/-- A composite takes a cell. -/
def assignCell (p n : Nat) (s : State) : State :=
  (setCell p { cellAt s p with phase := .inUse n } s).updImage fun i => { i with applications := i.applications + 1 }

/-- A merge cell is fenced: its composite moves to a free cell and the affected rows are rerun, or the leaves below it are unplaced
(R32, R286). -/
def fenceCell (p cause : Nat) (crossed : Option UnitId) (arg0 : Word) (s : State) : State :=
  let fs := fanout s
  let s1 := unitRecord 0x20 (.cell p) noSeq (word cause) 0 (setCell p { cellAt s p with phase := .fenced } s)
  let s2 :=
    match (cellAt s p).phase with
    | .inUse n =>
      match pickCell s1 with
      | some q =>
        rerunRows (.cell p) (fun r => nodeOwes ((s.image.cfg.map ImageCfg.hchunks).getD 0) r n)
          (unitRecord 0x28 (.cell q) noSeq (word p) (word n) (assignCell q n s1))
      | none =>
        let w := nodeLeaves fs n
        unplaceAll (.cell p) ((List.range w.2).map (w.1 + ·)) s1
    | _ => s1
  startProbe (.cell p) cause 0 crossed arg0 s2

/-- The engine halts (R287): every position counts as unplaced, pending PATCH packets and loads are answered NO_IMAGE, probes are abandoned,
a software probe's BUSY clears, and an image being applied is refused as ABANDONED (Table 16.5) (DEDUCED, log entry 62). -/
def halt (arg0 : Word) (s : State) : State :=
  let s1 := s.updFabric fun f => { f with halted := true, probes := [], stBusy := false }
  let s2 := if s.fabric.stBusy then raise srcProbeEnd s1 else s1
  let s3 := unitRecord 0x2A .head noSeq arg0 0 (raise srcEngineHalt (losePartners s2))
  if imageBusy s then refuseImage 0xD 31 s3 else regrant (endLoads (endPatches s3))

/-- A fault against a unit that is neither fenced nor part of a halted engine (R280) (DESIGN CHOICE, log entry 52; DEDUCED, log entry 64).
-/
def onFault (u : UnitId) (code block : Nat) (crossed : Option UnitId) (s : State) : State :=
  if s.fabric.halted ∨ unitFenced s u then s
  else
    match u with
    | .pan p => fencePan p code block crossed s
    | .cell p => fenceCell p code crossed (freeArg s) s
    | .head => halt (if code = 8 ∨ code = 9 then word code else freeArg s) s

/-! ### FAULT (R279, R280) -/

/-- AREA of a region line (CTL_ECC_LAST). -/
def eccArea (line : Nat) : Nat :=
  let off := 512 * line
  if off < 0x100000 then 0 else if off < scoreBase then 1 else if off < adapterBase then 2 else if off < valueBase then 3 else 4

/-- CTL_ECC_LAST for an event. -/
def eccWord (ue : Bool) (p line : Nat) : Word :=
  word (2 ^ 31 + bit01 ue * 2 ^ 30 + eccArea line * 2 ^ 27 + p * 2 ^ 16 + line)

/-- CTL_RESIDUE_LAST for a fault (DESIGN CHOICE, log entry 8). -/
def residueWord (kind phys column : Nat) : Word := word (2 ^ 31 + kind * 2 ^ 29 + phys * 2 ^ 16 + column)

/-- A unit counts its faults: it is not fenced, and the engine is not halted (R280) (DEDUCED, log entry 57). -/
def counts (s : State) (u : UnitId) : Bool := !s.fabric.halted && !unitFenced s u

/-- Change a pan's PAN_ECC counters. -/
def panCe (b : BrineSt) (p : Nat) : Nat := spGet 0 b.panCe p

/-- PAN_ECC[P]. -/
def panEcc (s : State) (p : Nat) : Word := word (spGet 0 s.brine.panCe p * 65536 + spGet 0 s.brine.panUe p)

/-- A corrected word: counted, and recorded at most once per 2^20 ticks (Table 4.4, R76, R292). -/
def countCe (p line w : Nat) (s : State) : State :=
  let s1 := (s.updCa fun a => { a with eccCe := satAdd 0xFFFFFF a.eccCe 1, eccLast := eccWord false p line }).updBrine fun b =>
    { b with panCe := spSet 0 b.panCe p (satAdd 0xFFFF (panCe b p) 1), corrected := (p, 16 * line + w) :: b.corrected }
  bbCorrected 0x10 1 p noSeq (eccWord false p line) (panEcc s1 p) s1

/-- A detection in a unit whose probe runs counts only toward the probe's result (R280) (DEDUCED, log entry 57). -/
def hitProbe (u : UnitId) (s : State) : State :=
  s.updFabric fun f => { f with probes := f.probes.map fun x => if x.unit = u then { x with hit := true } else x }

/-- What a detection does to a unit: its effect, or a mark on the unit's running probe (R280). -/
def detected (u : UnitId) (eff : State → State) (s : State) : State := if (probeOf s u).isSome then hitProbe u s else eff s

/-- An uncorrectable word: counted, recorded, and a fault of code 1 (Table 4.4, R280). -/
def uncorrectable (p line : Nat) (seq : Word) (s : State) : State :=
  let s1 :=
    if counts s (.pan p) then
      (s.updCa fun a => { a with eccUe := satAdd 0xFF a.eccUe 1, eccLast := eccWord true p line }).updBrine fun b =>
        { b with panUe := spSet 0 b.panUe p (satAdd 0xFFFF (spGet 0 b.panUe p) 1) }
    else s
  detected (.pan p) (fun _ => onFault (.pan p) 1 (line / 512) none (unitRecord 0x11 (.pan p) seq (eccWord true p line) 0 s1)) s

/-- A word with one bit in error: corrected, or uncorrectable when it was corrected earlier in the same scrub pass (Table 4.4) (DESIGN
CHOICE, log entry 68). -/
def oneBit (p line w : Nat) (seq : Word) (s : State) : State :=
  if s.brine.corrected.contains (p, 16 * line + w) then uncorrectable p line seq s else countCe p line w s

/-- Count a residue or dual-rail fault of a leaf pan (R66, R67) (DEDUCED, log entry 56). -/
def countResidue (kind p column : Nat) (s : State) : State :=
  s.updCa fun a => { a with residueArray := satAdd 0xFFFF a.residueArray 1, residueLast := residueWord kind p column }

/-- The block that a pan's read port last addressed; 0 for other units. -/
def blockOf (s : State) : UnitId → Nat
  | .pan p => spGet 0 s.brine.lastBlock p
  | _ => 0

/-- A watchdog's limit in ns: 2.0 µs unless the image sets another (R24, CTL_WDOG in units of 10 ns). -/
def watchdogLimit (s : State) : Nat := 10 * (match s.image.cfg with | some c => c.wdog | none => 200)

/-- The host chip owes a position groups of a window. -/
def groupsOut (s : State) (l : Nat) : Bool :=
  s.ports.reads.any fun r => match r.kind with
    | .overflow x _ => x == l
    | .windowPatch x _ => x == l
    | .windowReplay x _ => x == l
    | _ => false

/-- A boundary port holds the wait now (R24). -/
def waitStands (s : State) : PortWait → Bool
  | .egress => egressWaits s
  | .groups l => groupsOut s l
  | .child k => s.pipe.flight.any fun x => x.rows.any fun r => r.phase != .done && r.slots.any fun sl => decide (0 < spGet 0 sl.due k)
  | .link l => linkOpen s l && !(linkAt s l).queue.isEmpty
  | .load k => (readOf k s).isSome

/-- The request stands behind a wait at a boundary port, which limits of its own time (R24). Which wait holds up which request is the state of
the handshake network, so the command names it (DESIGN CHOICE, log entry 148). -/
def boundaryWait (s : State) (q : Request) : Bool := q.behind.any (waitStands s)

/-- A watchdog of the unit runs: a fenced pan's are stopped (R39). -/
def watches (s : State) : UnitId → Bool
  | .pan p => !(panAt s p).fenced
  | _ => true

/-- A request of the unit, outstanding since the oscillator time `q.since`, has met the limit, and stands behind no boundary port. One that
waits on a fenced unit has been released (R24, R39, R280) (DESIGN CHOICE, log entry 148). -/
def expired (s : State) (u : UnitId) (q : Request) (nb : UnitId) : Bool :=
  decide (q.since + watchdogLimit s ≤ s.tide.osc) && watches s u && !unitFenced s nb && !boundaryWait s q

/-- A watchdog expires (R24, R284): a request that left the unit on a channel crossed to its neighbour. -/
def watchdog (u : UnitId) (channel : Nat) (nb : UnitId) (s : State) : State :=
  detected u (fun s => onFault u 4 (blockOf s u) (if channel < 4 then some nb else none) (unitRecord 0x14 u (workSeq s) (word channel) (unitArg nb) s)) s

/-- Lines of a region. -/
def regionLines : Nat := 5120

/-- One word of a scrubbed line. -/
def scrubWord (p line : Nat) (s : State) (w : WordCheck) : State :=
  match w with
  | .corrected k => oneBit p line k noSeq s
  | .uncorrectable _ => uncorrectable p line noSeq s

/-- A pan reads and checks its next line; after the last line a new pass begins (DESIGN CHOICE, log entry 67). -/
def scrubLine (p : Nat) (found : List WordCheck) (s : State) : State :=
  let line := spGet 0 s.brine.scrubAt p
  let s1 := found.foldl (scrubWord p line) (noteRead p (512 * line) s)
  let next := if line + 1 = regionLines then 0 else line + 1
  s1.updBrine fun b =>
    { b with
      scrubAt := spSet 0 b.scrubAt p next, scrubTide := spSet 0 b.scrubTide p s.tide.count.toNat
      corrected := if next = 0 then b.corrected.filter fun q => q.1 != p else b.corrected }

/-- The scrubber's next line of a pan is due (R77). -/
def scrubDue (s : State) (p : Nat) : Bool :=
  s.soft.scrubEn && !(panAt s p).fenced && decide (spGet 0 s.brine.scrubTide p + 16 * s.soft.scrubInterval ≤ s.tide.count.toNat)

/-- What one detection does (Tables 14.1, 4.4 and 14.7) (DEDUCED, log entry 56; DESIGN CHOICE, log entry 68). -/
def detect (u : UnitId) (d : Detect) (s : State) : State :=
  let seq := workSeq s
  let n := unitNum u
  let fault (code : Nat) (s : State) : State := onFault u code (blockOf s u) none s
  match d, u with
  | .brineWord line, .pan p => uncorrectable p line seq s
  | .brineCorrected line w, .pan p => oneBit p line w seq s
  | .residue column, .pan p =>
    detected u (fun s => fault 2 (unitRecord 0x12 u seq (residueWord 0 p column) 0 (if counts s u then countResidue 0 p column s else s))) s
  | .dualRail column, .pan p =>
    detected u (fun s => fault 3 (unitRecord 0x13 u seq (residueWord 1 p column) 0 (if counts s u then countResidue 1 p column s else s))) s
  | .dualRail _, _ => detected u (fun s => fault 3 (unitRecord 0x13 u seq 0 0 s)) s
  | .tileStore store w, .pan _ | .tileStore store w, .cell _ =>
    detected u (fun s => fault 5 (unitRecord 0x16 u seq (word store) (word w)
      (if counts s u then s.updCb fun c => { c with tileUe := satAdd 0xFF c.tileUe 1 } else s))) s
  | .corrected store w, .head =>
    bbCorrected 0x15 3 0 seq (word store) (word w) (s.updCb fun c => { c with headCe := satAdd 0xFFF c.headCe 1 })
  | .corrected store w, _ =>
    bbCorrected 0x15 (unitType u) n seq (word store) (word w) (s.updCb fun c => { c with tileCe := satAdd 0xFFF c.tileCe 1 })
  | .headMismatch again row, .head =>
    let s1 := s.updCa fun a =>
      { a with residueHead := satAdd 0xFFFF a.residueHead 1, residueLast := residueWord 2 (Config.headPhys % 2048) 0 }
    let s2 := unitRecord 0x17 u (conditionSeq s) (word (if again then 2 else 1)) (word row) (if counts s u then s1 else s)
    if again then fault 8 s2 else s2
  | .headStore store w, .head => fault 9 (unitRecord 0x16 u seq (word store) (word w) s)
  | .timeout q nb, _ => watchdog u q.channel nb s
  | .scrub found, .pan p => scrubLine p found s
  | _, _ => s

/-- The order of faults reported in one handshake: UNITTYPE, then UNIT (Table 14.5). -/
def faultBefore (a b : UnitId × Detect) : Bool := decide (unitType a.1 * 65536 + unitNum a.1 ≤ unitType b.1 * 65536 + unitNum b.1)

/-- The units that a detection names beside its own are there, and its channel is one of Table 14.7's. -/
def detectThere (s : State) (q : UnitId × Detect) : Bool :=
  unitThere s q.1 && match q.2 with | .timeout r nb => unitThere s nb && decide (r.channel ≤ 4) | _ => true

/-- The detection can be made: a time-out has expired, and a scrubbed line was due. -/
def mayDetect (s : State) (q : UnitId × Detect) : Bool :=
  match q.2, q.1 with
  | .timeout r nb, u => expired s u r nb
  | .scrub _, .pan p => scrubDue s p
  | .scrub _, _ => false
  | _, _ => true

/-- What the detections of one handshake do, in the order of their units (Table 14.5). -/
def detectAll (ds : List (UnitId × Detect)) (s : State) : State := (ds.mergeSort faultBefore).foldl (fun t q => detect q.1 q.2 t) s

/-- FAULT: the detections of one handshake, time-outs and scrubbed words among them (Table 14.5). -/
def execFault (u : UnitId) (d : Faults) (s : State) : Host.Outcome State Fault Refusal :=
  forUnit (((u, d.own) :: d.others).all (detectThere s))
    (when' s.power.logicOn (pushMirror (detectAll (((u, d.own) :: d.others).filter (mayDetect s)) s)) s)

/-- WATCHDOG_EXPIRY: a request of the unit has met the limit (R24). -/
def execWatchdogExpiry (u : UnitId) (q : Request) (nb : UnitId) (s : State) : Host.Outcome State Fault Refusal :=
  forUnit (unitThere s u && unitThere s nb && decide (q.channel ≤ 4))
    (when' (s.power.logicOn && expired s u q nb) (pushMirror (watchdog u q.channel nb s)) s)

/-! ### Takeover steps (Table 2.5) -/

/-- Offsets of the bank numbered `k`. -/
def bankRange (s : State) (k : Nat) : Nat × Nat := if isSingle s then (0, scoreBase) else (k * 0x100000, (k + 1) * 0x100000)

/-- A member whose spare serves its position and whose fault is lasting leaves its bed DEGRADED (R283) (DEDUCED, log entry 58). -/
def degradeServed (before : State) (b : Nat) (s : State) : State :=
  raise srcBedDegraded (changeBed before b { bedAt s b with phase := .degraded } s)

/-- Steps 4 to 7: the live bank, the auxiliary area and the row directory rebuilt, the leaf on the spare, the affected rows rerun (R73), and
the scores of the others in the spare's buffer (R39). -/
def rebuilt (b m : Nat) (s : State) : State :=
  let p := 17 * b + m
  let sp := 17 * b + 16
  let r := bankRange s s.brine.live
  let s1 := brineRebuild (survivors b m) sp r.1 r.2 (brineRebuild (survivors b m) sp adapterBase regionSize s)
  let s1 := match s.image.cfg with | some c => restoreDirectory c b m s1 | none => s1
  let s2 := changeBed s b { bedAt s b with phase := .substituted, switched := true } s1
  let s3 := if (panAt s p).lasting then degradeServed s2 b s2 else s2
  let hit (r : Row) : Bool := r.rerun.contains p
  clearRerun p (reformScores p (16 * b + m) (rerunRows (.pan p) hit s3))

/-- REBUILD_DONE. -/
def execRebuildDone (bed : Nat) (s : State) : Host.Outcome State Fault Refusal :=
  forUnit (decide (bed < s.part.beds))
    (match (bedAt s bed).subst with
     | some m => when' (s.power.logicOn && (bedAt s bed).phase == .rebuilding) (pushMirror (rebuilt bed m s)) s
     | none => .next s)

/-- Step 8: the shadow bank rebuilt; the journal's patches for the bed may retire, and a HELD flip decides again (R40, Table 11.4). -/
def shadowRebuilt (b m : Nat) (s : State) : State :=
  let r := bankRange s (1 - s.brine.live)
  let s1 := if isSingle s then s else brineRebuild (survivors b m) (17 * b + 16) r.1 r.2 s
  (setBed b { bedAt s b with shadowLeft := false } s1).updWeights fun w => { w with recheck := true }

/-- SHADOW_REBUILD_DONE. -/
def execShadowRebuildDone (bed : Nat) (s : State) : Host.Outcome State Fault Refusal :=
  forUnit (decide (bed < s.part.beds))
    (match (bedAt s bed).subst with
     | some m => when' (s.power.logicOn && (bedAt s bed).shadowLeft && (bedAt s bed).switched) (shadowRebuilt bed m s) s
     | none => .next s)

/-! ### Verdicts (R282 to R286, R289) -/

/-- WINDOW of CTL_FLT_FLAP in tide ticks. -/
def flapTicks (s : State) : Nat := 1000000 * s.soft.flapWindow

/-- Transients inside the current window. -/
def recentOf (s : State) (ts : List Int) : List Int := ts.filter fun t => decide ((s.tide.count.toNat : Int) < t + (flapTicks s : Int))

/-- The transients of a unit. -/
def unitRecent (s : State) : UnitId → List Int
  | .pan p => recentOf s (panAt s p).recent
  | .cell p => recentOf s (cellAt s p).recent
  | .head => []

/-- Count a transient of a unit (R283). -/
def countTransient (u : UnitId) (s : State) : State :=
  let now : Int := s.tide.count.toNat
  let s1 := s.updCb fun c => { c with fltTransient := satAdd 0xFFF c.fltTransient 1 }
  match u with
  | .pan p =>
    let x := panAt s p
    setPan p { x with transient := satAdd 0xFFFF x.transient 1, recent := recentOf s x.recent ++ [now] } s1
  | .cell p =>
    let x := cellAt s p
    setCell p { x with transient := satAdd 0xFFFF x.transient 1, recent := recentOf s x.recent ++ [now] } s1
  | .head => s1

/-- A passing pan returns to service where its bed lets it: the spare of a bed none of whose pans is fenced enters RESTORING, whatever a
merge cell has left unplaced (R285) (DEDUCED, log entry 60). -/
def returnPan (p : Nat) (s : State) : State :=
  let b := p / 17
  let x := bedAt s b
  let free (s : State) : State := setPan p { panAt s p with fenced := false } s
  if p % 17 = 16 then
    let served := (List.range 16).all fun m => !(panAt s (17 * b + m)).fenced
    if x.spareProbe ∧ x.phase = .degraded ∧ served then
      unitRecord 0x26 (.pan p) noSeq (freeArg s) 0
        (changeBed s b { x with phase := .restoring, spareProbe := false } (free s))
    else setBed b { x with spareProbe := false } s
  else if x.phase = .substituted ∧ x.subst = some (p % 17) then setBed b { x with copying := true } (free s)
  else s

/-- A passing merge cell returns to the free cells (R286) (DEDUCED, log entry 60). -/
def returnCell (p : Nat) (s : State) : State :=
  unitRecord 0x26 (.cell p) noSeq (freeArg s) 0 (setCell p { cellAt s p with phase := .free } s)

/-- A unit returns to service. -/
def returnUnit (u : UnitId) (s : State) : State :=
  match u with
  | .pan p => returnPan p s
  | .cell p => returnCell p s
  | .head => s

/-- A lasting fault (R283): `why` is ARG0 of LASTING, `phase` the failing phase of a failed probe (DEDUCED, log entry 58). -/
def makeLasting (u : UnitId) (why : Nat) (phase : Option Nat) (s : State) : State :=
  let s1 := unitRecord 0x29 u noSeq (word why) 0
    (raise srcPanLasting (s.updCb fun c => { c with fltLasting := satAdd 0xFF c.fltLasting 1 }))
  match u with
  | .pan p =>
    let b := p / 17
    let s2 := setPan p { panAt s1 p with lasting := true, failPhase := phase.getD (panAt s1 p).failPhase } s1
    let x := bedAt s2 b
    if p % 17 = 16 then setBed b { x with spareProbe := false } s2
    else if (x.phase = .substituted ∨ (x.phase = .degraded ∧ x.switched)) ∧ x.subst = some (p % 17) then degradeServed s2 b s2
    else s2
  | .cell p => setCell p { cellAt s1 p with phase := .lasting } s1
  | .head => s1

/-- A software probe's verdict ends BUSY (R289). -/
def endSoftware (phase : Option Nat) (s : State) : State :=
  raise srcProbeEnd (s.updFabric fun f =>
    { f with stBusy := false, stResult := if phase.isNone then 1 else 2, stPhase := phase.getD 0 })

/-- The march of phase 6 leaves its block, one of the region's 10, holding zero words, and ends with a read of it (R282) (DEDUCED, log
entries 61 and 164). -/
def marchBlock (x : Probe) (s : State) : State :=
  match x.unit with
  | .pan p =>
    if x.block ≤ 9 then
      noteRead p (x.block * 262144) (s.updBrine fun b =>
        { b with mem := spClear b.mem (p * regionSize + x.block * 262144) (p * regionSize + (x.block + 1) * 262144) })
    else s
  | _ => s

/-- The neighbour to which a passing time-out probe's request had crossed (R284) (DEDUCED, log entry 66). -/
def crossedTo (x : Probe) (v : ProbeVerdict) : Option UnitId :=
  if x.cause = 4 then x.crossed else if x.cause = 7 then v.crossed else none

/-- Handshakes that a passing probe takes (Table 14.3). -/
def probeHandshakes : UnitId → Word
  | .cell _ => 6736
  | _ => 18004

/-- A probe passes (R283, R284, R289) (DEDUCED, log entries 59 and 61). -/
def probePasses (x : Probe) (v : ProbeVerdict) (s : State) : State :=
  let u := x.unit
  let s1 := marchBlock x s
  let passed (n : Nat) (s : State) : State := unitRecord 0x24 u noSeq (probeHandshakes u) (word n) s
  let recent := (unitRecent s u).length
  if x.cause = 6 then endSoftware none (returnUnit u (passed recent s1))
  else
    match crossedTo x v with
    | some nb =>
      let s2 := returnUnit u (passed recent s1)
      onFault nb 7 (blockOf s2 nb) none (unitRecord 0x14 nb (workSeq s2) (freeArg s2) (unitArg u) s2)
    | none =>
      if s.soft.flapLimit ≠ 0 ∧ s.soft.flapLimit ≤ recent + 1 then makeLasting u 1 none (passed recent s1)
      else returnUnit u (passed (recent + 1) (countTransient u s1))

/-- A probe fails. -/
def probeFails (x : Probe) (phase : Nat) (place : Word) (s : State) : State :=
  let s1 := makeLasting x.unit 0 (some phase) (unitRecord 0x25 x.unit noSeq (word phase) place s)
  if x.cause = 6 then endSoftware (some phase) s1 else s1

/-- A probe ends with its verdict (DEDUCED, log entry 66). -/
def endProbe (x : Probe) (v : ProbeVerdict) (place : Word) (s : State) : State :=
  let s1 := s.updFabric fun f => { f with probes := f.probes.erase x }
  pushMirror (match v.failPhase with | none => probePasses x v s1 | some k => probeFails x k place s1)

/-- A passing probe takes longer than the takeover that it runs beside (Tables 2.5 and 14.3), so it ends after it (DEDUCED, log entry 59). -/
def takeoverOver (s : State) (u : UnitId) : Bool :=
  match u with
  | .pan p =>
    let b := bedAt s (p / 17)
    !(b.subst == some (p % 17) && (b.phase == .rebuilding || b.shadowLeft))
  | _ => true

/-- A probe has reached its limit: 40 µs of the always-on oscillator (R282, R337) (DEDUCED, log entry 147). -/
def probeLate (x : Probe) (s : State) : Bool := decide (x.start + 40000 ≤ s.tide.osc)

/-- PROBE_END: a pass comes before the limit, after the takeover, and of a unit in which nothing was detected (R280, R282). -/
def execProbeEnd (u : UnitId) (v : ProbeVerdict) (s : State) : Host.Outcome State Fault Refusal :=
  forUnit (unitThere s u)
    (match probeOf s u with
     | some x =>
       let ok := match v.failPhase with | none => takeoverOver s u && !x.hit && !probeLate x s | some k => decide (1 ≤ k) && decide (k ≤ 7)
       when' (s.power.logicOn && ok) (endProbe x v (word v.place) s) s
     | none => .next s)

/-- PROBE_TIMEOUT: a probe that reaches its limit fails with phase 7 (R282). -/
def execProbeTimeout (u : UnitId) (s : State) : Host.Outcome State Fault Refusal :=
  forUnit (unitThere s u)
    (match probeOf s u with
     | some x =>
       when' (s.power.logicOn && probeLate x s) (endProbe x ⟨some 7, 0, none⟩ (freeArg s) s) s
     | none => .next s)

/-! ### Return of a leaf pan (R41, R285) -/

/-- RETURN_COPY_DONE: the returning pan holds the spare's banks, adapter slots and value-head region. -/
def execReturnCopyDone (bed : Nat) (s : State) : Host.Outcome State Fault Refusal :=
  forUnit (decide (bed < s.part.beds))
    (match (bedAt s bed).subst with
     | some m =>
       when' (s.power.logicOn && (bedAt s bed).copying)
         (setBed bed { bedAt s bed with copying := false, copied := true }
           (noteRead (17 * bed + 16) (regionSize - 1) (copyRegion (17 * bed + 16) (17 * bed + m) s))) s
     | none => .next s)

/-- The logical leaf moves back and the bed is RESTORING. A parent's sheet between two passes finds its scores in the pan (R39). -/
def moveBack (b m : Nat) (s : State) : State :=
  reformScores (17 * b + m) (16 * b + m) (unitRecord 0x26 (.pan (17 * b + m)) noSeq (word (16 * b + m)) 0
    (changeBed s b { bedAt s b with phase := .restoring, subst := none, switched := false, copied := false } s))

/-- LEAF_MOVE_BACK: at a boundary with no sheet in stage 4 or 5. -/
def execLeafMoveBack (bed : Nat) (s : State) : Host.Outcome State Fault Refusal :=
  forUnit (decide (bed < s.part.beds))
    (match (bedAt s bed).subst with
     | some m => when' (s.power.logicOn && (bedAt s bed).copied && atBoundary s) (pushMirror (moveBack bed m s)) s
     | none => .next s)

/-- The spare holds the XOR of its 16 members again (R41, R78). -/
def formParity (b : Nat) (s : State) : State := parityRanges.foldl (fun t r => brineRebuild (members b) (17 * b + 16) r.1 r.2 t) s

/-- PARITY_DONE: the bed is INTACT. -/
def execParityDone (bed : Nat) (s : State) : Host.Outcome State Fault Refusal :=
  forUnit (decide (bed < s.part.beds))
    (when' (s.power.logicOn && (bedAt s bed).phase == .restoring)
      (pushMirror (changeBed s bed { bedAt s bed with phase := .intact } (formParity bed s))) s)

/-! ### Software probes (R289) -/

/-- Why a software probe is refused, in the order of R289. -/
def stRefusal (s : State) (cell : Bool) (block phys : Nat) : Option Nat :=
  if s.fabric.stBusy then some 1
  else if s.fabric.halted then some 3
  else if cell ∧ freeCells s = [] then some 2
  else if s.part.pans ≤ phys ∨ 9 < block then some 0
  else if cell then (if unitFenced s (.cell phys) then some 0 else none)
  else if (bedAt s (phys / 17)).phase ≠ .intact ∨ (panAt s phys).fenced then some 0
  else none

/-- An accepted or refused GO (R289). -/
def stGo (cell : Bool) (block phys : Nat) (s : State) : State :=
  match stRefusal s cell block phys with
  | some k =>
    raise srcProbeEnd (s.updFabric fun f => { f with stErr := true, stKind := k, stCell := cell, stPhys := phys })
  | none =>
    let s1 := s.updFabric fun f =>
      { f with stBusy := true, stErr := false, stResult := 0, stPhase := 0, stCell := cell, stPhys := phys }
    if cell then fenceCell phys 6 none (word block) s1 else fencePan phys 6 block none s1

/-- A write of ST_CTL. -/
def writeStCtl (value : Word) (s : State) : State :=
  let v := value.toNat
  if bitOf v 31 then pushMirror (stGo (bitOf v 30) (bitsOf v 14 11) (bitsOf v 10 0) s) else s

/-- ST_PROBE. -/
def execStProbe (value : Word) (s : State) : Host.Outcome State Fault Refusal := .next (chipWrite (writeStCtl value) s)

/-! ### Scrubbing (R75 to R77) -/

/-- SCRUB_READ (DESIGN CHOICE, log entry 67). -/
def execScrubRead (p : Nat) (found : List WordCheck) (s : State) : Host.Outcome State Fault Refusal :=
  forUnit (decide (p < s.part.pans))
    (when' (s.power.logicOn && scrubDue s p) (pushMirror (scrubLine p found s)) s)

/-! ### The management mirror's checker (R291) -/

/-- Mirror word `i` and its source. -/
def mirrorWord (s : State) (i : Nat) : Word × Word :=
  if i = 0 then (s.fabric.mgSummary, fltStatus s) else (spGet 0 s.fabric.mgBeds (i - 1), bedStatus s (i - 1))

/-- A mirror word that differs from its source is reported and rewritten. -/
def checkWord (s : State) (i : Nat) : State :=
  let q := mirrorWord s i
  if q.1 = q.2 then s
  else
    let s1 := bbRecord 0x40 0 0 noSeq (word i) q.2 (raise srcMgmtDiverge s)
    s1.updFabric fun f =>
      { f with
        divergeCount := satAdd 0xFFFF f.divergeCount 1, divergeLast := i
        mgSummary := if i = 0 then q.2 else f.mgSummary
        mgBeds := if i = 0 then f.mgBeds else spSet 0 f.mgBeds (i - 1) q.2 }

/-- One run of the checker. -/
def mirrorRun (s : State) : State :=
  ((List.range (s.part.beds + 1)).foldl checkWord s).updFabric fun f => { f with mirrorAt := s.tide.count.toNat }

/-- A logic-domain power-up: pending pushes are completed and the checker runs; before the first push there is nothing to compare (R291)
(DEDUCED, log entry 151). -/
def mirrorUp (s : State) : State :=
  if s.fabric.mgHeld.isSome then mirrorRun (pushMirrorNow s) else pushMirrorNow s

/-- MIRROR_CHECK: every 65,536 tide ticks while the logic domain is up. -/
def execMirrorCheck (s : State) : Host.Outcome State Fault Refusal :=
  when' (s.power.aoUp && s.power.logicOn && !s.fabric.mgStale && decide (s.fabric.mirrorAt + 65536 ≤ s.tide.count.toNat))
    (mirrorRun s) s

end Sys2Proof.Machine
end

