-- ==== Sys2Proof/Machine/DomainOps.lean ====
section
/-!
DEFINITION. Merge domains (13_reach_fabric.md R264 to R275): the state of the domain, joining, admission, loss and departure of children, a
member's separation from its parent, and the messages of Table 13.7.
-/

namespace Sys2Proof.Machine

/-! ### Signature (R44, R233, R234) -/

/-- CTL_SIG[0]. -/
def sigWord0 (s : State) : Word := word (0x01000000 + bit01 (vellOn s) * 2 + bit01 (looseOn s))

/-- CTL_SIG[1]: the ID of the generation in force. -/
def sigGen (s : State) : Word := genBufId (if s.fn.inForce = 0 then s.fn.buf0 else s.fn.buf1)

/-- The 16 bytes of the reproducibility signature. -/
def sigBytes (s : State) : List Byte :=
  leBytes 4 (sigWord0 s).toNat ++ leBytes 4 (sigGen s).toNat ++ leBytes 8 s.image.treeSig.toNat

/-! ### State of the domain (R265, R266) -/

/-- Every token of the vocabulary is placed in the subtree. -/
def covered (s : State) (c : ImageCfg) : Bool := (List.range c.vocab).all (placed s c)

/-- Every listed child is ADMITTED. -/
def allIn (s : State) : Bool := (childIdx s).all (childIn s)

/-- The state that role, children and placements give (DEDUCED, log entry 97). -/
def domPhaseNow (s : State) : DomPhase :=
  match s.image.cfg with
  | none => .none
  | some c =>
    if c.role = 0 then .none
    else if s.reach.dom.phase = .failed then .failed
    else if c.role = 1 then (if allIn s ∧ covered s c then .formed else .partialDom)
    else if s.reach.dom.admitted then (if allIn s then .formed else .partialDom)
    else if s.reach.dom.phase = .standalone then .standalone
    else .forming

/-- Set the state of the domain (DEDUCED, log entry 97). -/
def setDomPhase (s : State) : State := s.updReach fun r => { r with dom := { r.dom with phase := domPhaseNow s } }

/-- Set the state; a root that leaves FORMED by a departure loses its rows in flight (R266). -/
def leaveFormed (s : State) : State :=
  let t := setDomPhase s
  if role s = 1 ∧ s.reach.dom.phase = .formed ∧ t.reach.dom.phase ≠ .formed then losePartners t else t

/-! ### Joining (R265, R270) -/

/-- The placement bitmap of the subtree: bit (t mod 8) of byte t div 8 for token t. -/
def placementBytes (s : State) (c : ImageCfg) : List Byte :=
  (List.range (ceilDiv c.vocab 8)).map fun i =>
    BitVec.ofNat 8 (((List.range 8).map fun b =>
      if 8 * i + b < c.vocab && placed s c (8 * i + b) then 2 ^ b else 0).sum)

/-- The tokens that a bitmap names. -/
def bitmapTokens (v : Nat) (bs : List Byte) : List Nat :=
  let a := bs.toArray
  (List.range v).filter fun t => bitOf (a.getD (t / 8) 0).toNat (t % 8)

/-- A member whose own children are all ADMITTED sends JOIN to its parent over an UP link (R261, R265). One that was refused or timed out joins
again at the next event that calls this: a link that comes up, a hail frame, an address or a change of its children (DESIGN CHOICE, log
entry 185). -/
def tryJoin (s : State) : State :=
  match s.image.cfg, s.reach.addr, parentLink s with
  | some c, some a, some l =>
    if c.role = 2 ∧ !s.reach.dom.joined ∧ !s.reach.dom.admitted ∧ allIn s ∧ linkUp s l then
      let s1 := s.updReach fun r => { r with dom := { r.dom with joined := true, reported := subtreeSealed s, ownReported := s.weights.wSealed } }
      sendUp l (.placement (placementBytes s c)) (sendUp l (.join a (sigBytes s) s.weights.wLive (subtreeSealed s)) s1)
    else s
  | _, _, _ => s

/-- The child slot that an address or alternate address names (R264, R274). -/
def childSlotOf (s : State) (addr : Nat) : Option Nat :=
  match s.image.cfg with
  | some c => c.children.findIdx? fun k => k.addr == addr || (k.alt != 0 && k.alt == addr)
  | none => none

/-- A slot that a JOIN may fill: absent, lost, departed or refused, and not about to be filled (R274). -/
def slotOpen (x : ChildSt) : Bool := x.phase != .admitted && !x.joinsNext

/-- JOIN arrives: the slot waits for the bitmap. An address that the image does not list, or whose slot is filled, joins nothing
(DEDUCED, log entry 98). -/
def joinArrives (l addr : Nat) (sig : List Byte) (live sealed : Word) (s : State) : State :=
  match childSlotOf s addr, s.reach.addr with
  | some k, some _ =>
    if k < s.reach.dom.children.length ∧ slotOpen (childSt s k) then updChild k (fun x => { x with link := l, joining := some (addr, sig, live, sealed) }) s
    else s
  | _, _ => s

/-- The remote child whose JOIN on a link waits for its bitmap. -/
def joiningOn (s : State) (l : Nat) : Option Nat :=
  (childIdx s).find? fun k => (childSt s k).link == l && (childSt s k).joining.isSome

/-- A token is set in two placements of the domain: the child's and the parent's own, or those of another child that is admitted or is to
join at the next boundary. -/
def overlaps (s : State) (c : ImageCfg) (k : Nat) (toks : List Nat) : Bool :=
  toks.any fun t =>
    (c.place t).isSome ||
    (childIdx s).any fun j => j != k && (childIn s j || (childSt s j).joinsNext) && (childSt s j).tokens.contains t

/-- The reason to refuse a JOIN, 0 for none, in the order of Table 13.7 (R265, R274, R322). H, V and the tree signature are those of the
hail frame. A child one step behind that has sealed the live step is let in after a FIRE (DEDUCED, log entries 98 and 99). ALLOW_OVERLAP is
that of this engine's own image, at an intermediate engine too (DESIGN CHOICE, log entry 184). -/
def refusal (s : State) (c : ImageCfg) (k : Nat) (sig : List Byte) (live sealed : Word) (toks : List Nat) : Nat :=
  let f := (linkAt s (childSt s k).link).peerFrame
  let expect := ((c.children[k]?).map ChildCfg.sig).getD 0
  if leAt sig 0 4 ≠ (sigWord0 s).toNat ∨ leAt f 16 8 ≠ expect.toNat then 1
  else if leAt f 32 2 ≠ c.hchunks ∨ leAt f 36 4 ≠ c.vocab then 2
  else if live ≠ s.weights.wLive ∧ !(live < s.weights.wLive ∧ sealed = s.weights.wLive) then 3
  else if !c.allowOverlap ∧ overlaps s c k toks then 4
  else 0

/-- REFUSE goes to a child with its reason. -/
def refuseChild (k why : Nat) (s : State) : State :=
  (sendUp (childSt s k).link (.refuse why) (updChild k (fun x =>
    { x with phase := .refused, joining := none, joinsNext := false, tokens := [], sealed := none }) s)).updReach fun r =>
    { r with dom := { r.dom with reason := why } }

/-- A JOIN is complete: refused at once, or admitted at the next boundary (R265, R266, R274). -/
def placementArrives (c : ImageCfg) (k : Nat) (bytes : List Byte) (s : State) : State :=
  match (childSt s k).joining with
  | none => s
  | some (addr, sig, live, sealed) =>
    let l := (childSt s k).link
    let toks := bitmapTokens c.vocab bytes
    let why := refusal s c k sig live sealed toks
    let alt := ((c.children[k]?).map ChildCfg.addr) != some addr
    let s0 := updChild k (fun x => { x with addr := addr, alt := alt }) s
    if why = 0 then
      let s1 := if live = s.weights.wLive then s0 else sendUp l (.fire s.weights.wLive) s0
      updChild k (fun x =>
        { x with joining := none, joinsNext := true, live := s.weights.wLive, tokens := toks, sealed := some sealed }) s1
    else
      let s2 := refuseChild k why s0
      if why = 4 then raise srcDomainOverlap (s2.updReach fun r => { r with dom := { r.dom with phase := .failed } }) else setDomPhase s2

/-! ### Boundaries (R266) -/

/-- Children that were about to join are forgotten: their link fell, their address changed, or the engine's own did (R261, R264). -/
def forgetJoins (hit : ChildSt → Bool) (s : State) : State :=
  s.updReach fun r => { r with
    dom := { r.dom with
      children := r.dom.children.map fun x =>
        if hit x && x.phase != .admitted then { x with joining := none, joinsNext := false, tokens := [], sealed := none } else x } }

/-- A child leaves its slot. -/
def childGone (p : ChildPhase) (x : ChildSt) : ChildSt :=
  { x with phase := p, tokens := [], sealed := none, joinsNext := false, departing := false, joining := none }

/-- A member answers ADAPTER_DONE for every version that its whole subtree has written (R270). -/
def settleRelays (s : State) : State :=
  let fin := s.adapters.relays.filter fun x => x.await.isEmpty
  fin.foldl (fun t x => toParent (.adapterDone x.ver 0) t)
    (s.updAdapters fun a => { a with relays := a.relays.filter fun x => !x.await.isEmpty })

/-- An admitted or re-admitted child joins. Its live step is held against the parent's once more: one that a flip since its JOIN has left
a step behind is sent FIRE first, or refused (R265, R274) (DEDUCED, log entry 99). A child that joins after the root accepted an ARM is
not sent it (DESIGN CHOICE, log entry 167). -/
def admitChild (s : State) (k : Nat) : State :=
  let x := childSt s k
  let admitNow (t : State) : State :=
    lateShares k (sendUp x.link .admission
      (updChild k (fun x => { x with phase := .admitted, joinsNext := false, live := s.weights.wLive }) t))
  if !x.joinsNext then s
  else if x.live = s.weights.wLive then admitNow s
  else if x.live < s.weights.wLive ∧ x.sealed = some s.weights.wLive then admitNow (sendUp x.link (.fire s.weights.wLive) s)
  else refuseChild k 3 s

/-- A child departs. -/
def departChild (s : State) (k : Nat) : State :=
  if (childSt s k).departing then updChild k (childGone .departed) s else s

/-- The composition changes at a boundary; the sealed steps below may have changed with it, and the last missing member may close an open
window (R225) (DEDUCED, log entry 100). An intermediate engine tells its parent nothing of a child that departs (DESIGN CHOICE, log entry
186). -/
def changeDomain (s : State) : State :=
  let s1 := (childIdx s).foldl departChild s
  tryJoin (tryClose (sealedChanged (leaveFormed ((childIdx s1).foldl admitChild s1))))

/-- A change of composition waits. -/
def changeWaits (s : State) : Bool := (childIdx s).any fun k => (childSt s k).joinsNext || (childSt s k).departing

/-- DOMAIN_CHANGE. -/
def execDomainChange (s : State) : Host.Outcome State Fault Refusal :=
  when' (s.power.logicOn && domBoundary s && changeWaits s) (changeDomain s) s

/-! ### Loss (R273) -/

/-- A read of a group that a sheet fetches. -/
def readFor (x : Sheet) (r : ReadReq) : Bool := match r.kind with | .overflow l _ => x.fetch.any fun q => q.1 == l | _ => false

/-- Domain sheets hold no read of theirs outstanding once they are dropped. -/
def dropSheet (s : State) (x : Sheet) : State :=
  settleFetch ((s.updPorts fun p => { p with reads := p.reads.filter fun r => !readFor x r }).updPipe fun p =>
    { p with flight := p.flight.filter fun y => y.seq != x.seq })

/-- The SEQ that a domain sheet has at its root: sheets of a parent are kept under 2^64 + SEQ. -/
def outerSeq (x : Sheet) : Nat := x.seq % 2 ^ 64

/-- The key of a parent's sheet. -/
def innerSeq (seq : Nat) : Nat := 2 ^ 64 + seq % 2 ^ 64

/-- Drop every sheet of the parent, here and below (R273, R274) (DEDUCED, log entry 101). -/
def dropMemberSheets (s : State) : State :=
  (memberSheets s).foldl (fun t x => toKids x (.abort (outerSeq x)) (dropSheet t x)) s

/-- STEP_ABORTED for a row; the children drop the sheet and owe nothing more for it. -/
def Row.abortRow (r : Row) : Row :=
  { r.failWith (fun f => { f with aborted := true }) with slots := r.slots.map fun sl => { sl with due := [] } }

/-- A sheet of the engine's own that has entered stage 3. -/
def lossHits (x : Sheet) : Bool := decide (3 ≤ x.stage) && x.parentLink.isNone

/-- Every row of every own domain sheet in stage 3 or later is aborted; ABORT goes to the other children (R273, items 1 and 2). -/
def abortSheets (s : State) : State :=
  let hit := s.pipe.flight.filter lossHits
  let fresh := hit.filter fun x => x.rows.any fun r => !r.fail.aborted
  let s1 := s.updPipe fun p => { p with flight := p.flight.map fun x => if lossHits x then { x with rows := x.rows.map Row.abortRow } else x }
  let s2 := s1.updCb fun c => { c with domAborted := satAdd 0xFFFF c.domAborted fresh.length }
  settleFetch (hit.foldl (fun t x => toKids x (.abort x.seq) t) s2)

/-- A member leaves its domain: it sends JOIN again, and an admission after this is a re-admission (R270, R274). -/
def leaveDomain (d : DomainSt) : DomainSt := { d with joined := false, admitted := false, left := d.left || d.admitted }

/-- A child is LOST (R273) (DEDUCED, log entry 101). -/
def loseChild (k : Nat) (s : State) : State :=
  let x := childSt s k
  let s1 := bbRecord 0x32 4 x.link noSeq (word k) (word x.addr)
    (raise srcPartnerLost ((updChild k (childGone .lost) s).updCb fun c => { c with domLosses := satAdd 0xFFFF c.domLosses 1 }))
  let s2 := abortSheets s1
  let s3 :=
    if role s = 2 then
      let t := toParent (.lost x.addr) (dropMemberSheets s2)
      t.updReach fun r => { r with dom := leaveDomain r.dom }
    else s2
  settleStages (setDomPhase (sealedChanged s3))

/-- The admitted child on a link. -/
def childOn (s : State) (l : Nat) : Option Nat := (childIdx s).find? fun k => childIn s k && (childSt s k).link == l

/-- STEP_TIMEOUT: no UP record of a held sheet arrived from the child in time. -/
def execStepTimeout (k : Nat) (s : State) : Host.Outcome State Fault Refusal :=
  forUnit (decide (k < 14))
    (when' (s.power.logicOn && childIn s k && s.pipe.flight.any fun x => heldBelow s k x && x.upAt.any fun u =>
        u.1 == k && decide (u.2 + 1000 * s.soft.stepTimeout ≤ s.tide.osc))
      (loseChild k s) s)

/-- A member's parent link has gone DOWN: its domain sheets are dropped and it is standalone (R274). -/
def cutOff (s : State) : State :=
  let s1 := dropMemberSheets s
  settleStages (s1.updReach fun r => { r with dom := { leaveDomain r.dom with phase := .standalone } })

/-! ### Messages (Table 13.7) -/

/-- ADMIT arrives: the member is part of the domain. A re-admitted member starts with an empty adapter table (R270, R274). -/
def admitted (l : Nat) (s : State) : State :=
  if parentLink s = some l ∧ s.reach.dom.joined then
    let s1 :=
      if s.reach.dom.left then
        s.updAdapters fun a => { a with table := List.replicate 16 adReset, records := [], relays := [] }
      else s
    reportSealed (setDomPhase (s1.updReach fun r => { r with dom := { r.dom with admitted := true, left := false, phase := .forming } }))
  else s

/-- REFUSE arrives with its reason. -/
def refused (l reason : Nat) (s : State) : State :=
  if parentLink s = some l then
    s.updReach fun r => { r with dom := { r.dom with joined := false, reason := reason } }
  else s

/-- The last SEALED of a child: while its JOIN waits for the bitmap, it stands for the one the JOIN carried (R271). -/
def putSealed (stp : Word) (x : ChildSt) : ChildSt :=
  { x with
    sealed := if x.joining.isSome then x.sealed else some stp
    joining := x.joining.map fun j => (j.1, j.2.1, j.2.2.1, stp) }

/-- The child on a link: one that is admitted, is to join, or whose JOIN waits for its bitmap. -/
def childHeard (s : State) (l : Nat) : Option Nat :=
  (childIdx s).find? fun k => (childSt s k).link == l && (childIn s k || (childSt s k).joinsNext || (childSt s k).joining.isSome)

/-- SEALED arrives from a child (R271). -/
def sealedArrives (l : Nat) (stp : Word) (s : State) : State :=
  match childHeard s l with
  | some k => tryClose (sealedChanged (updChild k (putSealed stp) s))
  | none => s

/-- ARM arrives from the parent: the member is armed as the root accepted it, and passes it on (R222, R271). -/
def armArrives (l : Nat) (stp : Word) (tide : Dword) (s : State) : State :=
  if parentLink s = some l ∧ s.reach.dom.admitted then
    toChildren (.arm stp tide) ((endArm 4 s).updWeights fun w =>
      { w with
        flip := .armed, holdLimit := s.soft.flipHoldLimit, flipTarget := stp, flipTide := tide, windowRaised := false })
  else s

/-- DISARM arrives from the parent. -/
def disarmArrives (l : Nat) (stp : Word) (tide : Dword) (s : State) : State :=
  if parentLink s = some l ∧ s.reach.dom.admitted then
    toChildren (.disarm stp tide)
      (if s.weights.flip = .armed ∨ s.weights.flip = .window then (endArm 3 s).updWeights fun w => { w with flip := .idle } else s)
  else s

/-- FIRE arrives: the member fires at its next boundary (R271); a member that joins one step behind fires before it is admitted
(R274) (DEDUCED, log entry 99). -/
def fireArrives (l : Nat) (stp : Word) (s : State) : State :=
  if parentLink s = some l ∧ s.weights.wLive < stp then s.updReach fun r => { r with dom := { r.dom with fire := some stp } } else s

/-- LOST arrives from a child for one of its own descendants (R273). -/
def lostArrives (l : Nat) (s : State) : State := match childOn s l with | some k => loseChild k s | none => s

/-- A child announces that it leaves; it goes at the next boundary (R266, R273). -/
def departArrives (l : Nat) (s : State) : State :=
  match childOn s l with
  | some k => updChild k (fun x => { x with departing := true }) s
  | none => s

/-! ### Progress (R273) -/

/-- A domain sheet that a member holds in stages 3 to 5, between two passes of it too, and whose last PROGRESS is 2 µs old (DEDUCED, log entry
109). -/
def progressDue (s : State) (x : Sheet) : Bool :=
  x.parentLink.isSome && domOpen s x && decide (x.progressAt + 2000 ≤ s.tide.osc)

/-- Send PROGRESS for a sheet. -/
def sendProgress (s : State) (x : Sheet) : State :=
  toParent (.progress (outerSeq x)) (updSheet x.seq (fun y => { y with progressAt := s.tide.osc }) s)

/-- PROGRESS_SEND (DEDUCED, log entry 109). -/
def execProgressSend (s : State) : Host.Outcome State Fault Refusal :=
  when' (s.power.logicOn && s.pipe.flight.any (progressDue s)) ((s.pipe.flight.filter (progressDue s)).foldl sendProgress s) s

end Sys2Proof.Machine
end

