-- ==== Sys2Proof/Machine/LinkCtl.lean ====
section
/-!
DEFINITION. Reach links (13_reach_fabric.md R250 to R262): the link states, hail frames, flit reception with acknowledgement, replay and
credits, addresses and the route table; and what a link's failure does to routes, domain and multicast groups.
-/

namespace Sys2Proof.Machine

/-! ### Hail frames (R259) -/

/-- The engine's block address, 0xFFFF for none. -/
def ownAddr (s : State) : Nat := s.reach.addr.getD 0xFFFF

/-- The hail frame of a link (Table 13.5). -/
def hailFrame (s : State) (l stage : Nat) : List Byte :=
  let img {α : Type} (d : α) (f : ImageCfg → α) : α := (s.image.cfg.map f).getD d
  padTo 244
    (leBytes 1 stage ++ leBytes 1 1 ++ leBytes 2 (ownAddr s) ++ leBytes 1 (linkAt s l).width ++ leBytes 1 l ++
     leBytes 1 s.part.variant ++ leBytes 1 (role s + 4 * bit01 (isMaster s)) ++ sigBytes s ++ leBytes 8 s.reach.device.toNat ++
     leBytes 2 (img 0 ImageCfg.hchunks) ++ leBytes 1 (img 0 fun c => wFmtCode c.wfmt) ++ leBytes 1 s.tide.hops ++
     leBytes 4 (img 0 ImageCfg.vocab) ++ leBytes 4 s.weights.wLive.toNat ++ leBytes 4 s.weights.wSealed.toNat ++
     leBytes 2 (if role s = 2 then img 0 ImageCfg.parent else 0) ++ leBytes 2 0 ++ leBytes 8 s.tide.count.toNat)

/-- Send a HAIL. -/
def sendHail (l stage : Nat) (s : State) : State := sendFlit l (.hail (hailFrame s l stage)) s

/-! ### Routes (R262) -/

/-- A ROUTE flit's entries: any change is advertised. -/
def routeArrives (l : Nat) (entries : List (Nat × Nat)) (s : State) : State :=
  match s.reach.addr with
  | none => s
  | some _ =>
    let t := entries.foldl (offerRoute l) s
    if routeView t = routeView s then t else advertise t

/-- ROUTE_ADVERTISE: every 100 µs. -/
def execRouteAdvertise (s : State) : Host.Outcome State Fault Refusal :=
  when' (s.power.logicOn && s.reach.addr.isSome && decide (s.reach.advertisedAt + 100000 ≤ s.tide.osc)) (advertise s) s

/-- ROUTE_AGE: an entry not re-offered within 400 µs. -/
def execRouteAge (addr : Nat) (s : State) : Host.Outcome State Fault Refusal :=
  when' (s.power.logicOn && s.reach.routes.any fun e => e.addr == addr && decide (e.at_ + 400000 ≤ s.tide.osc))
    (dropRoutes (fun e => e.addr == addr) s) s

/-! ### Link states (R258) -/

/-- A child's drained link that falls at a boundary of the domain: the child departs (R266, R273). -/
def leftInPeace (s : State) (l : Nat) : Bool := (linkAt s l).phase == .drain && domBoundary s

/-- What a link's fall means for the domain: a child is lost, or has departed; one that was about to join no longer does; a member is cut
off (R264, R273, R274). -/
def domainLinkDown (before : State) (l : Nat) (s : State) : State :=
  let s1 := match childOn before l with
    | some k => if leftInPeace before l then leaveFormed (updChild k (childGone .departed) s) else loseChild k s
    | none => forgetJoins (fun x => x.link == l) s
  if parentLink before = some l ∨ (role before = 2 ∧ (before.image.cfg.map ImageCfg.parent) = some (linkAt before l).peer ∧
      (linkAt before l).phase = .drain) then cutOff s1 else s1

/-- A link that is in another state enters DOWN (R258); every group that names it leaves it out (R277). -/
def enterDown (l : Nat) (failure : Option Nat) (s : State) : State :=
  let s2 := linkFalls l failure s
  let s3 := if linkOpen s l then domainLinkDown s l (dropRoutes (fun e => e.link == l) s2) else s2
  setHops (tryLock l (leaveGroups l s3))

/-- A link enters UP: LINK_UP, its record, routes, the multicast copies it kept and the reports that waited, and a member's JOIN (R258, R265,
R277). -/
def enterUp (l : Nat) (s : State) : State :=
  let s1 := updLink l (fun k => { k with phase := .up, since := s.tide.osc, lastGood := s.tide.osc }) s
  let s2 := bbRecord 0x31 4 l noSeq (word (linkAt s l).peer) 0 (raise (srcLinkUp l) s1)
  tryJoin (setHops (advertise (reportGroups (settleMcast (pump l s2)))))

/-- A link drains: GOODBYE is sent, and DEPART to the parent of a member; with no sheet in flight on it, it falls to DOWN
(Table 13.4). -/
def enterDrain (l : Nat) (s : State) : State :=
  let s1 := if parentLink s = some l then sendUp l .depart s else s
  let s2 := sendFlit l (.goodbye (ownAddr s)) (updLink l (fun k => { k with phase := .drain, since := s.tide.osc }) s1)
  match childOn s l with
  | some k => updChild k (fun x => { x with departing := true }) s2
  | none => s2

/-- Sheets in flight on a link: with a child on it, every domain sheet in stages 3 to 5; and those of the parent it carries. -/
def sheetsOn (s : State) (l : Nat) : Bool :=
  (match childOn s l with | some _ => !domBoundary s | none => false) ||
  s.pipe.flight.any fun x => x.parentLink == some l && domOpen s x

/-- A draining link with nothing left goes DOWN (DEDUCED, log entry 96). -/
def settleDrain (l : Nat) (s : State) : State :=
  if (linkAt s l).phase = .drain ∧ !sheetsOn s l then enterDown l none s else s

/-- The link whose lanes include one. -/
def linkOfLane (s : State) (lane : Nat) : Option Nat :=
  (List.range 8).find? fun l => decide (l ≤ lane) && decide (lane < l + (linkAt s l).width)

/-- Set PHY_READY of a lane. -/
def setPhy (lane : Nat) (b : Bool) (s : State) : State := s.updReach fun r => { r with phy := r.phy.set lane b }

/-- PHY_READY_RISE. -/
def execPhyReadyRise (lane : Nat) (s : State) : Host.Outcome State Fault Refusal :=
  forUnit (decide (lane < 8))
    (when' (!s.reach.phy.getD lane false)
      (match linkOfLane s lane with | some l => tryLock l (setPhy lane true s) | none => setPhy lane true s) s)

/-- PHY_READY_FALL: any state falls to DOWN (R258) (DEDUCED, log entry 94). -/
def execPhyReadyFall (lane : Nat) (s : State) : Host.Outcome State Fault Refusal :=
  forUnit (decide (lane < 8))
    (when' (s.reach.phy.getD lane false)
      (match linkOfLane s lane with
       | some l => if s.power.logicOn ∧ (linkAt s l).phase ≠ .down then enterDown l none (setPhy lane false s) else setPhy lane false s
       | none => setPhy lane false s) s)

/-- The symbol errors of the codewords a lane has received. -/
def laneErrors (x : LaneSync) : List Nat := x.words.map Prod.fst

/-- Every lane of a link is locked, on groups of one GSEQ (R252) (DEDUCED, log entry 146). -/
def lanesLocked (s : State) (l : Nat) (lanes : List LaneSync) : Bool :=
  let last (x : LaneSync) : Option Nat := (x.words.getLast?).map fun w => w.2.2
  lanes.length == (linkAt s l).width && (lanes.zipIdx.all fun q => laneLock q.2 q.1.words) &&
  lanes.all fun x => last x == (lanes.head?).bind last

/-- The lane skew: how far apart the codewords of one GSEQ arrive, in ns. -/
def laneSkew (lanes : List LaneSync) : Nat :=
  let ts := lanes.map LaneSync.time
  ts.foldl max 0 - ts.foldl min (ts.headD 0)

/-- The link locks: HAIL begins. -/
def enterHail (l : Nat) (lanes : List LaneSync) (s : State) : State :=
  sendHail l 1 (updLink l (fun k => { k with phase := .hail, skew := laneSkew lanes, since := s.tide.osc, hailAt := s.tide.osc }) s)

/-- LANE_LOCK: the codewords that the lanes of a link in LOCK have received are counted; with every lane locked on its last three, and a
skew between lanes of at most 32 ns, HAIL begins (R252) (DEDUCED, log entry 146). -/
def execLaneLock (l : Nat) (lanes : List LaneSync) (s : State) : Host.Outcome State Fault Refusal :=
  forUnit (decide (l < 8))
    (when' (s.power.logicOn && (linkAt s l).phase == .lock)
      (if lanesLocked s l lanes ∧ laneSkew lanes ≤ 32 then enterHail l lanes (countCodewords l (lanes.flatMap laneErrors) s)
       else countCodewords l (lanes.flatMap laneErrors) s) s)

/-- A link state's time limit has passed; the wait of DOWN has ended; or a drain has nothing left (Table 13.4) (DEDUCED, log entry 85). -/
def stateExpired (l : Nat) (s : State) : State :=
  let k := linkAt s l
  let past (n : Nat) : Bool := decide (k.since + n ≤ s.tide.osc)
  match k.phase with
  | .lock => if past 100000 then enterDown l (some 1) s else s
  | .hail => if past 1000000 then enterDown l (some 2) s else s
  | .drain => if past 100000 ∨ !sheetsOn s l then enterDown l none s else s
  | .down => if k.wait ∧ past 1000000 then tryLock l (updLink l (fun k => { k with wait := false }) s) else s
  | _ => s

/-- LINK_STATE_TIMEOUT. -/
def execLinkStateTimeout (l : Nat) (s : State) : Host.Outcome State Fault Refusal :=
  forUnit (decide (l < 8)) (when' s.power.logicOn (stateExpired l s) s)

/-- LINK_TIMEOUT: an UP link without a good flit. -/
def execLinkTimeout (l : Nat) (s : State) : Host.Outcome State Fault Refusal :=
  forUnit (decide (l < 8))
    (when' (s.power.logicOn && (linkAt s l).phase == .up && decide ((linkAt s l).lastGood + 1000 * s.soft.linkTimeout ≤ s.tide.osc))
      (enterDown l (some 7) s) s)

/-- HAIL_RESEND: every 10 µs in HAIL. -/
def execHailResend (l : Nat) (s : State) : Host.Outcome State Fault Refusal :=
  forUnit (decide (l < 8))
    (when' (s.power.logicOn && (linkAt s l).phase == .hail && decide ((linkAt s l).hailAt + 10000 ≤ s.tide.osc))
      (sendHail l 1 (updLink l (fun k => { k with hailAt := s.tide.osc }) s)) s)

/-- The reason for which CHECK fails, 0 for none (R260). Where several conditions fail, the first in the order of the list counts (DESIGN
CHOICE, log entry 183). -/
def checkReason (s : State) (l : Nat) : Nat :=
  let f := (linkAt s l).peerFrame
  let a := leAt f 2 2
  if leAt f 1 1 ≠ 1 then 3
  else if leAt f 4 1 ≠ (linkAt s l).width then 4
  else if leAt f 24 8 = s.reach.device.toNat then 5
  else if a = ownAddr s ∧ a ≠ 0xFFFF then 6
  else 0

/-- An UP link drains, and falls at once with nothing in flight on it (R258). -/
def drainLink (l : Nat) (s : State) : State := if linkUp s l then settleDrain l (enterDrain l s) else s

/-- HAIL_CHECK: UP, or FAILED with the reason. A DETACH written before moves the link on as it reaches UP (DEDUCED, log entry 159). -/
def hailCheck (l : Nat) (s : State) : State :=
  if checkReason s l = 0 then (if (linkAt s l).detach then drainLink l (enterUp l s) else enterUp l s)
  else updLink l (fun k => { k with phase := .failed, reason := checkReason s l, since := s.tide.osc }) s

/-- HAIL_CHECK. -/
def execHailCheck (l : Nat) (s : State) : Host.Outcome State Fault Refusal :=
  forUnit (decide (l < 8)) (when' (s.power.logicOn && (linkAt s l).phase == .check) (hailCheck l s) s)

/-! ### RCH_LINK_CTL (R258) -/

/-- RETRAIN: the link goes to DOWN, or no longer waits there, and then to LOCK. -/
def retrainLink (l : Nat) (s : State) : State :=
  if (linkAt s l).phase = .down then tryLock l (updLink l (fun k => { k with wait := false }) s) else enterDown l none s

/-- DETACH is set, in any state of the link; an UP link drains, any other as it reaches UP (DEDUCED, log entry 159). -/
def setDetach (l : Nat) (s : State) : State := drainLink l (updLink l (fun k => { k with detach := true }) s)

/-- A write of RCH_LINK_CTL: EN, then RETRAIN, then DETACH (DEDUCED, log entry 18). -/
def writeLinkCtl (l : Nat) (value : Word) (s : State) : State :=
  let v := value.toNat
  let s1 := updLink l (fun k => { k with en := bitOf v 0, txEn := bitOf v 0, retrain := k.retrain || bitOf v 1 }) s
  let s2 :=
    if !bitOf v 0 then (if (linkAt s1 l).phase = .down then s1 else enterDown l none s1)
    else if bitOf v 1 then retrainLink l s1
    else tryLock l s1
  if bitOf v 2 then setDetach l s2 else s2

/-- DETACH: a write of RCH_LINK_CTL[l] with DETACH = 1. -/
def execDetach (l : Nat) (value : Word) (s : State) : Host.Outcome State Fault Refusal :=
  forUnit (decide (l < 8)) (.next (chipWrite (writeLinkCtl l value) s))

/-- RETRAIN: a write of RCH_LINK_CTL[l] with RETRAIN = 1. -/
def execRetrain (l : Nat) (value : Word) (s : State) : Host.Outcome State Fault Refusal :=
  forUnit (decide (l < 8)) (.next (chipWrite (writeLinkCtl l value) s))

/-- LINK_EN: a write of RCH_LINK_CTL[l]. -/
def execLinkEn (l : Nat) (value : Word) (s : State) : Host.Outcome State Fault Refusal :=
  forUnit (decide (l < 8)) (.next (chipWrite (writeLinkCtl l value) s))

/-! ### Reception (R252 to R257) -/

/-- An ACK covers every flit up to its SEQ. -/
def ackedReplay (q : List (Flit × Nat)) (ack : Nat) : List (Flit × Nat) :=
  if q.any fun e => e.1.seq == ack then (q.dropWhile fun e => e.1.seq != ack).drop 1 else q

/-- A NAK: everything unacknowledged is replayed in order; a flit replayed 8 times takes the link down (R255). -/
def replayAll' (l : Nat) (s : State) : State :=
  let q := (linkAt s l).replay
  if q.isEmpty then s
  else
    let s1 := updLink l (fun k =>
      { k with replay := k.replay.map fun e => (e.1, e.2 + 1), replays := satAdd 0xFF k.replays 1 }) s
    let s2 := q.foldl (fun t e => emitFlit l e.1 t) s1
    if q.any fun e => decide (8 ≤ e.2 + 1) then enterDown l (some 7) s2 else s2

/-- Acknowledgements and credits of a good header. -/
def headerIn (l : Nat) (h : FlitHdr) (s : State) : State :=
  let s1 := updLink l (fun k =>
    { k with
      lastGood := s.tide.osc
      credits := k.credits.mapIdx fun v n => if v = h.cvc then min (fullCredits.getD v 0) (n + h.credit) else n
      replay := if h.ackValid then ackedReplay k.replay h.ack else k.replay }) s
  settleMcast (pump l (if h.ackValid && h.nak then replayAll' l s1 else s1))

/-- Count a flit's symbols and codewords (R252). -/
def countCoding (l : Nat) (h : FlitHdr) (s : State) : State := countCodewords l h.errors s

/-- No codeword that the flit overlaps is uncorrectable, and its CRC-32C holds (R252, R254). -/
def flitGood (h : FlitHdr) : Bool :=
  !h.spoilt && h.errors.all correctable && h.payload.length == 244 &&
  crc32c (flitHead h.type h.vc h.seq h.ack h.nak h.ackValid h.credit h.cvc ++ h.payload) == h.crc

/-- Count a flit or record discarded under R257. -/
def countProto (l : Nat) (s : State) : State := updLink l (fun k => { k with proto := satAdd 0xF k.proto 1 }) s

/-- Codewords reach the link: from HAIL on, in FAILED too (R252) (DEDUCED, log entry 192). -/
def hears (s : State) (l : Nat) : Bool :=
  s.power.logicOn && match (linkAt s l).phase with | .down => false | .lock => false | _ => true

/-- Flits take effect: HAIL and IDLE from HAIL on, others while the link is UP or drains. -/
def listens (s : State) (l : Nat) (training : Bool) : Bool :=
  s.power.logicOn &&
  match (linkAt s l).phase with
  | .up => true
  | .drain => true
  | .hail => training
  | .check => training
  | _ => false

/-- A flit in order is accepted: SEQ advances, and its credit is owed; an MCAST flit stays in its receive buffer until it has gone on (R255,
R256, R277). -/
def acceptFlit (l vc : Nat) (s : State) : State :=
  updLink l (fun k => { k with rxSeq := (k.rxSeq + 1) % 4096, owed := if vc = 3 then k.owed else k.owed.modify vc (· + 1) }) s

/-- An MCAST flit that goes nowhere leaves its receive buffer at once. -/
def returnCredit (l : Nat) (s : State) : State := sendIdle l false (updLink l (fun k => { k with owed := k.owed.modify 3 (· + 1) }) s)

/-- A sequenced flit arrives: one that is bad or out of order is discarded and answered with a NAK; one of another type than `ty` on its
channel is counted and discarded; the rest take effect (R254, R255, R257) (DEDUCED, log entry 93). -/
def sequenced (l ty vc : Nat) (h : FlitHdr) (eff : State → State) (s : State) : State :=
  let s1 := countCoding l h s
  if !flitGood h then sendIdle l true s1
  else
    let s2 := headerIn l h s1
    if (linkAt s2 l).phase = .down then s2
    else if h.seq ≠ (linkAt s2 l).rxSeq then sendIdle l true s2
    else if h.type ≠ ty ∨ h.vc ≠ vc then
      countProto l (if h.vc = 3 then returnCredit l (acceptFlit l 3 s2) else sendIdle l false (acceptFlit l h.vc s2))
    else eff (acceptFlit l vc s2)

/-- A flit that takes no effect in the link's state: its codewords count (R252). In HAIL and CHECK it is discarded and answered with a NAK, so
that a peer that is UP already replays it; a link in FAILED sends IDLE only (R255, Table 13.4) (DEDUCED, log entry 192). -/
def unheard (l : Nat) (h : FlitHdr) (s : State) : State :=
  let s1 := countCoding l h s
  if (linkAt s l).phase = .failed then s1
  else
    let s2 := if flitGood h then headerIn l h s1 else s1
    if (linkAt s2 l).phase = .down then s2 else sendIdle l true s2

/-- The payload spells a content. -/
def spells (h : FlitHdr) (content : List Byte) : Bool := h.payload == padTo 244 content

/-- The outcome of a flit on link `l` whose payload spells `content`; a payload that does not is no such command. -/
def recvFlit (l ty vc : Nat) (training : Bool) (h : FlitHdr) (content : Option (List Byte)) (eff : State → State) (s : State) :
    Host.Outcome State Fault Refusal :=
  forUnit (decide (l < 8))
    (when' (hears s l && (content.all (spells h) || !flitGood h))
      (if listens s l training then sequenced l ty vc h (fun t => eff (sendIdle l false t)) s else unheard l h s) s)

/-- A flit of a record stream: its payload joins the channel's bytes (R257). -/
def streamIn (l ty vc : Nat) (s : State) (h : FlitHdr) : State :=
  if listens s l false then
    sequenced l ty vc h (fun t =>
      sendIdle l false (updLink l (fun k => { k with stream := k.stream.modify vc (· ++ h.payload) }) t)) s
  else if hears s l then unheard l h s
  else s

/-- The bytes of a channel begin with a whole record of this header, whose content ends as stated: in `content`, all of it but the tag of a
gradient packet (R163). -/
def recordWhole (bs : List Byte) (r : RecHdr) (content : Option (List Byte)) : Bool :=
  bs.take 8 == recHead r.kind r.pass r.slot r.len && decide (8 + r.len ≤ bs.length) &&
  content.all fun c => ((bs.drop 8).take r.len).drop (r.len - c.length) == c

/-- What follows a record: a KIND of 0 is none of Table 13.6, so zeros are the unused end of a flit (DESIGN CHOICE, log entry 92). -/
def afterRecord (bs : List Byte) : List Byte := if bs.head? = some 0 then bs.drop (bs.length % 244) else bs

/-- A record arrives with the last of the flits `hs`; one whose kind or length is not its own is counted and discarded (R257). -/
def recordIn (l ty vc kind len : Nat) (hs : List FlitHdr) (r : RecHdr) (content : Option (List Byte)) (eff : State → State) (s : State) :
    State :=
  let t := hs.foldl (streamIn l ty vc) s
  let bs := (linkAt t l).stream.getD vc []
  if recordWhole bs r (if r.kind = kind ∧ r.len = len then content else none) then
    let t1 := updLink l (fun k => { k with stream := k.stream.set vc (afterRecord (bs.drop (8 + r.len))) }) t
    if r.kind = kind ∧ r.len = len then eff t1 else countProto l t1
  else t

/-- The outcome of a record on link `l`: `hs` are the flits that have arrived since the last record of the channel ended (DESIGN CHOICE,
log entry 92). -/
def recvRecord (l vc kind len : Nat) (hs : List FlitHdr) (r : RecHdr) (content : Option (List Byte)) (eff : State → State) (s : State) :
    Host.Outcome State Fault Refusal :=
  forUnit (decide (l < 8))
    (when' (hears s l) (recordIn l (if vc = 1 then 0x10 else 0x11) vc kind len hs r content eff s) s)

/-- What an IDLE does: acknowledgements, NAK and credits, with no sequence number; a bad one is discarded and answered by a NAK, as any
discarded flit (R252, R254, R255). -/
def idleIn (l : Nat) (h : FlitHdr) (s : State) : State :=
  let t := countCoding l h s
  if !flitGood h then sendIdle l true t else if h.type = 0 then headerIn l h t else t

/-- IDLE. -/
def execIdle (l : Nat) (h : FlitHdr) (s : State) : Host.Outcome State Fault Refusal :=
  forUnit (decide (l < 8)) (when' (hears s l) (if listens s l true then idleIn l h s else unheard l h s) s)

/-- A peer that tells another address on a link that is UP is no longer the parent or the child that it was (DESIGN CHOICE, log entry
161). -/
def peerRenamed (before : State) (l : Nat) (s : State) : State :=
  if (linkAt before l).peer = (linkAt s l).peer then s
  else
    let t := match childOn before l with
      | some k => loseChild k s
      | none => forgetJoins (fun x => x.link == l) s
    if parentLink before = some l then cutOff t else t

/-- A hail frame arrives: in HAIL a STAGE 2 leads to CHECK; a STAGE 1 is answered with a STAGE 2. On a link that is UP it renews what
the peer has told (R261) (DEDUCED, log entry 95). -/
def hailArrives (l : Nat) (frame : List Byte) (s : State) : State :=
  let stage := leAt frame 0 1
  let s1 := if stage = 1 then sendHail l 2 s else s
  let heard (k : LinkSt) : LinkSt := { k with peerFrame := frame, peer := leAt frame 2 2 }
  match (linkAt s l).phase with
  | .hail => if stage = 2 then updLink l (fun k => { heard k with phase := .check, since := s.tide.osc }) s1 else s1
  | .up => tryJoin (setHops (peerRenamed s1 l (updLink l heard s1)))
  | _ => s1

/-- HAIL. -/
def execHail (l : Nat) (h : FlitHdr) (frame : List Byte) (s : State) : Host.Outcome State Fault Refusal :=
  recvFlit l 0x01 0 true h (some frame) (hailArrives l frame) s

/-- GOODBYE: the peer drains, and so does the link (DEDUCED, log entry 96). -/
def goodbye (l : Nat) (s : State) : State := drainLink l s

/-- GOODBYE. -/
def execGoodbye (l : Nat) (h : FlitHdr) (addr : Nat) (s : State) : Host.Outcome State Fault Refusal :=
  recvFlit l 0x02 0 false h (some (leBytes 2 addr)) (goodbye l) s

/-- ROUTE. -/
def execRoute (l : Nat) (h : FlitHdr) (entries : List (Nat × Nat)) (s : State) : Host.Outcome State Fault Refusal :=
  recvFlit l 0x03 0 false h (some (routeBytes entries)) (routeArrives l entries) s

/-! ### Addresses (R261) -/

/-- An engine that loses its address leaves routing, its domain and the multicast groups' packets in part: its routes are dropped, its
children are lost, and a member is cut off (R261) (DESIGN CHOICE, log entry 161). -/
def leaveReach (s : State) : State :=
  let s1 := s.updReach fun r => { r with routes := [], groups := r.groups.map fun g => { g with partialPkt := [] } }
  let s2 := ((childIdx s1).filter (childIn s1)).foldl (fun t k => loseChild k t) (forgetJoins (fun _ => true) s1)
  if s.reach.dom.joined ∨ s.reach.dom.admitted then cutOff s2 else s2

/-- The address is told: an engine leaves what it took part in under an address that it no longer has, sends HAIL on every UP link and
advertises itself (DESIGN CHOICE, log entries 15 and 161; DEDUCED, log entry 95). -/
def tellAddr (s : State) : State :=
  let s1 := if s.reach.addrTold.isSome ∧ s.reach.addrTold ≠ s.reach.addr then leaveReach s else s
  let s2 := s1.updReach fun r => { r with addrTold := r.addr }
  tryJoin (advertise ((upLinks s2).foldl (fun t l => sendHail l 1 t) s2))

/-- A write of MG_RCH_ADDR: an assignment takes effect at once; while the logic domain does not run, nobody is told (DESIGN CHOICE, log
entries 15 and 161; DEDUCED, log entry 95). -/
def writeAddr (value : Word) (s : State) : State :=
  let v := value.toNat
  let a := bitsOf v 15 0
  let s1 := s.updReach fun r => { r with addr := if bitOf v 16 ∧ 1 ≤ a ∧ a ≤ 0xFEFF then some a else none, addrField := a }
  if s.power.logicOn then tellAddr s1 else s1

/-- ADDR_ASSIGN. -/
def execAddrAssign (value : Word) (s : State) : Host.Outcome State Fault Refusal := .next (mgWrite (writeAddr value) s)

/-! ### Domain messages -/

/-- JOIN. -/
def execJoin (l : Nat) (h : FlitHdr) (addr : Nat) (sig : List Byte) (live sealed : Word) (s : State) :
    Host.Outcome State Fault Refusal :=
  recvFlit l 0x06 0 false h none (joinArrives l addr sig live sealed) s

/-- PLACEMENT. -/
def execPlacement (l : Nat) (hs : List FlitHdr) (r : RecHdr) (bytes : List Byte) (s : State) : Host.Outcome State Fault Refusal :=
  recvRecord l 2 0x86 bytes.length hs r (some bytes) (fun t =>
    match t.image.cfg, joiningOn t l with
    | some c, some k => placementArrives c k bytes t
    | _, _ => t) s

/-- ADMIT. -/
def execAdmit (l : Nat) (h : FlitHdr) (s : State) : Host.Outcome State Fault Refusal := recvFlit l 0x06 0 false h none (admitted l) s

/-- REFUSE. -/
def execRefuse (l : Nat) (h : FlitHdr) (reason : Nat) (s : State) : Host.Outcome State Fault Refusal :=
  recvFlit l 0x06 0 false h none (refused l reason) s

/-- SEALED. -/
def execSealed (l : Nat) (h : FlitHdr) (stp : Word) (s : State) : Host.Outcome State Fault Refusal :=
  recvFlit l 0x06 0 false h none (sealedArrives l stp) s

/-- ARM from the parent. -/
def execDomainArm (l : Nat) (h : FlitHdr) (stp : Word) (tide : Dword) (s : State) : Host.Outcome State Fault Refusal :=
  recvFlit l 0x06 0 false h none (armArrives l stp tide) s

/-- DISARM from the parent. -/
def execDomainDisarm (l : Nat) (h : FlitHdr) (stp : Word) (tide : Dword) (s : State) : Host.Outcome State Fault Refusal :=
  recvFlit l 0x06 0 false h none (disarmArrives l stp tide) s

/-- FIRE. -/
def execFire (l : Nat) (h : FlitHdr) (stp : Word) (s : State) : Host.Outcome State Fault Refusal :=
  recvFlit l 0x06 0 false h none (fireArrives l stp) s

/-- LOST. -/
def execLost (l : Nat) (h : FlitHdr) (_addr : Nat) (s : State) : Host.Outcome State Fault Refusal := recvFlit l 0x06 0 false h none (lostArrives l) s

/-! ### Multicast (R276, R277) -/

/-- A packet is whole once LENGTH bytes of it have come. -/
def packetWhole (bs : List Byte) : Bool := decide (8 ≤ bs.length) && decide (leAt bs 4 4 ≤ bs.length)

/-- A multicast packet is applied as one of the switch port, unanswered; while an image is applied it waits with them (R276, R328). -/
def applyMcast (bs : List Byte) (s : State) : State :=
  if classifyPkt bs = .patchPkt then
    (if imageBusy s then s.updPorts fun p => { p with held := p.held ++ [(2, bs)] } else patchArrives 2 bs false s)
  else s

/-- A segment arrives from the direction of the source: it goes on, and joins its packet where the group is joined. Its credit returns when
it has left on every DOWN link (R277). -/
def mcastArrives (l g : Nat) (seg : List Byte) (s : State) : State :=
  let x := s.reach.groups.getD g mcastReset
  if s.reach.addr.isNone ∨ 16 ≤ g ∨ x.source ∨ x.upLink ≠ l then returnCredit l s
  else
    let bs := x.partialPkt ++ seg
    let keep (b : List Byte) (t : State) : State :=
      t.updReach fun r => { r with groups := r.groups.modify g fun y => { y with partialPkt := b } }
    let held (t : State) : State :=
      t.updReach fun r => { r with groups := r.groups.modify g fun y => { y with holding := y.holding + 1 } }
    let s1 := settleMcast (sendCopies g seg (held s))
    if packetWhole bs then (if x.join then applyMcast bs (keep [] s1) else keep [] s1) else keep bs s1

/-- MCAST. -/
def execMcast (l : Nat) (h : FlitHdr) (g : Nat) (seg : List Byte) (s : State) : Host.Outcome State Fault Refusal :=
  recvFlit l 0x20 3 false h (some (leBytes 2 g ++ seg)) (mcastArrives l g seg) s

/-- A report arrives on a DOWN link of a group (R277). -/
def reportArrives (l g : Nat) (stp : Word) (s : State) : State :=
  if s.reach.addr.isSome ∧ g < 16 ∧ bitOf (s.reach.groups.getD g mcastReset).down l then
    reportGroups (s.updReach fun r =>
      { r with groups := r.groups.modify g fun y => { y with reports := (l, stp) :: y.reports.filter fun p => p.1 != l } })
  else s

/-- MCAST_REPORT. -/
def execMcastReport (l : Nat) (h : FlitHdr) (g : Nat) (stp : Word) (s : State) : Host.Outcome State Fault Refusal :=
  recvFlit l 0x21 0 false h (some (leBytes 2 g ++ leBytes 4 stp.toNat)) (reportArrives l g stp) s

/-- DEPART. -/
def execDepart (l : Nat) (h : FlitHdr) (s : State) : Host.Outcome State Fault Refusal := recvFlit l 0x06 0 false h none (departArrives l) s

end Sys2Proof.Machine
end

