-- ==== Sys2Proof/Machine/DomainSheets.lean ====
section
/-!
DEFINITION. Domain records (13_reach_fabric.md R267 to R270, Table 13.6): the sheets, rows, brine, grader entries, masks, watched tokens and
passes that a parent sends a member; the adapters it distributes; and the outputs, rejections and progress that come up.
-/

namespace Sys2Proof.Machine

/-! ### Sheets of a parent (R267, R269, R271) -/

/-- The link is the one to the parent of an admitted member. -/
def fromParent (s : State) (l : Nat) : Bool := s.reach.dom.admitted && parentLink s == some l

/-- Sheet buffer number for a generation: the buffer that holds it, 2 for none (R269). -/
def bufferFor (s : State) (genId : Word) : Nat :=
  if genId = 0 then 2 else if genBufId s.fn.buf0 = genId then 0 else if genBufId s.fn.buf1 = genId then 1 else 2

/-- A parent's sheet as it opens, at stage 3. It is not opened at a child whose link drains (Table 13.4) (DEDUCED, log entry 107; DESIGN
CHOICE, log entry 153). -/
def memberSheet (s : State) (l seq : Nat) (live genId : Word) (slots : Nat) : Sheet :=
  { sheetWaiting (innerSeq seq) 0 0 [] [] with
    stage := 3, gen := bufferFor s genId, live := live, ovfBase := (windowBase s 0, windowBase s 1), parentLink := some l
    slotsDue := slots, upAt := ((childrenIn s).filter fun k => !(childSt s k).departing).map fun k => (k, s.tide.osc)
    progressAt := s.tide.osc }

/-- Two sheets of a parent are kept: the brine of older ones is no longer needed (R13, R267) (DEDUCED, log entry 104). -/
def dropOldest (s : State) : State :=
  match memberSheets s with
  | a :: _ :: _ => dropSheet s a
  | _ => s

/-- SHEET_OPEN: a live step above the engine's own makes it fire (R271). At a boundary, a change of the children that waits comes first
(R266) (DEDUCED, log entry 100). The sheet does not enter stage 2 (DESIGN CHOICE, log entry 153). -/
def sheetOpens (l seq : Nat) (live genId : Word) (slots order : Nat) (s : State) : State :=
  let s1 := dropOldest (if domBoundary s ∧ changeWaits s then changeDomain s else s)
  let x := memberSheet s1 l seq live genId slots
  let s2 := s1.updPipe fun p => { p with flight := p.flight ++ [x] }
  let s3 := s2.updReach fun r =>
    { r with dom := { r.dom with cur := innerSeq seq, fire := if s.weights.wLive < live then some live else r.dom.fire } }
  toKids x (.sheetOpen seq live genId slots order) s3

/-- SHEET_OPEN. -/
def execSheetOpen (l : Nat) (hs : List FlitHdr) (r : RecHdr) (seq : Nat) (live genId : Word) (slots order : Nat) (s : State) :
    Host.Outcome State Fault Refusal :=
  recvRecord l 1 0x01 24 hs r (some (sheetOpenBytes seq live genId slots order)) (fun t => if fromParent t l then sheetOpens l seq live genId slots order t else t) s

/-- The control settings that a control word carries. A first rake pass grades from the lanes and is pass 0 of a RACE or SCORE row, pass 1
of a LEDGER row, and every pass of a VERIFY slot. -/
def ctlOf (c : CtlWord) : PassCtl :=
  { pass := c.pass, useR := c.useR, kw := c.kw, theta := c.theta, resume := c.resume.map fun e => ⟨e.1, e.2⟩, level := c.level
    ref := c.ref, hist := c.hist, strict := c.strict, fromBuffer := c.fromBuffer
    first := !c.fromBuffer && (c.mode == 3 || c.pass == (if c.mode = 2 then 1 else 0)) }

/-- The grading parameters that a control word carries. -/
def paramsOf (c : CtlWord) : GradeParams := ⟨c.invT, c.rho, c.invRho, c.phi, c.pi, c.noised, c.seed, c.rngStep⟩

/-- A parent's row as its control word opens it. Its record names no context of this engine (DEDUCED, log entry 103). -/
def memberRow (slot : Nat) (c : CtlWord) : Row :=
  { rowWaiting [0xFF, 0xFF] with
    slot0 := slot, nslots := 1, bufRow := c.bufRow, dom := some c, domFirst := some (ctlOf c), snap := { ctxFree with maskRef := none16 }
    slots := [{ slotStart [] with params := paramsOf c, ctl := ctlOf c, awaits := c.lists }] }

/-- The reason for which a member rejects a row as it opens, 0 for none (R269, R270). -/
def rowReason (s : State) (x : Sheet) (c : CtlWord) : Nat :=
  if x.gen = 2 then 2
  else if c.adapter ≠ none16 ∧ !((adEntry s c.adapter).phase == .current || (adEntry s c.adapter).phase == .retiring) then 3
  else 0

/-- The failure that a REJECT's reason stands for (R269). -/
def rejectFlag (reason : Nat) (f : FailFlags) : FailFlags :=
  if reason = 1 then { f with poisoned := true } else if reason = 2 then { f with aborted := true } else { f with adapter := true }

/-- A parent's row cannot be served: a position of this engine is unplaced, or the sheet is not open at every remote child (R42, R266). -/
def rowLost (s : State) (x : Sheet) : Bool := anyUnplaced s || (sheetKids s x).length != remoteCount s

/-- The failures with which a parent's row opens. -/
def openFail (why : Nat) (lost : Bool) (f : FailFlags) : FailFlags :=
  { (if why = 0 then f else rejectFlag why f) with partnerLost := lost }

/-- ROW_CTL: the row joins its sheet; its children will owe its first output. A row that cannot be served ends here and sends nothing, which
the parent's STEP_TIMEOUT shows (DESIGN CHOICE, log entries 175 and 186). -/
def rowOpens (slot : Nat) (c : CtlWord) (s : State) : State :=
  let key := innerSeq c.tag
  match flightSheet s key with
  | none => s
  | some x =>
    let why := rowReason s x c
    let lost := rowLost s x
    let r := if why = 0 ∧ !lost then { memberRow slot c with slots := (memberRow slot c).slots.map (Slot.ask (sheetKids s x)) }
      else (memberRow slot c).failWith (openFail why lost)
    let s1 := (updSheet key (fun y => { y with rows := y.rows ++ [r] }) s).updReach fun q => { q with dom := { q.dom with cur := key } }
    let s2 := toKids x (.rowCtl slot c) s1
    if why = 0 then s2 else toParent (.reject slot why) s2

/-- ROW_CTL. -/
def execRowCtl (l : Nat) (hs : List FlitHdr) (r : RecHdr) (c : CtlWord) (s : State) : Host.Outcome State Fault Refusal :=
  recvRecord l 1 0x02 64 hs r none (fun t => if fromParent t l then rowOpens r.slot c t else t) s

/-- The row and position of a slot of the sheet whose records arrive (DEDUCED, log entry 103). -/
def memberSlot (s : State) (slot : Nat) : Option (Sheet × Nat × Nat) :=
  (flightSheet s s.reach.dom.cur).bind fun x => (x.slotAt slot).map fun q => (x, q.1, q.2)

/-- Change the slot of the sheet whose records arrive. -/
def updMemberSlot (slot : Nat) (f : Slot → Slot) (s : State) : State :=
  match memberSlot s slot with
  | some (x, i, p) => updSlotAt x.seq i p f s
  | none => s

/-- Pass a record of the sheet whose records arrive on to the sheet's children. -/
def passOn (f : OutFlit) (s : State) : State :=
  match flightSheet s s.reach.dom.cur with
  | some x => toKids x f s
  | none => s

/-- BRINE: the next chunk of a slot, passed on unchanged. -/
def brineArrives (slot : Nat) (bs : List Byte) (s : State) : State :=
  passOn (.brine slot bs) (updMemberSlot slot (fun y => { y with brine := y.brine ++ brineChunkOf bs }) s)

/-- BRINE. -/
def execBrine (l : Nat) (hs : List FlitHdr) (r : RecHdr) (bs : List Byte) (s : State) : Host.Outcome State Fault Refusal :=
  recvRecord l 1 0x03 264 hs r (some bs) (fun t => if fromParent t l then brineArrives r.slot bs t else t) s

/-- A list that the slot's control word announced has come. -/
def listCame (slot : Nat) (f : ListFlags → ListFlags) (s : State) : State := updMemberSlot slot (fun y => { y with awaits := f y.awaits }) s

/-- Reject a row of the sheet whose records arrive. -/
def rejectSlot (slot reason : Nat) (s : State) : State :=
  match memberSlot s slot with
  | some (x, i, _) => toParent (.reject slot reason) (updSheet x.seq (Sheet.updRow i (Row.failWith (rejectFlag reason))) s)
  | none => s

/-- A list record that its slot's control word did not announce, and that comes after the slot has begun to be scored: the slot's first pass
starts again here, so that every score is graded with it, unless the output has gone up. What the children have sent stays (R267, R268)
(DESIGN CHOICE, log entry 163). -/
def relist (seq i p : Nat) (s : State) : State :=
  let first := (fanout s).getD 0 0
  settleFetch (settleStages (updSlotAt seq i p (fun sl =>
    if sl.ctl.first && sl.head.isNone then { sl with leaves := [], nodes := sl.rerunNodes first } else sl) s))

/-- Entries that a sheet's rows hold at each position. -/
def heldEntries (x : Sheet) : List (Nat × Nat) :=
  x.rows.foldl (fun m r => if r.fail.any then m else r.slots.foldl (fun m sl => addEntries m sl.grader) m) []

/-- A row of a sheet has failed: it takes no entries (R96). -/
def rowEnded (x : Sheet) (i : Nat) : Bool := match x.rows[i]? with | some r => r.fail.any | none => true

/-- GRADER: entries for tokens of this engine are kept, under the limit of R96, and the others go to the child that places them (DEDUCED,
log entry 104; DESIGN CHOICE, log entry 163). -/
def graderArrives (slot : Nat) (bs : List Byte) (s0 : State) : State :=
  let s := listCame slot (fun a => { a with grader := false }) s0
  match s.image.cfg, memberSlot s slot with
  | some c, some (x, i, p) =>
    let es := domGraderOf bs
    let own := es.filterMap (graderPlace c)
    let m := addEntries (heldEntries x) own
    let s1 := (sheetKids s x).foldl (sendEntries slot es) s
    if rowEnded x i then s1
    else if m.any fun p => decide (65536 < p.2) then rejectSlot slot 1 (s1.updCa fun a => { a with graderOvf := a.graderOvf + 1 })
    else
      relist x.seq i p
        ((updMemberSlot slot (fun y => { y with grader := y.grader ++ own }) s1).updCa fun a => { a with graderPeak := max a.graderPeak (peakOf m) })
  | _, _ => s

/-- GRADER. -/
def execGrader (l : Nat) (hs : List FlitHdr) (r : RecHdr) (bs : List Byte) (s : State) : Host.Outcome State Fault Refusal :=
  recvRecord l 1 0x04 (12 * (bs.length / 12)) hs r (some bs) (fun t => if fromParent t l then graderArrives r.slot bs t else t) s

/-- A row takes its mask reference; in a sheet that scores it latches the bitmap at once (R101, R268) (DEDUCED, log entry 107). -/
def putMask (s : State) (x : Sheet) (ref : Nat) (r : Row) : Row :=
  let q := { r with snap := { r.snap with maskRef := ref } }
  if 4 ≤ x.stage then latchMask s q else q

/-- MASK: the row names a bitmap of this engine's own mask store (R268). -/
def maskArrives (slot ref : Nat) (s0 : State) : State :=
  let s := listCame slot (fun a => { a with mask := false }) s0
  passOn (.mask slot ref)
    (match memberSlot s slot with
     | some (x, i, p) => relist x.seq i p (updSheet x.seq (Sheet.updRow i (putMask s x ref)) s)
     | none => s)

/-- MASK. -/
def execMask (l : Nat) (hs : List FlitHdr) (r : RecHdr) (ref : Nat) (s : State) : Host.Outcome State Fault Refusal :=
  recvRecord l 1 0x05 2 hs r (some (leBytes 2 ref)) (fun t => if fromParent t l then maskArrives r.slot ref t else t) s

/-- WATCH: tokens whose graded scores the slot reports. -/
def watchArrives (slot : Nat) (toks : List Nat) (s : State) : State :=
  let t := updMemberSlot slot (fun y => { y with watch := y.watch ++ toks, awaits := { y.awaits with watch := false } }) s
  match memberSlot s slot with
  | some (x, i, p) => (sheetKids s x).foldl (sendWatch slot toks) (relist x.seq i p t)
  | none => t

/-- WATCH. -/
def execWatch (l : Nat) (hs : List FlitHdr) (r : RecHdr) (toks : List Nat) (s : State) : Host.Outcome State Fault Refusal :=
  recvRecord l 1 0x06 (4 * toks.length) hs r (some (toks.flatMap (leBytes 4))) (fun t => if fromParent t l then watchArrives r.slot toks t else t) s

/-- A row's next pass as its control word gives it; a first pass starts the row again. -/
def passRow (c : CtlWord) (ks : List Nat) (r : Row) : Row :=
  if r.fail.any then r
  else if c.backward then { r with dom := some c, phase := .backward }
  else
    let again (sl : Slot) : Slot :=
      let y := (sl.repass (ctlOf c)).ask ks
      if (ctlOf c).first then { y with headFirst := none, grads := [], gradSent := [], gradUp := [], dy := [] } else y
    { r with dom := some c, phase := .running, slots := r.slots.map again }

/-- Whether two control words take one pass together: the sheet's Ledger passes 2 and 3, or its backward pass (R139, R161). -/
def sharesPass (a b : CtlWord) : Bool :=
  (a.backward && b.backward) ||
  (!a.backward && !b.backward && a.mode == 2 && b.mode == 2 && a.pass == b.pass && (a.pass == 2 || a.pass == 3))

/-- The pass of the row numbered `i` takes its place in the order of issue: with the pass before it where they are one, else as a further
pass does (DEDUCED, log entry 135). -/
def issueMember (x : Sheet) (c : CtlWord) (i : Nat) (r : Row) (s : State) : State :=
  if x.rows.any fun q => q.issue + 1 == x.issues && (match q.dom with | some d => sharesPass d c | none => false) then
    updSheet x.seq (Sheet.updRow i fun q => { q with issue := x.issues - 1 }) s
  else issueFurther x i r s

/-- PASS (R122, R138, R161, R267). -/
def passArrives (slot : Nat) (c : CtlWord) (s : State) : State :=
  let key := innerSeq c.tag
  match flightSheet s key with
  | none => s
  | some x =>
    match x.slotAt slot with
    | none => s
    | some (i, _) =>
      let r := passRow c (sheetKids s x) ((x.rows[i]?).getD (memberRow slot c))
      settleFetch (settleStages (toKids x (.pass slot c)
        (issueMember x c i r (updSheet key (Sheet.updRow i fun _ => r) (renewIdle key s)))))

/-- PASS. -/
def execPass (l : Nat) (hs : List FlitHdr) (r : RecHdr) (c : CtlWord) (s : State) : Host.Outcome State Fault Refusal :=
  recvRecord l 1 0x07 64 hs r none (fun t => if fromParent t l then passArrives r.slot c t else t) s

/-- ABORT: the sheet is dropped, here and below (R273). -/
def sheetAborts (seq : Nat) (s : State) : State :=
  match flightSheet s (innerSeq seq) with
  | some x => settleFetch (settleStages (toKids x (.abort seq) (dropSheet s x)))
  | none => toChildren (.abort seq) s

/-- ABORT. -/
def execAbort (l : Nat) (hs : List FlitHdr) (r : RecHdr) (seq : Nat) (s : State) : Host.Outcome State Fault Refusal :=
  recvRecord l 1 0x08 8 hs r (some (leBytes 8 seq)) (fun t => if fromParent t l then sheetAborts seq t else t) s

/-! ### Adapters (R270) -/

/-- A member can write version `v`: its table entry and a run of slots are free. -/
def canWrite (s : State) (c : ImageCfg) (v rank : Nat) : Bool :=
  (adEntry s v).phase == .free && (freeRun s (slotsNeeded c s.part.leaves rank)).isSome

/-- A member writes its own footprints and passes on its children's; a factor that R58 refuses is answered with result 1 (DEDUCED, log
entry 106). -/
def writeRecord (c : ImageCfg) (v handle rank : Nat) (bytes : List Byte) (s : State) : State :=
  let n := slotsNeeded c s.part.leaves rank
  if !sourceOk c s.part.leaves rank bytes then toParent (.adapterDone v 1) s
  else
    let first := (freeRun s n).getD 0
    let s1 := updEntry v (fun _ => ⟨.current, handle, rank, first, n, false⟩) s
    let s2 := writeSlots c s.part.leaves rank first bytes s1
    let s3 := (childShares s c rank).foldl (sendShare v handle rank bytes) s2
    settleRelays (s3.updAdapters fun a => { a with relays := a.relays ++ [⟨v, handle, rank, bytes, childIdx s⟩] })

/-- ADAPTER records in order of arrival; the first that cannot be written holds the others. `n` bounds the records (DEDUCED, log entry
106). -/
def drainRecords (c : ImageCfg) : Nat → State → State
  | 0, s => s
  | n + 1, s =>
    match s.adapters.records with
    | [] => s
    | (v, handle, rank, bytes) :: rest =>
      if canWrite s c v rank ∧ slotsWritable s then
        drainRecords c n (writeRecord c v handle rank bytes (s.updAdapters fun a => { a with records := rest }))
      else s

/-- Write the records that can be written. -/
def settleRecords (s : State) : State :=
  match s.image.cfg with | some c => drainRecords c s.adapters.records.length s | none => s

/-- The first record finds no entry or no run. -/
def recordWants (s : State) : Bool :=
  match s.image.cfg, s.adapters.records with
  | some c, (v, _, rank, _) :: _ => !canWrite s c v rank
  | _, _ => false

/-- ADAPTER arrives; one that waits for its entry or its run raises ADAPTER_WAIT. -/
def adapterArrives (v handle rank : Nat) (bytes : List Byte) (s : State) : State :=
  let t := settleRecords (s.updAdapters fun a => { a with records := a.records ++ [(v, handle, rank, bytes)] })
  if s.adapters.records.length < t.adapters.records.length ∧ recordWants t then raise srcAdapterWait t else t

/-- ADAPTER. -/
def execAdapter (l : Nat) (hs : List FlitHdr) (r : RecHdr) (v handle rank : Nat) (bytes : List Byte) (s : State) :
    Host.Outcome State Fault Refusal :=
  recvRecord l 1 0x09 (8 + bytes.length) hs r (some (adapterRecBytes v handle rank bytes))
    (fun t => if fromParent t l then adapterArrives v handle rank bytes t else t) s

/-- ADAPTER_WRITTEN: the slots of the load in progress are written; at a member, the records that a bed held (DESIGN CHOICE, log entry
140). -/
def execAdapterWritten (s : State) : Host.Outcome State Fault Refusal :=
  match s.image.cfg, s.adapters.loads with
  | some c, x :: _ =>
    when' (s.power.logicOn && loadStarted s x && !x.written && decide (loadLen s c x.block.rank ≤ x.data.length) && slotsWritable s)
      (writeLoad c x s) s
  | _, [] => when' (s.power.logicOn && slotsWritable s) (settleRecords s) s
  | none, _ => .next s

/-- ADAPTER_FREE: the version's slots are released, here and below. -/
def adapterFrees (v : Nat) (s : State) : State :=
  let s1 := (updEntry v (fun _ => adReset) s).updAdapters fun a =>
    { a with records := a.records.filter fun x => x.1 != v, relays := a.relays.filter fun x => x.ver != v }
  settleRecords (toChildren (.adapterFree v) s1)

/-- ADAPTER_FREE. -/
def execAdapterFree (l : Nat) (hs : List FlitHdr) (r : RecHdr) (v : Nat) (s : State) : Host.Outcome State Fault Refusal :=
  recvRecord l 1 0x0A 2 hs r (some (leBytes 2 v)) (fun t => if fromParent t l then adapterFrees v t else t) s

/-- ADAPTER_DONE from child `k`: at a member the answer for its subtree follows; at the root a result of 1 ends the load with BAD_FIELD. -/
def doneArrives (k v result : Nat) (s : State) : State :=
  if s.adapters.relays.any fun x => x.ver == v then
    if result = 1 then toParent (.adapterDone v 1) (s.updAdapters fun a => { a with relays := a.relays.filter fun x => x.ver != v })
    else
      settleRelays (s.updAdapters fun a =>
        { a with relays := a.relays.map fun x => if x.ver = v then { x with await := x.await.filter (· != k) } else x })
  else if s.adapters.loads.head?.bind AdLoad.ver = some v then
    if result = 1 then endLoad 2 s else tryCurrent (updLoad (fun x => { x with await := x.await.filter (· != k) }) s)
  else s

/-- ADAPTER_DONE. -/
def execAdapterDone (l : Nat) (hs : List FlitHdr) (r : RecHdr) (v result : Nat) (s : State) : Host.Outcome State Fault Refusal :=
  recvRecord l 2 0x87 3 hs r (some (leBytes 2 v ++ leBytes 1 result)) (fun t => match childOn t l with | some k => doneArrives k v result t | none => t) s

/-! ### Outputs of a child (R30, R147, R158, R163, R267) -/

/-- An UP record of child `k` for a sheet (R273). -/
def heard (k seq : Nat) (s : State) : State :=
  updSheet seq (fun x => { x with upAt := x.upAt.map fun u => if u.1 = k then (k, s.tide.osc) else u }) s

/-- What a slot still expects of child `k`. -/
def owes (sl : Slot) (k : Nat) : Nat := spGet 0 sl.due k

/-- A sheet's slot as (row, position, slot). -/
def Sheet.slotOf (x : Sheet) (slot : Nat) : Option (Nat × Nat × Row × Slot) :=
  (x.slotAt slot).bind fun q => (x.rows[q.1]?).bind fun r => (r.slots[q.2]?).map fun sl => (q.1, q.2, r, sl)

/-- The first sheet in flight for whose slot child `k` owes an output of the pass. An output of a pass that a rerun has replaced is owed
beside the new one (DEDUCED, log entry 102). -/
def owedAt (s : State) (k slot pass : Nat) : Option (Sheet × Nat × Nat × Row × Slot) :=
  s.pipe.flight.findSome? fun x =>
    (x.slotOf slot).bind fun q =>
      if 1 < owes q.2.2.2 k ∨ (owes q.2.2.2 k = 1 ∧ q.2.2.2.ctl.pass % 256 = pass) then some (x, q) else none

/-- What has come of child `k`'s output. -/
def partOf (n : NodeRow) (k : Nat) : RemotePart :=
  match n.parts.find? fun q => q.1 == k with | some q => q.2 | none => ⟨none, none, none, none⟩

/-- Put what has come of child `k`'s output, none once it is used. -/
def putPart (k : Nat) (v : Option RemotePart) (sl : Slot) : Slot :=
  let n := sl.nodeAt 0
  sl.putNode 0 { n with parts := (v.map fun p => (k, p)).toList ++ n.parts.filter fun q => q.1 != k }

/-- One output less is owed by child `k`. -/
def Slot.paid (k : Nat) (sl : Slot) : Slot := { sl with due := spSet 0 sl.due k (owes sl k - 1) }

/-- The whole output of child `k`, once every record of it has come: windrow, statistics, the value sum of a SCORE row's first pass, and
the reports of watched tokens placed below the child. -/
def partWhole (s : State) (r : Row) (sl : Slot) (k : Nat) (p : RemotePart) : Option ChildOut :=
  match p.wind, p.stats with
  | some w, some st =>
    let valued := r.score && sl.ctl.first
    let watched := sl.ctl.first && sl.watch.any (childPlaces s k)
    if (valued && p.value.isNone) || (watched && p.reports.isNone) then none
    else some ⟨w, st, p.reports.getD [], p.value.getD f32Zero⟩
  | _, _ => none

/-- Child `k`'s output with a further record, which takes its place in its channel's order of arrival (R237). A whole output reaches the
head merge; one that a rerun or the row's end has made stale is dropped. -/
def takePart (s : State) (k : Nat) (r : Row) (sl0 : Slot) (p : RemotePart) : Slot :=
  let sl := sl0.putNode 0 ((sl0.nodeAt 0).came (remoteIndex s k) p.stats.isSome p.value.isSome)
  match partWhole s r sl k p with
  | none => putPart k (some p) sl
  | some o =>
    let y := (putPart k none sl).paid k
    if 1 < owes sl k ∨ r.phase ≠ .running then y.putNode 0 ((y.nodeAt 0).forget (remoteIndex s k)) else y.arriveAt 0 (remoteIndex s k) o

/-- A record of child `k`'s output arrives. -/
def partArrives (k slot pass : Nat) (f : RemotePart → RemotePart) (s : State) : State :=
  match owedAt s k slot pass with
  | some (x, i, p, r, sl) =>
    settleStages (heard k x.seq (updSlotAt x.seq i p (fun _ => takePart s k r sl (f (partOf (sl.nodeAt 0) k))) s))
  | none => s

/-- A WINDROW begins an output; records of an earlier output that never became whole are dropped with it. -/
def windrowArrives (k slot pass : Nat) (es : List Entry) (s : State) : State :=
  match owedAt s k slot pass with
  | some (x, i, p, r, sl) =>
    let stale := (partOf (sl.nodeAt 0) k).wind.isSome
    let sl0 := sl.putNode 0 ((sl.nodeAt 0).forget (remoteIndex s k))
    let sl1 := if stale then sl0.paid k else sl0
    settleStages (heard k x.seq (updSlotAt x.seq i p (fun _ => takePart s k r sl1 ⟨some es, none, none, none⟩) s))
  | none => s

/-- Records from the admitted child on a link. -/
def fromChild (l : Nat) (f : Nat → State → State) (s : State) : State := match childOn s l with | some k => f k s | none => s

/-- WINDROW. -/
def execWindrow (l : Nat) (hs : List FlitHdr) (r : RecHdr) (es : List (Nat × F32)) (s : State) : Host.Outcome State Fault Refusal :=
  recvRecord l 2 0x81 (4 + 8 * es.length) hs r (some (windrowBytes es))
    (fromChild l fun k => windrowArrives k r.slot r.pass (es.map fun e => ⟨e.1, e.2⟩)) s

/-- The statistics block that 160 bytes spell (Table 5.4). -/
def statsOf (bs : List Byte) : Stats :=
  let fl := leAt bs 24 4
  { m := f32At bs 0, s := f32At bs 4, w := f32At bs 8, valid := leAt bs 12 4, masked := leAt bs 16 4, nonfinite := leAt bs 20 4
    level := bitsOf fl 1 0, ref := bitOf fl 2, hist := bitOf fl 3
    hcount := (List.range 16).map fun i => leAt bs (32 + 4 * i) 4, hmass := (List.range 16).map fun i => f32At bs (96 + 4 * i) }

/-- STATS. -/
def execStats (l : Nat) (hs : List FlitHdr) (r : RecHdr) (bs : List Byte) (s : State) : Host.Outcome State Fault Refusal :=
  recvRecord l 2 0x82 160 hs r (some bs) (fromChild l fun k => partArrives k r.slot r.pass fun p => { p with stats := some (statsOf bs) }) s

/-- A gradient packet of child `k` joins the head merge of its row (R163) (DEDUCED, log entry 105). -/
def gradFromChild (c : ImageCfg) (k slot ch : Nat) (xs : List F32) (s : State) : State :=
  match s.pipe.flight.findSome? fun x =>
      (x.slotOf slot).bind fun q => if q.2.2.1.phase = .backward then some (x, q.1, q.2.1) else none with
  | some (x, i, p) => settleStages (heard k x.seq (gradientArrives c x i p 0 (remoteIndex s k) ch xs s))
  | none => s

/-- A VECTOR record of child `k`. -/
def vectorArrives (k slot pass : Nat) (v : VectorRec) (s : State) : State :=
  match v, s.image.cfg with
  | .value x, _ => partArrives k slot pass (fun p => { p with value := some x }) s
  | .reports rs, _ => partArrives k slot pass (fun p => { p with reports := some rs }) s
  | .gradient ch xs, some c => gradFromChild c k slot ch xs s
  | .gradient _ _, none => s

/-- VECTOR. -/
def execVector (l : Nat) (hs : List FlitHdr) (r : RecHdr) (v : VectorRec) (s : State) : Host.Outcome State Fault Refusal :=
  recvRecord l 2 0x83 (vectorLen v) hs r (some (vectorTail v)) (fromChild l fun k => vectorArrives k r.slot r.pass v) s

/-- REJECT from child `k`: the row ends as R269 says at the root, where rows that waited for it go on (R139, R161), and an intermediate
engine passes the rejection up. -/
def rejectArrives (k slot reason : Nat) (s : State) : State :=
  match s.pipe.flight.findSome? fun x => (x.slotOf slot).bind fun q => if 0 < owes q.2.2.2 k then some (x, q.1, q.2.1) else none with
  | none => s
  | some (x, i, p) =>
    let s1 := updSheet x.seq (Sheet.updRow i (Row.failWith (rejectFlag reason)))
      (heard k x.seq (updSlotAt x.seq i p (fun y => { putPart k none y with due := spSet 0 y.due k 0 }) s))
    let s2 := if x.parentLink.isSome then toParent (.reject slot reason) s1 else if reason = 2 then raise srcGenMismatch s1 else s1
    settleFetch (settleStages (issueWaiting x.seq s2))

/-- REJECT. -/
def execReject (l : Nat) (hs : List FlitHdr) (r : RecHdr) (reason : Nat) (s : State) : Host.Outcome State Fault Refusal :=
  recvRecord l 2 0x84 r.len hs r none (fromChild l fun k => rejectArrives k r.slot reason) s

/-- PROGRESS: the child works on the sheet (R273). -/
def execProgress (l : Nat) (hs : List FlitHdr) (r : RecHdr) (seq : Nat) (s : State) : Host.Outcome State Fault Refusal :=
  recvRecord l 2 0x85 8 hs r (some (leBytes 8 seq))
    (fromChild l fun k t => t.pipe.flight.foldl (fun t x => if outerSeq x = seq then heard k x.seq t else t) t) s

end Sys2Proof.Machine
end

