-- ==== Sys2Proof/Machine/EventCtl.lean ====
section
/-!
DEFINITION. The event controller (15_events.md, R297 to R314): pending, mask and active bits, routing and offering, claims and
completions, sleep and wake, and the external inputs with their filter and quarantine.
-/

namespace Sys2Proof.Machine

/-! ### Sources -/

/-- TARGETS and PRIO of a source (R302). -/
def srcCfg (e : Events) (n : Nat) : Nat × Nat :=
  match e.cfg.find? fun p => p.1 == n with
  | some p => p.2
  | none => srcCfgReset n

/-- Word `w` of a source set (the section on pending, mask and active bits). -/
def srcWord (v : BitVec 256) (w : Nat) : Word := (v >>> (32 * w)).setWidth 32

/-- Replace word `w` of a source set. -/
def setSrcWord (v : BitVec 256) (w : Nat) (x : Word) : BitVec 256 :=
  (v &&& ~~~(((BitVec.allOnes 32).setWidth 256) <<< (32 * w))) ||| ((x.setWidth 256) <<< (32 * w))

/-- A word shifted to its place in a source set. -/
def wordBits (w : Nat) (x : Word) : BitVec 256 := (x.setWidth 256) <<< (32 * w)

/-- Source 0 reads 0 and ignores writes in EV_PENDING and EV_WAKE. -/
def clearSrc0 (v : BitVec 256) : BitVec 256 := setSrc v 0 false

/-- Source 0 reads 1 in EV_MASK. -/
def maskSrc0 (v : BitVec 256) : BitVec 256 := setSrc v 0 true

/-- A source is eligible when it is pending, unmasked and not active (R302). -/
def eligible (e : Events) (n : Nat) : Bool := e.pending.getLsbD n && !e.mask.getLsbD n && !e.active.getLsbD n

/-! ### Targets -/

/-- A target. -/
def evTarget (e : Events) (t : Nat) : EvTarget := e.targets.getD t targetReset

/-- Change a target. -/
def updTarget (t : Nat) (f : EvTarget → EvTarget) (s : State) : State :=
  s.updEvents fun e => { e with targets := e.targets.modify t f }

/-- Running priority plus 1, and 0 for an idle target: an idle target lies below priority 0 (R302). -/
def runPrio (t : EvTarget) : Nat := match t.stack with | [] => 0 | (_, p) :: _ => p + 1

/-- Whether target `t` is a candidate for an eligible source (R303). -/
def isCandidate (e : Events) (n t : Nat) : Bool :=
  let c := srcCfg e n
  let x := evTarget e t
  bitOf c.1 t && x.en && decide (runPrio x < c.2 + 1) && (!x.sleep || e.wake.getLsbD n)

/-- The candidate with the lowest running priority, the lower number on a tie (R303). -/
def routeOf (e : Events) (n : Nat) : Option Nat :=
  (List.range 8).foldl (fun b t =>
    if isCandidate e n t then
      match b with
      | none => some t
      | some u => if runPrio (evTarget e t) < runPrio (evTarget e u) then some t else some u
    else b) none

/-- Every source routed, as (source, target), in ascending source order (R303). -/
def routes (e : Events) : List (Nat × Nat) :=
  (List.range 256).filterMap fun n => if eligible e n then (routeOf e n).map fun t => (n, t) else none

/-- The source offered to a target: the highest PRIO routed to it, the lower source on a tie, 0 for none (R304). -/
def offerOf (e : Events) (rs : List (Nat × Nat)) (t : Nat) : Nat :=
  rs.foldl (fun b r =>
    if r.2 = t ∧ (b = 0 ∨ (srcCfg e b).2 < (srcCfg e r.1).2) then r.1 else b) 0

/-- Moderation lets IRQ rise: off, idle, or MOD_TIME × 10 ns past the last successful claim (R305). -/
def moderationAllows (x : EvTarget) (osc : Nat) : Bool :=
  x.modTime == 0 || x.stack.isEmpty || decide (x.lastClaim + 10 * x.modTime ≤ osc)

/-- What an arbitration makes of one target (R303 to R305, R309) (DESIGN CHOICE, log entry 120). -/
def arbitrateTarget (e : Events) (rs : List (Nat × Nat)) (osc t : Nat) (x : EvTarget) : EvTarget :=
  let o := offerOf e rs t
  { x with
    offer := o
    irq := o != 0 && (x.irq || moderationAllows x osc)
    wakeOut := x.wakeOut || (x.sleep && rs.any fun r => r.2 == t && e.wake.getLsbD r.1) }

/-- Change every target by its number. -/
def mapTargets (f : Nat → EvTarget → EvTarget) (ts : List EvTarget) : List EvTarget :=
  (List.range ts.length).map fun t => f t (ts.getD t targetReset)

/-- One arbitration (R303 to R305). -/
def arbitrate (s : State) : State :=
  let rs := routes s.events
  s.updEvents fun e => { e with withdrawn := 0, targets := mapTargets (arbitrateTarget e rs s.tide.osc) e.targets }

/-- EV_ARBITRATE: once per tide tick, while the logic domain is up (R303, R310). -/
def execEvArbitrate (s : State) : Host.Outcome State Fault Refusal := when' s.power.logicOn (arbitrate s) s

/-- Offers of the sources of a set fall away; they are made again at an arbitration (Table 15.2) (DEDUCED, log entry 149). -/
def withdraw (ss : BitVec 256) (e : Events) : Events := { e with withdrawn := e.withdrawn ||| ss }

/-- A target's own offer falls away. -/
def withdrawOffer (t : Nat) (e : Events) : Events := withdraw (setSrc 0 (evTarget e t).offer true) e

/-- Whether a claim by target `t` succeeds on the offer in force: the source is still eligible and routed here, and nothing has withdrawn the
offer since the arbitration that made it (R306, Tables 15.2 and 15.3) (DEDUCED, log entry 149). -/
def claimable (e : Events) (t : Nat) : Bool :=
  let x := evTarget e t
  let c := srcCfg e x.offer
  x.offer != 0 && eligible e x.offer && bitOf c.1 t && x.en && decide (runPrio x < c.2 + 1) && (!x.sleep || e.wake.getLsbD x.offer) &&
  !e.withdrawn.getLsbD x.offer

/-- The source a claim by target `t` returns (R306). -/
def claimValue (e : Events) (t : Nat) : Nat := if claimable e t then (evTarget e t).offer else 0

/-- The effect of a claim: pending cleared, active set, (source, PRIO) pushed, in one step (R306) (DESIGN CHOICE, log entry 120). The claim
ends the offer: a source that is completed and pending again is routed at the next arbitration (Table 15.2) (DEDUCED, log entry 149). -/
def claim (t : Nat) (s : State) : State :=
  if claimable s.events t then
    let n := (evTarget s.events t).offer
    let p := (srcCfg s.events n).2
    updTarget t (fun x => { x with stack := (n, p) :: x.stack, lastClaim := s.tide.osc, irq := false })
      (s.updEvents fun e => withdraw (setSrc 0 n true) { e with pending := setSrc e.pending n false, active := setSrc e.active n true })
  else s

/-- EV_CLAIM: a read of EV_CLAIM[t] (R306). -/
def execEvClaim (t : Nat) (s : State) : Host.Outcome State Fault Refusal :=
  forUnit (decide (t < 8)) (.next (chipRead (word (claimValue s.events t)) (claim t) s))

/-- The effect of a write of source `n` to EV_COMPLETE[t] (R307). -/
def complete (t n : Nat) (s : State) : State :=
  let x := evTarget s.events t
  if n = 0 then s
  else
    match x.stack with
    | (m, _) :: r =>
      if m = n then
        updTarget t (fun x => { x with stack := r }) (s.updEvents fun e => { e with active := setSrc e.active n false })
      else
        raise srcStackFault (updTarget t (fun x =>
          { x with faultValid := true, faultCount := satAdd 0x7F x.faultCount 1, faultTop := m, faultWritten := n }) s)
    | [] =>
      raise srcStackFault (updTarget t (fun x =>
        { x with faultValid := true, faultCount := satAdd 0x7F x.faultCount 1, faultTop := 0, faultWritten := n }) s)

/-- EV_COMPLETE: a write of EV_COMPLETE[t]; bits [31:8] are reserved (R307). -/
def execEvComplete (t : Nat) (value : Word) (s : State) : Host.Outcome State Fault Refusal :=
  forUnit (decide (t < 8)) (.next (chipWrite (complete t (bitsOf value.toNat 7 0)) s))

/-- A FLUSH empties the stack and clears the active bit of every source it held (R308). -/
def flushTarget (t : Nat) (s : State) : State :=
  let held := (evTarget s.events t).stack
  updTarget t (fun x => { x with stack := [] })
    (s.updEvents fun e => { e with active := held.foldl (fun a p => setSrc a p.1 false) e.active })

/-- A write of EV_TGT_CTL[t]: EN, MOD_TIME and, where bit 30 is 1, FLUSH. -/
def writeTgtCtl (t : Nat) (value : Word) (s : State) : State :=
  let v := value.toNat
  let s0 := if bitOf v 31 then s else s.updEvents (withdrawOffer t)
  let s1 := updTarget t (fun x => { x with en := bitOf v 31, modTime := bitsOf v 15 0 }) s0
  if bitOf v 30 then flushTarget t s1 else s1

/-- FLUSH: a write of EV_TGT_CTL[t] (R308). -/
def execFlush (t : Nat) (value : Word) (s : State) : Host.Outcome State Fault Refusal :=
  forUnit (decide (t < 8)) (.next (chipWrite (writeTgtCtl t value) s))

/-- A W1S write to a pending word (R301). -/
def pendingSet (w : Nat) (x : Word) (s : State) : State :=
  s.updEvents fun e => { e with pending := clearSrc0 (e.pending ||| wordBits w x) }

/-- A W1C write to a pending word. -/
def pendingClr (w : Nat) (x : Word) (s : State) : State :=
  s.updEvents fun e => withdraw (wordBits w x) { e with pending := clearSrc0 (e.pending &&& ~~~(wordBits w x)) }

/-- A W1S write to a mask word. -/
def maskSet (w : Nat) (x : Word) (s : State) : State :=
  s.updEvents fun e => withdraw (wordBits w x) { e with mask := maskSrc0 (e.mask ||| wordBits w x) }

/-- A W1C write to a mask word. -/
def maskClr (w : Nat) (x : Word) (s : State) : State :=
  s.updEvents fun e => { e with mask := maskSrc0 (e.mask &&& ~~~(wordBits w x)) }

/-- EV_PENDING_SET (R301). -/
def execEvPendingSet (w : Nat) (x : Word) (s : State) : Host.Outcome State Fault Refusal :=
  forUnit (decide (w < 8)) (.next (chipWrite (pendingSet w x) s))

/-- EV_PENDING_CLR (R301). -/
def execEvPendingClr (w : Nat) (x : Word) (s : State) : Host.Outcome State Fault Refusal :=
  forUnit (decide (w < 8)) (.next (chipWrite (pendingClr w x) s))

/-- EV_MASK_SET (R301). -/
def execEvMaskSet (w : Nat) (x : Word) (s : State) : Host.Outcome State Fault Refusal :=
  forUnit (decide (w < 8)) (.next (chipWrite (maskSet w x) s))

/-- EV_MASK_CLR (R301). -/
def execEvMaskClr (w : Nat) (x : Word) (s : State) : Host.Outcome State Fault Refusal :=
  forUnit (decide (w < 8)) (.next (chipWrite (maskClr w x) s))

/-- EV_MODERATION_END: the moderation time of a busy target has passed and IRQ rises for the best offer (R305). -/
def execEvModerationEnd (t : Nat) (s : State) : Host.Outcome State Fault Refusal :=
  let x := evTarget s.events t
  forUnit (decide (t < 8))
    (when' (s.power.logicOn && x.modTime != 0 && !x.stack.isEmpty && moderationAllows x s.tide.osc && x.offer != 0)
      (updTarget t (fun x => { x with irq := true }) s) s)

/-- SLEEP_CHANGE: SLEEP[t] changes level; its fall ends WAKE[t] (R309). -/
def execSleepChange (t : Nat) (level : Bool) (s : State) : Host.Outcome State Fault Refusal :=
  forUnit (decide (t < 8))
    (when' s.power.aoUp (updTarget t (fun x => { x with sleep := level, wakeOut := x.wakeOut && level })
      (if level && !s.events.wake.getLsbD (evTarget s.events t).offer then s.updEvents (withdrawOffer t) else s)) s)

/-! ### External inputs (R299, R300, R310) -/

/-- An external input. -/
def extInput (e : Events) (n : Nat) : ExtInput := e.inputs.getD n inputReset

/-- Change an input. -/
def updInput (n : Nat) (f : ExtInput → ExtInput) (s : State) : State :=
  s.updEvents fun e => { e with inputs := e.inputs.modify n f }

/-- The inverted level of an input (R299). -/
def extLevel (e : Events) (n : Nat) : Bool := xor (extInput e n).raw (e.inv.getLsbD n)

/-- The logic domain counts as powered down (R340). -/
def domainDown (s : State) : Bool := s.power.st != .on

/-- The filter of an input runs: the logic domain is up, or the input is in the wake set (R310). -/
def extWatched (s : State) (n : Nat) : Bool := !domainDown s || s.events.wake.getLsbD (n + 1)

/-- Set or clear a bit of a word. -/
def setWordBit (v : Word) (n : Nat) (b : Bool) : Word := if b then v ||| (1#32 <<< n) else v &&& ~~~(1#32 <<< n)

/-- An input is quarantined, for chatter or for a held level (R300) (DEDUCED, log entry 119). -/
def quarantine (n : Nat) (chatter : Bool) (s : State) : State :=
  if s.events.quar.getLsbD n then s
  else
    raise srcStuck (updInput n (fun i => { i with high := none })
      (s.updEvents fun e => { e with quar := setWordBit e.quar n true, chat := setWordBit e.chat n chatter }))

/-- The watcher asks the shared power block to power the logic domain up (R310). -/
def watcherWake (s : State) : State :=
  if domainDown s ∧ s.power.target = none then
    s.updPower fun p => { p with target := some .on, watcherWake := true }
  else s

/-- An edge of input `n` whose level rose at `t` is accepted (R299). -/
def extAccept (n t : Nat) (s : State) : State :=
  let e := s.events
  let done := t + e.minPulse
  let s1 := updInput n (fun i => { i with rise := none, hold := if e.holdoff = 0 then none else some (done + e.holdoff) }) s
  if e.quar.getLsbD n then s1 else watcherWake (raise (n + 1) s1)

/-- The filter sees a rising transition of the inverted level (R299, R300) (DEDUCED, log entry 119). -/
def extRises (n : Nat) (s : State) : State :=
  let now := s.tide.osc
  let i := extInput s.events n
  let recent := now :: i.rises.filter fun t => decide (now < t + 10000)
  let held := match i.hold with | some h => decide (now < h) | none => false
  let s1 := updInput n (fun i => { i with rises := recent, high := some now, rise := if held then none else some now }) s
  let s2 := if held then s1.updEvents fun e => { e with merged := satAdd 0xFFFF e.merged 1 } else s1
  if s.events.chatLimit ≠ 0 ∧ s.events.chatLimit ≤ recent.length then quarantine n true s2 else s2

/-- The filter sees the inverted level fall: a pulse shorter than MIN_PULSE is rejected, one that lasted is accepted (R299). -/
def extFalls (n : Nat) (s : State) : State :=
  let now := s.tide.osc
  let clear (s : State) : State := updInput n (fun i => { i with rise := none, high := none }) s
  match (extInput s.events n).rise with
  | none => clear s
  | some t =>
    if now < t + s.events.minPulse then clear (s.updEvents fun e => { e with rejected := satAdd 0xFFFF e.rejected 1 })
    else clear (extAccept n t s)

/-- The inverted level of an input becomes `level` (R299, R310). -/
def extMoves (n : Nat) (level : Bool) (s : State) : State :=
  if extWatched s n then (if level then extRises n s else extFalls n s)
  else if level then updInput n (fun i => { i with latch := true }) s
  else updInput n (fun i => { i with rise := none, high := none }) s

/-- The effect of a new raw level on input `n`. -/
def extRaw (n : Nat) (level : Bool) (s : State) : State :=
  extMoves n (xor level (s.events.inv.getLsbD n)) (updInput n (fun i => { i with raw := level }) s)

/-- EXT_INPUT_CHANGE (R299, R300, R310). -/
def execExtInputChange (n : Nat) (level : Bool) (s : State) : Host.Outcome State Fault Refusal :=
  forUnit (decide (n < 32)) (when' (s.power.aoUp && (extInput s.events n).raw != level) (extRaw n level s) s)

/-- EXT_PULSE_ACCEPT: a level has stayed high for MIN_PULSE ns (R299, R310). -/
def execExtPulseAccept (n : Nat) (s : State) : Host.Outcome State Fault Refusal :=
  forUnit (decide (n < 32))
    (match (extInput s.events n).rise with
     | some t =>
       when' (s.power.aoUp && extWatched s n && decide (t + s.events.minPulse ≤ s.tide.osc)) (extAccept n t s) s
     | none => .next s)

/-- EXT_HOLDOFF_END: the hold-off has elapsed (R299). -/
def execExtHoldoffEnd (n : Nat) (s : State) : Host.Outcome State Fault Refusal :=
  forUnit (decide (n < 32))
    (match (extInput s.events n).hold with
     | some h => when' (s.power.aoUp && decide (h ≤ s.tide.osc)) (updInput n (fun i => { i with hold := none }) s) s
     | none => .next s)

/-- EXT_STUCK: the inverted level has stayed high for STUCK_MS ms (R300). -/
def execExtStuck (n : Nat) (s : State) : Host.Outcome State Fault Refusal :=
  forUnit (decide (n < 32))
    (match (extInput s.events n).high with
     | some t =>
       when' (s.power.aoUp && extWatched s n && extLevel s.events n && !s.events.quar.getLsbD n &&
           decide (t + 1000000 * s.events.stuckMs ≤ s.tide.osc))
         (quarantine n false s) s
     | none => .next s)

/-- A release: only a new rising transition makes an edge, and a level still high is timed afresh (R300). -/
def releaseInput (now : Nat) (level : Bool) (i : ExtInput) : ExtInput :=
  { i with rise := none, high := if level then some now else none }

/-- A write of EV_EXT_QUAR (R300). -/
def quarRelease (value : Word) (s : State) : State :=
  let hit (n : Nat) : Bool := s.events.quar.getLsbD n && value.getLsbD n
  s.updEvents fun e =>
    { e with
      quar := e.quar &&& ~~~value
      inputs := (List.range e.inputs.length).map fun n =>
        let i := e.inputs.getD n inputReset
        if hit n then releaseInput s.tide.osc (extLevel e n) i else i }

/-- EV_EXT_QUAR_RELEASE (R300). -/
def execEvExtQuarRelease (value : Word) (s : State) : Host.Outcome State Fault Refusal := .next (chipWrite (quarRelease value) s)

/-- EV_EXT_INV written: an input whose inverted level changes makes that transition (R299). -/
def writeExtInv (value : Word) (s : State) : State :=
  let moved := (List.range 32).filter fun n => value.getLsbD n != s.events.inv.getLsbD n
  moved.foldl (fun t n => extMoves n (extLevel t.events n) t) (s.updEvents fun e => { e with inv := value })

/-- At logic power-up every latched input whose pending bit is 0 gets it, with its EV_AO_RAW bit, and the latches clear (R310). A level that was
not watched and is high is timed for STUCK from this moment (R300) (DEDUCED, log entry 150). -/
def aoLatches (s : State) : State :=
  s.updEvents fun e =>
    let caught := (List.range 32).filter fun n =>
      (extInput e n).latch && !e.pending.getLsbD (n + 1) && !e.quar.getLsbD n
    { e with
      pending := caught.foldl (fun v n => setSrc v (n + 1) true) e.pending
      aoRaw := caught.foldl (fun v n => setWordBit v n true) e.aoRaw
      inputs := (List.range e.inputs.length).map fun n =>
        let i := extInput e n
        let timed := i.high.isSome || !extLevel e n || e.quar.getLsbD n
        { i with latch := false, high := if timed then i.high else some s.tide.osc } }

/-- The logic domain leaves ON: every IRQ and WAKE is low and inputs outside the wake set are no longer filtered (R310) (DEDUCED, log
entry 150). -/
def eventsDown (s : State) : State :=
  s.updEvents fun e =>
    { e with
      targets := e.targets.map fun x => { x with irq := false, wakeOut := false }
      inputs := (List.range e.inputs.length).map fun n =>
        let i := e.inputs.getD n inputReset
        if e.wake.getLsbD (n + 1) then i else { i with rise := none, high := none } }

end Sys2Proof.Machine
end

