-- ==== Sys2Proof/Machine/TideOps.lean ====
section
/-!
DEFINITION. The tide (12_determinism.md R244 to R248; 13_reach_fabric.md R263; 17_integration.md R337): edges of the reference, HOLDOVER, the
exchange of stamps and its corrections, the launch gate, and the two reads that latch an upper half.
-/

namespace Sys2Proof.Machine

/-! ### Edges (R244 to R247) -/

/-- The counter counts: a master, or a follower that has loaded its first measurement (R245). -/
def TideSt.counting (t : TideSt) : Bool := !t.follower || t.measured

/-- The state a slew leaves when its remainder reaches ±1 (Table 12.5). -/
def endSlew (t : TideSt) : TideSt := { t with phase := .locked, slew := .none, slewEdges := 0, slewLeft := 0 }

/-- One edge under the slew in force: by how much the tide rises, and the slew after it (Table 12.5). -/
def slewEdge (t : TideSt) : Nat × TideSt :=
  let n := t.slewEdges + 1
  match t.slew with
  | .none => (1, t)
  | .extra =>
    if n < 16 then (1, { t with slewEdges := n })
    else
      let u := { t with slewEdges := 0, slewLeft := t.slewLeft - 1 }
      (2, if u.slewLeft ≤ 1 then endSlew u else u)
  | .withhold =>
    if n < 16 then (1, { t with slewEdges := n })
    else
      let u := { t with slewEdges := 0, slewLeft := t.slewLeft + 1 }
      (0, if -1 ≤ u.slewLeft then endSlew u else u)
  | .half =>
    if n = 1 then
      let u := { t with slewEdges := 1, slewLeft := t.slewLeft + 1 }
      (0, if -1 ≤ u.slewLeft then endSlew u else u)
    else (1, { t with slewEdges := 0 })

/-- The state while edges arrive: an engine that leaves HOLDOVER is LOCKED, SLEWING where a slew was in force, and UNLOCKED before a
follower's first measurement (DEDUCED, log entry 89). -/
def onReference (t : TideSt) : TideSt :=
  if t.phase = .holdover then
    { t with phase := if !t.counting then .unlocked else if t.slew = .none then .locked else .slewing }
  else t

/-- A rising edge of the reference (R244, R246) (DEDUCED, log entry 84). -/
def tideEdge (t : TideSt) : TideSt :=
  let t1 := onReference { t with osc := t.osc + 1, lastEdge := t.osc + 1, refOk := true }
  if t1.counting then
    let q := slewEdge t1
    { q.2 with count := q.2.count + BitVec.ofNat 64 q.1 }
  else t1

/-- One nanosecond of the oscillator with no reference edge: it carries the count in HOLDOVER (R247). -/
def oscEdge (t : TideSt) : TideSt :=
  { t with osc := t.osc + 1, count := if t.phase = .holdover ∧ t.counting then t.count + 1 else t.count }

/-- TIDE_TICK: an edge of the reference while the always-on supply is up (DEDUCED, log entry 84). -/
def execTideTick (s : State) : Host.Outcome State Fault Refusal := when' s.power.aoUp (stallTick (s.updTide tideEdge)) s

/-- A nanosecond of the oscillator with no reference edge; in HOLDOVER it is a tick of the tide (R247, CTL_EGRESS_STALL). -/
def oscTick (s : State) : State :=
  if s.tide.phase = .holdover ∧ s.tide.counting then stallTick (s.updTide oscEdge) else s.updTide oscEdge

/-- HOLDOVER begins: TIDE_LOST and its record (DEDUCED, log entry 86). -/
def tideLost (s : State) : State :=
  bbRecord 0x37 0 0 noSeq 0 0 (raise srcTideLost (s.updTide fun t => { t with refOk := false, phase := .holdover }))

/-- TIDE_LOST: no edge for 16 ns (R247) (DEDUCED, log entry 86). -/
def execTideLost (s : State) : Host.Outcome State Fault Refusal :=
  when' (s.power.aoUp && s.tide.refOk && decide (s.tide.lastEdge + 16 ≤ s.tide.osc)) (tideLost s) s

/-- OSC_CALIBRATE: every 65,536 ticks while the reference is present (R247, R337). -/
def execOscCalibrate (s : State) : Host.Outcome State Fault Refusal :=
  when' (s.power.aoUp && s.tide.refOk && decide (s.tide.calibrateAt + 65536 ≤ s.tide.count.toNat))
    (s.updTide fun t => { t with calibrated := true, calibrateAt := t.count.toNat }) s

/-! ### The exchange (R245, R246, R263) -/

/-- A stamp of this moment, `frac` sixteenths into the tick. -/
def stampNow (s : State) (frac : Nat) : Dword := s.tide.count * 16 + BitVec.ofNat 64 frac

/-- Corrected stamp of a flit sent on a link: less the PHY's transmit latency, plus the lane skew (R263) (DEDUCED, log entry 88). -/
def txStamp (k : LinkSt) (x : Dword) : Dword := x - BitVec.ofNat 64 k.calTx + BitVec.ofNat 64 (16 * k.skew)

/-- Corrected stamp of a flit received (DEDUCED, log entry 88). -/
def rxStamp (k : LinkSt) (x : Dword) : Dword := x - BitVec.ofNat 64 k.calRx + BitVec.ofNat 64 (16 * k.skew)

/-- A follower sends TIDE_REQ to its upstream neighbour, stamped in sixteenths of a tick as it leaves (R263) (DEDUCED, log entry 87;
DESIGN CHOICE, log entry 157). -/
def exchange (l : Nat) (s : State) : State :=
  sendUp l (.tideReq (stampNow s (Config.sendFrac s.tide.osc).val).toNat) (s.updTide fun t => { t with exchangeAt := t.count.toNat })

/-- TIDE_EXCHANGE: every 65,536 ticks, and at any time before the first measurement. -/
def execTideExchange (s : State) : Host.Outcome State Fault Refusal :=
  match upstream s with
  | some l =>
    when' (s.power.logicOn && s.tide.follower &&
        (!s.tide.measured || decide (s.tide.exchangeAt + 65536 ≤ s.tide.count.toNat)))
      (exchange l s) s
  | none => .next s

/-- TIDE_REQ is answered with the corrected stamps of its arrival and of the answer. -/
def answerReq (l t1 frac : Nat) (s : State) : State :=
  let k := linkAt s l
  let now := stampNow s frac
  sendUp l (.tideRsp t1 (rxStamp k now).toNat (txStamp k now).toNat) s

/-- TIDE_REQ. -/
def execTideReq (l : Nat) (h : FlitHdr) (t1 : Nat) (frac : Fin 16) (s : State) : Host.Outcome State Fault Refusal :=
  recvFlit l 0x04 0 false h (some (leBytes 8 t1)) (answerReq l t1 frac.val) s

/-- Sixteenths summed over both directions, halved to ticks: nearest, ties toward 0 (R245). -/
def thetaOf (d : Int) : Int :=
  let m := d.natAbs
  let q := m / 32
  let n := if 16 < m % 32 then q + 1 else q
  if d < 0 then -(n : Int) else n

/-- θ of an exchange on a link: the four corrected stamps (R245, R263). -/
def theta (k : LinkSt) (t1 t2 t3 t4 : Dword) : Int := thetaOf ((t2 - txStamp k t1).toInt + (t3 - rxStamp k t4).toInt)

/-- A correction beyond ±64 ticks: TIDE_STEP, its record and STEPS (Table 12.5). -/
def tideStep (th : Int) (s : State) : State :=
  bbRecord 0x36 0 0 noSeq (BitVec.ofInt 32 th) 0
    (raise srcTideStep (s.updTide fun t => { t with steps := satAdd 0xFFFF t.steps 1 }))

/-- A slew begins. -/
def startSlew (k : Slew) (th : Int) (t : TideSt) : TideSt := { t with phase := .slewing, slew := k, slewEdges := 0, slewLeft := th }

/-- A measured follower acts on θ (Table 12.5). -/
def correct (th : Int) (s : State) : State :=
  if 64 < th then tideStep th (s.updTide fun t => { endSlew t with count := t.count + BitVec.ofInt 64 th })
  else if th < -64 then tideStep th (s.updTide (startSlew .half th))
  else if 3 ≤ th then s.updTide (startSlew .extra th)
  else if th ≤ -3 then s.updTide (startSlew .withhold th)
  else s.updTide endSlew

/-- θ is known: the first one loads the measured count; a later one corrects. In HOLDOVER it is recorded and the correction waits for the
next θ after the reference returns (R245 to R247) (DEDUCED, log entries 87 and 89). -/
def applyTheta (th : Int) (s : State) : State :=
  let s1 := s.updTide fun t => { t with theta := BitVec.ofInt 32 th }
  if !s.tide.measured then
    s1.updTide fun t =>
      { t with measured := true, count := t.count + BitVec.ofInt 64 (max 0 th), phase := if t.refOk then .locked else .holdover }
  else if s.tide.phase = .holdover then s1
  else correct th s1

/-- TIDE_RSP arrives from the upstream neighbour of a follower; any other is ignored. -/
def rspArrives (l t1 t2 t3 frac : Nat) (s : State) : State :=
  if s.tide.follower ∧ upstream s = some l then
    applyTheta (theta (linkAt s l) (BitVec.ofNat 64 t1) (BitVec.ofNat 64 t2) (BitVec.ofNat 64 t3) (stampNow s frac)) s
  else s

/-- TIDE_RSP. -/
def execTideRsp (l : Nat) (h : FlitHdr) (t1 t2 t3 : Nat) (frac : Fin 16) (s : State) : Host.Outcome State Fault Refusal :=
  recvFlit l 0x05 0 false h (some (leBytes 8 t1 ++ leBytes 8 t2 ++ leBytes 8 t3)) (rspArrives l t1 t2 t3 frac.val) s

/-! ### The launch gate (R248) -/

/-- The gate opens: EN clears, OPENED rises and GATE_OPEN is raised. The held sheets then enter stage 2 in the order of R12 (DEDUCED,
log entry 90). -/
def openGate (s : State) : State :=
  if s.tide.gateEn then raise srcGateOpen (s.updTide fun t => { t with gateEn := false, gateOpened := t.gateOpened + 1 }) else s

/-- GATE_OPEN: the tide is at or above the gate count. -/
def execGateOpen (s : State) : Host.Outcome State Fault Refusal :=
  when' (s.power.logicOn && s.tide.gateEn && decide (s.tide.gateCount ≤ s.tide.count.toNat)) (openGate s) s

/-- A write of TIDE_GATE_CTL: EN = 1 latches the gate count, EN = 0 opens the gate (DEDUCED, log entry 90). -/
def writeGateCtl (value : Word) (s : State) : State :=
  if bitOf value.toNat 31 then
    s.updTide fun t => { t with gateEn := true, gateCount := s.soft.gateHi.toNat * 2 ^ 32 + s.soft.gateLo.toNat }
  else openGate s

/-- GATE_LATCH. -/
def execGateLatch (value : Word) (s : State) : Host.Outcome State Fault Refusal := .next (chipWrite (writeGateCtl value) s)

/-- GATE_RELEASE. -/
def execGateRelease (value : Word) (s : State) : Host.Outcome State Fault Refusal := .next (chipWrite (writeGateCtl value) s)

/-! ### Reads that latch (R209, R244) -/

/-- Low and high words of a 64-bit count. -/
def loWord (x : Dword) : Word := x.setWidth 32
/-- Bits [63:32]. -/
def hiWord (x : Dword) : Word := (x >>> 32).setWidth 32

/-- TIDE_LO_READ: the chip port's TIDE_HI_LATCH takes bits [63:32] of the same count. -/
def execTideLoRead (s : State) : Host.Outcome State Fault Refusal :=
  .next (chipRead (loWord s.tide.count) (State.updTide · fun t => { t with hiLatch := hiWord t.count }) s)

/-- CTX_EPOCH_LO_READ: the chip port's CTX_EPOCH_HI_LATCH takes bits [63:32] of the same epoch. -/
def execCtxEpochLoRead (c : Nat) (s : State) : Host.Outcome State Fault Refusal :=
  forUnit (decide (c < 512))
    (.next (chipRead (loWord (ctxAt s c).epoch) (State.updPipe · fun p => { p with epochLatch := hiWord (ctxAt s c).epoch }) s))

end Sys2Proof.Machine
end

