-- ==== Sys2Proof/Machine/ImageOps.lean ====
section
/-!
DEFINITION. The engine's reads (17_integration.md R334) and the application of an image (16_image.md R325 to R331; 14_faults.md R288): GO,
quiesce and reset, the bytes as they arrive, the verdict, parity, probes and the end.
-/

namespace Sys2Proof.Machine

/-! ### GO (R328 phase 1, Table 11.4) -/

/-- A flip that is not FIRING ends ABANDONED; an open window ends with it. -/
def endFlip (s : State) : State :=
  if s.weights.flip = .firing ∨ s.weights.flip = .idle then s else (endArm 2 s).updWeights fun w => { w with flip := .idle }

/-- What ends at the GO itself (DEDUCED, log entry 69). -/
def endAtGo (s : State) : State :=
  let s1 := endFlip (endLoads (endPatches s))
  endTableLoads s1

/-- A GO (R326, R328). -/
def imgGo (s : State) : State :=
  if imageBusy s then s.updImage fun i => { i with err := true, kind := 0xE }
  else
    regrant (endAtGo (s.updImage fun i =>
      { i with phase := 1, err := false, src := srcAddr s.soft.imgSrcLo s.soft.imgSrcHi, data := [], authReq := none }))

/-- A write of CTL_IMG_LOAD. -/
def writeImgLoad (value : Word) (s : State) : State := if bitOf value.toNat 31 then imgGo s else s

/-- IMG_LOAD. -/
def execImgLoad (value : Word) (s : State) : Host.Outcome State Fault Refusal := .next (chipWrite (writeImgLoad value) s)

/-! ### Phase 2 (R329, Table 16.6) -/

/-- A follower's tide returns to 0 and UNLOCKED (R244, Table 16.6); every mark of a tide count starts again with it, and the transients of units
keep their age (DEDUCED, log entry 83). -/
def tideUnlocked (s : State) : State :=
  let s1 := s.updTide fun t =>
    { t with
      count := 0, measured := false, theta := 0, slew := .none, slewEdges := 0, slewLeft := 0, exchangeAt := 0, calibrateAt := 0
      phase := .unlocked }
  let since (r : List Int) : List Int := r.map (· - (s.tide.count.toNat : Int))
  let s2 := s1.updFabric fun f =>
    { f with
      mirrorAt := 0
      pans := f.pans.map fun x => (x.1, { x.2 with recent := since x.2.recent })
      cells := f.cells.map fun x => (x.1, { x.2 with recent := since x.2.recent }) }
  (s2.updBrine fun b => { b with scrubTide := [] }).updPower fun p => { p with paceAt := 0 }

/-- Every bed INTACT: each leaf on its default pan (R38) (DEDUCED, log entry 71). -/
def bedsIntact (s : State) : State := (s.fabric.beds.map (·.1)).foldl (fun t b => changeBed t b bedReset t) s

/-- A merge cell loses its composite. -/
def releaseCell (x : CellSt) : CellSt := match x.phase with | .inUse _ => { x with phase := .free } | _ => x

/-- Every composite leaves its cell. -/
def cellsFree (s : State) : State :=
  (s.fabric.cells.map (·.1)).foldl (fun t p => setCell p (releaseCell (cellAt t p)) t) s

/-- Weights at phase 2: steps, versions, flip status and journal at reset (R230). -/
def weightsCleared (w : Weights) : Weights :=
  { w with
    wLive := 0, wSealed := 0, flip := .idle, arm := none, splitValid := false, splitRemote := false, splitWho := 0, recheck := false
    windowRaised := false, posSealed := [], seals := [], replay := [], journal := [], pkts := [], ver0 := [], ver1 := [], spareTok := [], spareVer0 := [], spareVer1 := [] }

/-- A read that replays the live window. -/
def replayRead (r : ReadReq) : Bool := match r.kind with | .windowReplay _ _ => true | _ => false

/-- The stores of the logic domain at phase 2. -/
def storesCleared (s : State) : State :=
  let s1 := (s.updPipe fun p => { p with ctxs := [], closings := [] }).updAdapters fun _ => adaptersReset
  let s2 := (s1.updWeights weightsCleared).updMasks fun m => { m with zeros := [] }
  let s3 := s2.updFn fun f => { f with buf0 := .builtin, buf1 := .empty, inForce := 0 }
  (s3.updBrine fun b => { b with mem := [], live := 0 }).updPorts fun p => { p with reads := p.reads.filter fun r => !replayRead r }

/-- Phase 2, and the read of phase 3 begins (DEDUCED, log entries 70 and 71). -/
def resetForImage (s : State) : State :=
  let s1 := storesCleared (endTableLoads (dropMemberSheets s))
  let s2 := cellsFree (bedsIntact (s1.updFabric fun f => { f with unplaced := [], halted := false }))
  let s3 := openGate (setFlipSeq (if s.tide.follower then tideUnlocked s2 else s2))
  let s4 := (s3.updReach fun r => { r with dom := domainReset }).updImage fun i =>
    { i with cfg := none, treeSig := 0, phase := 3, data := [] }
  pushMirror (issueRead .image s.image.src.toNat 64 s4)

/-- Quiesce has ended: no sheet of the engine's own is past stage 1, a parent's sheets have nothing left to send, and no flip waits for
its boundary (DEDUCED, log entry 70). -/
def quiet (s : State) : Bool :=
  (s.pipe.flight.all fun x => x.parentLink.isSome && x.stage == 6) && (firingStep s).isNone

/-- The head-tile test of an engine halted at the GO fails: the load ends as ABANDONED and the engine stays halted (R328, R343). -/
def headTestFails (s : State) : State := pushMirror (refuseImage 0xD 31 (s.updPower fun p => { p with headFail := true }))

/-- IMG_RESET. `headPass` is the result of the head-tile test where the engine is halted. -/
def execImgReset (headPass : Bool) (s : State) : Host.Outcome State Fault Refusal :=
  when' (s.power.logicOn && s.image.phase == 1 && quiet s)
    (if s.fabric.halted then
      (if headPass then resetForImage (s.updPower fun p => { p with headFail := false }) else headTestFails s)
     else resetForImage s) s

/-! ### Phase 3: the bytes (R325, R328, R334) -/

/-- A load is refused with what its bytes show. -/
def refuseOn (f : Nat × Nat) (s : State) : State := pushMirror (refuseImage f.1 f.2 s)

/-- The whole image has arrived: kinds 0x2 to 0xA, the floor, then the security block (R325, R327). -/
def imageWhole (d : List Byte) (s : State) : State :=
  let a := d.toArray
  match imageFault s.part a with
  | some f => refuseOn f s
  | none =>
    if imgVersion a < s.power.imgFloor then refuseOn (0xC, 31) s
    else
      let c := goodCfg s.part a
      (dropRead .image s).updImage fun i =>
        { i with
          data := d, phase := 4, lastByte := s.tide.osc, checked := some c, checkedGen := (imgGen a).getD .builtin
          checkedSig := crc64 (treeStream c)
          authReq := some ⟨sha384 (d.take (secOff a 0xFFFF)), arrBytes a (secOff a 0xFFFF) (secLen a 0xFFFF), s.part.variant, imgVersion a,
            s.reach.device⟩ }

/-- Rows `got` and value units `units` of a position stand in both banks of a pan, or the joined one, and in its value-head region. -/
def writeBanks (c : ImageCfg) (got units : List Byte) (s : State) (p : Nat) : State :=
  let s1 := brineWrite p 0 got s
  let s2 := if c.single then s1 else brineWrite p 0x100000 got s1
  brineWrite p valueBase units s2

/-- The pans that take position `l`'s rows: the one that serves it, and a returned pan that holds the spare's copy and waits for its leaf
(R41). -/
def writePans (s : State) (l : Nat) : List Nat :=
  let b := bedAt s (l / 16)
  panOf s l :: if b.copied && b.subst == some (l % 16) then [17 * (l / 16) + l % 16] else []

/-- Rows and units of position `l` that have arrived within `avail` bytes of the image are written (R328 phase 3). -/
def writeLeaf (a : Array Byte) (c : ImageCfg) (n avail : Nat) (s : State) (l : Nat) : State :=
  let rows := leafWeights a c l
  let units := leafUnits a c n l
  let got := rows.take (arrivedBytes (secOff a 3 + firstRow c l * c.b) rows.length c.b avail)
  (writePans s l).foldl (writeBanks c got
    (units.take (arrivedBytes (secOff a 5 + firstUnit c n l * vhUnitBytes c) units.length (vhUnitBytes c) avail))) s

/-- Weights are written into the brine store as they stream (R326, R328). -/
def storeArrived (a : Array Byte) (avail : Nat) (s : State) : State :=
  if storable s.part a avail then
    (List.range s.part.leaves).foldl (writeLeaf a (goodCfg s.part a) s.part.leaves avail) s
  else s

/-- Bytes of the image arrive in offset order: the header is judged as soon as it is whole, the directory and each section as it arrives, and
rows and units are written (R328) (DEDUCED, log entry 73). -/
def imageData (data : List Byte) (s : State) : State :=
  let d := s.image.data ++ data
  let a := d.toArray
  if d.length < 64 then s.updImage fun i => { i with data := d }
  else if !imgHeaderOk a then refuseOn (1, 31) s
  else if d.length < imgTotal a then
    match earlyFault s.part a d.length with
    | some f => refuseOn f s
    | none =>
      ((storeArrived a d.length s).updImage fun i => { i with data := d }).updPorts fun p =>
        { p with reads := p.reads.map fun r => if r.kind = .image then { r with len := imgTotal a } else r }
  else imageWhole (d.take (imgTotal a)) (storeArrived a (imgTotal a) s)

/-- A read of the image fails (READ). -/
def imageReadFails (s : State) : State := refuseOn (0, sectionAt s.image.data.toArray s.image.data.length) s

/-! ### Responses (R87, R88, R334) -/

/-- The sheet that fetches an overflow group. -/
def groupWaiter (s : State) (l ch : Nat) : Option Sheet :=
  s.pipe.flight.find? fun x => (x.fetch.any fun q => q.1 == l) && lacksGroup x l ch

/-- A sheet keeps a group: for the step that asked for it, and for a takeover. -/
def keepGroup (l ch : Nat) (data : List Byte) (y : Sheet) : Sheet :=
  { y with groups := y.groups ++ [(l, ch, data)], seen := (l, ch, data) :: y.seen.filter fun g => !(g.1 == l && g.2.1 == ch) }

/-- An overflow group arrives whole: it is kept, read once more, or fails its sheet (R87) (DEDUCED, log entry 43). -/
def groupArrives (c : ImageCfg) (l ch : Nat) (data : List Byte) (s : State) : State :=
  match groupWaiter s l ch with
  | none => dropRead (.overflow l ch) s
  | some x =>
    let s1 := dropRead (.overflow l ch) s
    if groupOk c data then settleFetch (updSheet x.seq (keepGroup l ch data) s1)
    else if x.retried.contains (l, ch) then failOverflow x s1
    else
      issueRead (.overflow l ch) (groupAddr c (liveBase s x) l ch) (groupBytes c)
        ((updSheet x.seq (fun y => { y with retried := (l, ch) :: y.retried }) s1).updCa fun a =>
          { a with ovfRetries := satAdd 0xFFFF a.ovfRetries 1 })

/-- The sheet that waits for a group fails (DEDUCED, log entry 37). -/
def groupFails (l ch : Nat) (s : State) : State :=
  match groupWaiter s l ch with
  | some x => failOverflow x (dropRead (.overflow l ch) s)
  | none => dropRead (.overflow l ch) s

/-- The limit of R334 is on one request; a load longer than one request issues them as earlier ones are answered, and each takes its port
in turn. `old` is the read whose bytes came: one that they have ended, or another load's that has taken its place, is not issued again
(DEDUCED, log entries 72 and 134). -/
def renewRead (old : ReadReq) (s : State) : State :=
  match readOf old.kind s with
  | some r =>
    if r.addr = old.addr ∧ r.issued = old.issued then
      let q := portFor s.ports.turn s
      s.updPorts fun p =>
        { p with
          reads := p.reads.map fun x => if x.kind = old.kind then { x with port := q, issued := s.tide.osc } else x
          turn := nextTurn q p.turn }
    else s
  | none => s

/-- A window read is issued again (DEDUCED, log entries 36 and 189). -/
def rereadWindow (k : ReadKind) (r : ReadReq) (s : State) : State := issueReadBack k r.addr r.len r.back (dropRead k s)

/-- A response's bytes reach the load that asked for them (DEDUCED, log entry 22). -/
def responseIn (c : Option ImageCfg) (k : ReadKind) (r : ReadReq) (data : List Byte) (s : State) : State :=
  match k, c with
  | .image, _ => renewRead r (imageData data s)
  | .function, _ => renewRead r (fnData data s)
  | .mask, some c => renewRead r (maskData c data s)
  | .adapter, some c => renewRead r (adapterData c data s)
  | .overflow l ch, some c => if data.length = r.len then groupArrives c l ch data s else s
  | .windowPatch l ch, some c =>
    if data.length = r.len then windowIn l (rereadWindow k r) (fun t => regrant (windowPatched c l ch r.back data t)) s else s
  | .windowReplay l ch, some c =>
    if data.length = r.len then windowIn l (rereadWindow k r) (windowReplayed c l ch r.back data) s else s
  | _, none => dropRead k s

/-- A read error, as the rules of the load that issued the read handle it (R103, R183, R227, Table 16.5, R87). A window read, for which no
rule states an end, is issued again (DEDUCED, log entries 36 and 37). -/
def readError (c : Option ImageCfg) (k : ReadKind) (r : ReadReq) (s : State) : State :=
  match k, c with
  | .image, _ => imageReadFails s
  | .function, _ => failFn 0 0 s
  | .mask, _ => endMaskLoad (some 0) s
  | .adapter, _ => endLoad 5 s
  | .overflow l ch, some _ => groupFails l ch s
  | .windowPatch l _, some _ => windowIn l (rereadWindow k r) (rereadWindow k r) s
  | .windowReplay l _, some _ => windowIn l (rereadWindow k r) (rereadWindow k r) s
  | _, none => dropRead k s

/-- READ_RESPONSE: bytes of the outstanding read of a kind, or its error (DEDUCED, log entry 22). -/
def execReadResponse (k : ReadKind) (data : List Byte) (err : Bool) (s : State) : Host.Outcome State Fault Refusal :=
  match readOf k s with
  | some r =>
    when' (s.power.logicOn && s.power.st == .on && readOpen r s)
      (if err then readError s.image.cfg k r s else responseIn s.image.cfg k r data s) s
  | none => .next s

/-- A read that READ_LIMIT times (R334): overflow groups have a limit of their own, and window reads belong to no load. -/
def limited : ReadKind → Bool
  | .image => true
  | .function => true
  | .mask => true
  | .adapter => true
  | _ => false

/-- READ_TIMEOUT. -/
def execReadTimeout (k : ReadKind) (s : State) : Host.Outcome State Fault Refusal :=
  match readOf k s with
  | some r =>
    when' (s.power.logicOn && s.power.st == .on && limited k && readExpired r s)
      (readError s.image.cfg k r (s.updCb fun c => { c with readTimeouts := satAdd 0xFFFF c.readTimeouts 1 })) s
  | none => .next s

/-- OVERFLOW_TIMEOUT: a group has not arrived within the image's limit of its request (R87). -/
def execOverflowTimeout (l ch : Nat) (s : State) : Host.Outcome State Fault Refusal :=
  match s.image.cfg, readOf (.overflow l ch) s with
  | some c, some r => when' (s.power.logicOn && r.port.isSome && decide (r.issued + 1000 * c.ovfLimit ≤ s.tide.osc)) (groupFails l ch s) s
  | _, _ => .next s

/-! ### Phase 4: the verdict (R327) -/

/-- A bed that no fault has met since phase 2 enters PARITY_BUILD. -/
def beginParity (s : State) (b : Nat) : State :=
  if (bedAt s b).phase = .intact then changeBed s b { bedAt s b with phase := .parityBuild } s else s

/-- PASS: parity is built. Rows and units stand in their pans since they arrived; a position that a fault has moved since then has its own
written again (Table 2.6). -/
def passVerdict (c : ImageCfg) (s : State) : State :=
  let a := s.image.data.toArray
  let s1 := (List.range s.part.leaves).foldl (writeLeaf a c s.part.leaves s.image.data.length) s
  pushMirror ((List.range s.part.beds).foldl beginParity (s1.updImage fun i => { i with phase := 5 }))

/-- The security block refuses, or is silent. -/
def authFails (s : State) : State := refuseOn (0xB, secIdx s.image.data.toArray 0xFFFF) s

/-- AUTH_VERDICT. -/
def execAuthVerdict (pass : Bool) (s : State) : Host.Outcome State Fault Refusal :=
  match s.image.checked with
  | some c => when' (s.power.logicOn && s.image.phase == 4) (if pass then passVerdict c s else authFails s) s
  | none => .next s

/-- AUTH_TIMEOUT: 10 ms from the last byte. -/
def execAuthTimeout (s : State) : Host.Outcome State Fault Refusal :=
  when' (s.power.logicOn && s.image.phase == 4 && decide (s.image.lastByte + 10000000 ≤ s.tide.osc)) (authFails s) s

/-! ### Phases 5 and 6: parity and probes (R288, Table 2.6) -/

/-- The microseconds between the steps of phases 5 to 7 let the recorder write all it was given (R292). -/
def drainBb (s : State) : State := s.updBb fun b => { b with freeAt := min b.freeAt s.tide.osc }

/-- A unit that phase 6 probes: every fenced one (R288) (DEDUCED, log entry 74). -/
def probedAtImage (s : State) (u : UnitId) : Bool := unitFenced s u

/-- A bed after one of its pans passes: PARITY_BUILD once its spare and every position are free of faults (R288). -/
def bedRestored (b : Nat) (s : State) : State :=
  let x := bedAt s b
  let placed := (List.range 16).all fun m => !s.fabric.unplaced.contains (16 * b + m)
  if x.subst.isNone ∧ placed ∧ !(panAt s (17 * b + 16)).fenced then
    changeBed s b { x with phase := .parityBuild, spareProbe := false } s
  else s

/-- A pan passes: a member's position has its rows there again, from the spare that served it or from the image (R288) (DEDUCED, log entry
74). -/
def panRestored (c : ImageCfg) (p : Nat) (s : State) : State :=
  let b := p / 17
  let m := p % 17
  let l := 16 * b + m
  let x := bedAt s b
  let a := s.image.data.toArray
  if m = 16 then bedRestored b s
  else if x.subst = some m then
    bedRestored b (noteRead (17 * b + 16) (regionSize - 1)
      (copyRegion (17 * b + 16) p (setBed b { x with subst := none, switched := false } s)))
  else if s.fabric.unplaced.contains l then
    bedRestored b (writeLeaf a c s.part.leaves s.image.data.length
      (s.updFabric fun f => { f with unplaced := f.unplaced.filter (· != l) }) l)
  else s

/-- A unit passes: it is unfenced and keeps its counters (DEDUCED, log entry 75). -/
def imagePass (c : ImageCfg) (u : UnitId) (s : State) : State :=
  let s1 := unitRecord 0x24 u noSeq (probeHandshakes u) (word (unitRecent s u).length) s
  match u with
  | .pan p => panRestored c p (setPan p { panAt s p with fenced := false, lasting := false } s1)
  | .cell p => setCell p { cellAt s p with phase := .free } s1
  | .head => s1

/-- A bed whose member or spare `m` fails (Table 2.6): the first member is served by the spare, loaded with its position's rows; a later one
is unplaced; a spare leaves the bed without parity. -/
def imageBedFails (p : Nat) (s : State) : State :=
  let b := p / 17
  let m := p % 17
  let x := bedAt s b
  let sp := 17 * b + 16
  if m = 16 then
    let served : List Nat := if x.switched then x.subst.toList else []
    unplaceAll (.pan p) (served.map (16 * b + ·)) (changeBed s b { x with phase := .degraded, subst := none, switched := false } s)
  else if x.subst = some m then changeBed s b { x with phase := .degraded } s
  else if x.phase = .parityBuild ∧ !(panAt s sp).fenced then
    changeBed s b { x with phase := .degraded, subst := some m, switched := true } (copyRegion p sp s)
  else unplaceAll (.pan p) [16 * b + m] (changeBed s b { x with phase := .degraded } s)

/-- A unit fails: it stays fenced with LASTING set. -/
def imageFail (u : UnitId) (phase : Nat) (s : State) : State :=
  let s1 := unitRecord 0x29 u noSeq 2 0 (unitRecord 0x25 u noSeq (word phase) (freeArg s) s)
  match u with
  | .pan p => imageBedFails p (setPan p { panAt s p with lasting := true, failPhase := phase } s1)
  | .cell p => setCell p { cellAt s p with phase := .lasting } s1
  | .head => s1

/-- The probe of one fenced unit at an image application, in place of any that still ran (DEDUCED, log entry 75). -/
def imageProbe (c : ImageCfg) (failing : List (UnitId × Nat)) (s : State) (u : UnitId) : State :=
  if probedAtImage s u then
    let s1 := unitRecord 0x23 u noSeq (word (blockOf s u)) 3
      (s.updFabric fun f => { f with probes := f.probes.filter fun x => x.unit != u })
    drainBb (match failing.find? fun q => q.1 == u with
      | some q => imageFail u q.2 s1
      | none => imagePass c u s1)
  else s

/-- Every fenced pan, spares before members so that a failing member finds its bed as the spare's probe left it, then every fenced cell
(DEDUCED, log entry 74). -/
def probeOrder (s : State) : List UnitId :=
  (List.range s.part.beds).flatMap (fun b => (16 :: List.range 16).map fun m => .pan (17 * b + m)) ++
  (List.range s.part.pans).map .cell

/-- A bed still in PARITY_BUILD has its parity formed and is INTACT. -/
def endParity (s : State) (b : Nat) : State :=
  if (bedAt s b).phase = .parityBuild then changeBed s b { bedAt s b with phase := .intact } (formParity b s) else s

/-! ### Phase 7 (R31, R265, R278, R328) -/

/-- A composite takes a free cell; where none is left, its leaves are unplaced, with their records (R31, R286, R292) (DEDUCED, log entry 76). -/
def placeNode (fs : List Nat) (s : State) (n : Nat) : State :=
  match pickCell s with
  | some p => assignCell p n s
  | none =>
    let w := nodeLeaves fs n
    let below := (List.range w.2).map (w.1 + ·)
    below.foldl (fun t l => if t.fabric.unplaced.contains l then t else
      bbRecord 0x27 0 0 noSeq (word l) 0 (t.updFabric fun f => { f with unplaced := f.unplaced ++ [l] })) s

/-- Every composite but the head has a cell (DEDUCED, log entry 76). -/
def placeNodes (fs : List Nat) (s : State) : State := ((List.range (nodeCount fs)).drop 1).foldl (placeNode fs) s

/-- The image makes the engine a tide master or a follower (R244, R245) (DEDUCED, log entry 83). -/
def tideRole (follower : Bool) (s : State) : State :=
  if follower then tideUnlocked (s.updTide fun t => { t with follower := true }) else s.updTide tideMaster

/-- The settings come into force, row directories and their XOR in the spares among them (R73); buffer 0 holds the image's generation and
buffer 1 is empty (R181), so that a function-table load started in phases 3 to 5 ends ABANDONED (DEDUCED, log entries 77 and 143; DESIGN
CHOICE, log entry 142). -/
def takeSettings (c : ImageCfg) (s : State) : State :=
  let s1 := s.updImage fun i =>
    { i with
      cfg := some c, treeSig := i.checkedSig, phase := 0, data := [], authReq := none, checked := none, checkedGen := .empty
      checkedSig := 0 }
  let s2 := ((abandonFn s1).updFn fun f => { f with buf0 := s.image.checkedGen, buf1 := .empty, inForce := 0 }).updWeights fun w =>
    { w with spareTok := spareTokens c s.part.beds }
  s2.updReach fun r => { r with dom := { domainReset with children := List.replicate c.remote childReset } }

/-- The image is applied. -/
def applyImage (failing : List (UnitId × Nat)) (c : ImageCfg) (s : State) : State :=
  let s1 := drainBb ((probeOrder s).foldl (imageProbe c failing) (s.updImage fun i => { i with phase := 6 }))
  let s2 := placeNodes c.fanout (drainBb ((List.range s.part.beds).foldl endParity s1))
  let s3 := setHops (tideRole (c.tide == 1) (takeSettings c (regroup c.links s2)))
  let s4 := bbRecord 0x02 0 0 noSeq (loWord s3.image.treeSig) (sigGen s3) s3
  let s5 := setFlipSeq (s4.updCb fun k => { k with imgDone := k.imgDone + 1 })
  pushMirror (regrant (releaseHeld (tryJoin (setDomPhase s5))))

/-- IMAGE_APPLIED: parity and the probes of fenced units have ended; `failing` lists the units that failed, with the phase. -/
def execImageApplied (failing : List (UnitId × Nat)) (s : State) : Host.Outcome State Fault Refusal :=
  match s.image.checked with
  | some c => when' (s.power.logicOn && s.image.phase == 5) (applyImage failing c s) s
  | none => .next s

end Sys2Proof.Machine
end

