-- ==== Sys2Proof/Machine/PowerOps.lean ====
section
/-!
DEFINITION. Supplies, power states, operating points, start-up and reset (17_integration.md R335 to R345), the pace (01_engine_overview.md R22,
R23; 18_registers.md R351), and the version floor (16_image.md R331).
-/

namespace Sys2Proof.Machine

/-! ### Registers of this chapter that other values use -/

/-- Codes of CTL_PACE.OPPT and MG_OPPT. -/
def OpPoint.code : OpPoint → Nat
  | .low => 0
  | .nominal => 1
  | .high => 2

/-- The point of a code; 0b11 names none. -/
def opPointOf : Nat → Option OpPoint
  | 0 => some .low
  | 1 => some .nominal
  | 2 => some .high
  | _ => none

/-- CTL_PACE. -/
def ctlPace (s : State) : Word :=
  let p := s.power
  word (bit01 p.paceValid * 2 ^ 31 + (if p.ramp.isSome then 3 else p.cur.code) * 2 ^ 24 + p.tj.toNat * 2 ^ 16 + p.pace.toNat)

/-- CTL_REVISION (R236): ARITH_REV 1, STEPPING 0, and the beds. -/
def ctlRevision (s : State) : Word := word (2 ^ 24 + s.part.beds)

/-! ### The pace (R23, R351) -/

/-- A measurement, and its copy in MG_PACE. -/
def paceMeasured (pace : BitVec 16) (tj : BitVec 8) (s : State) : State :=
  let s1 := s.updPower fun p => { p with paceValid := true, pace := pace, tj := tj, paceAt := s.tide.count.toNat }
  s1.updPower fun p => { p with mgPace := word ((ctlPace s1).toNat % 2 ^ 26 + 2 ^ 31), mgPaceStale := false }

/-- PACE_UPDATE: every 1,024 tide ticks. -/
def execPaceUpdate (pace : BitVec 16) (tj : BitVec 8) (s : State) : Host.Outcome State Fault Refusal :=
  when' (s.power.logicOn && decide (s.power.paceAt + 1024 ≤ s.tide.count.toNat)) (paceMeasured pace tj s) s

/-! ### Operating points (R22, R339) -/

/-- A ramp to a point other than the one in force (DEDUCED, log entry 113). -/
def startRamp (o : OpPoint) (s : State) : State :=
  if o = s.power.cur then s else s.updPower fun p => { p with ramp := some o }

/-- A write of MG_OPPT (DEDUCED, log entry 113). -/
def writeOppt (value : Word) (s : State) : State :=
  match opPointOf (bitsOf value.toNat 1 0) with
  | none => s
  | some o =>
    let s1 := s.updPower fun p => { p with req := o }
    if !s.power.logicOn then s1
    else if s.power.ramp.isSome then s1.updPower fun p => { p with rampQueued := some o }
    else startRamp o s1

/-- OPPT_REQUEST. -/
def execOpptRequest (value : Word) (s : State) : Host.Outcome State Fault Refusal := .next (mgWrite (writeOppt value) s)

/-- The ramp ends: the new point is in force, its record is written, and a queued request starts. -/
def rampEnds (o : OpPoint) (s : State) : State :=
  let s1 := s.updPower fun p => { p with cur := o, ramp := none, rampQueued := none }
  let s2 := bbRecord 0x03 0 0 noSeq (word (s.power.cur.code + 4 * o.code)) (ctlPace s1) s1
  match s.power.rampQueued with
  | some q => startRamp q s2
  | none => s2

/-- OPPT_RAMP_END. -/
def execOpptRampEnd (s : State) : Host.Outcome State Fault Refusal :=
  match s.power.ramp with
  | some o => when' s.power.logicOn (rampEnds o s) s
  | none => .next s

/-! ### Reset of the logic domain and memory die (Table 17.6) -/

/-- Ports after a reset: PORT_RST is an input, and what has left has left. -/
def portsAfterReset (p : Ports) : Ports :=
  { portsReset with p0 := ⟨p.p0.rst, 0, 0⟩, p1 := ⟨p.p1.rst, 0, 0⟩, sent := p.sent, hostWrites := p.hostWrites }

/-- The mirror is held in the always-on domain and keeps its last values. -/
def fabricAfterReset (f : Fabric) : Fabric :=
  { fabricReset with
    mgSummary := f.mgSummary, mgStale := true, mgHeld := f.mgHeld, mgBeds := f.mgBeds, divergeCount := f.divergeCount, divergeLast := f.divergeLast
    mirrorAt := f.mirrorAt }

/-- The block address is held by the management port; lanes and device identity are not the logic domain's (DEDUCED, log entry 115). -/
def reachAfterReset (r : Reach) : Reach :=
  { reachReset with
    addr := r.addr, addrField := r.addrField, addrTold := r.addr, phy := r.phy, device := r.device, sent := r.sent, flits := r.flits
    codewords := r.codewords }

/-- The tide is kept and counts, as a master's; the launch gate is the logic domain's. -/
def tideAfterReset (t : TideSt) : TideSt :=
  { tideMaster t with gateEn := false, gateCount := 0, gateOpened := 0 }

/-- The logic domain's own power status at a reset. -/
def powerAfterReset (now : Nat) (p : Power) : Power :=
  { p with
    resetHeld := false, bootSteps := [], ready := false, headFail := false, bootFenced := 0, paceValid := false, tj := 0, pace := 0
    paceAt := now, mgPaceStale := true }

/-- Every logic-domain and memory-die state takes its reset value; the always-on domain keeps its own (DEDUCED, log entry 115). -/
def logicReset (s0 : State) : State :=
  let s := staleMirror s0
  { s with
    power := powerAfterReset s.tide.count.toNat s.power, tide := tideAfterReset s.tide, soft := softReset, ca := countersAReset
    cb := countersBReset, ports := portsAfterReset s.ports, pipe := pipeReset, masks := maskReset, fn := fnReset
    brine := brineReset
    weights := weightsReset, adapters := adaptersReset, image := imageReset, fabric := fabricAfterReset s.fabric
    reach := reachAfterReset s.reach }

/-! ### Power states (R340) -/

/-- The logic domain leaves ON: mirrors keep their last values as STALE and event outputs fall (R291, R310, R351). -/
def leaveOn (s : State) : State :=
  eventsDown ((staleMirror s).updPower fun p =>
    { p with logicOn := false, mgPaceStale := true, paceValid := false })

/-- OFF: VDD_CORE and VDD_BRINE are removed and all they held is lost. -/
def enterOff (s : State) : State :=
  (logicReset (leaveOn s)).updPower fun p =>
    { p with st := .off, target := none, logicOn := false, ramp := none, rampQueued := none }

/-- A transition begins. Nothing leads from OFF to RETAIN (DEDUCED, log entry 110). -/
def beginState (t : PowerState) (s : State) : State :=
  if t = s.power.st then s
  else
    match t with
    | .on => s.updPower fun p => { p with target := some .on }
    | .retain =>
      if s.power.st = .on then withdrawCredits (s.updPower fun p => { p with target := some .retain }) else s
    | .off => enterOff s

/-- A transition has ended: a queued request starts. -/
def nextState (s : State) : State :=
  match s.power.queued with
  | some q => beginState q (s.updPower fun p => { p with queued := none })
  | none => s

/-- A request of MG_PWR_CTL: started, or queued behind the transition in progress (DEDUCED, log entry 110). -/
def requestState (t : PowerState) (s : State) : State :=
  let s1 := s.updPower fun p => { p with reqState := t, watcherWake := false }
  if s.power.target.isSome then s1.updPower fun p => { p with queued := some t } else beginState t s1

/-- PWR_ON: a write of MG_PWR_CTL with STATE = ON. -/
def execPwrOn (s : State) : Host.Outcome State Fault Refusal := .next (mgWrite (requestState .on) s)

/-- PWR_RETAIN: a write of MG_PWR_CTL with STATE = RETAIN. -/
def execPwrRetain (s : State) : Host.Outcome State Fault Refusal := .next (mgWrite (requestState .retain) s)

/-- PWR_OFF: a write of MG_PWR_CTL with STATE = OFF. -/
def execPwrOff (s : State) : Host.Outcome State Fault Refusal := .next (mgWrite (requestState .off) s)

/-- A held STEP packet ordered before `o` names the context. -/
def behindHeld (s : State) (o c : Nat) : Bool := s.pipe.waiting.any fun x => decide (x.order < o) && sheetNames x c

/-- A patch of the position can still go on: a row may retire, a window read is awaited, or a SEAL may take effect (DEDUCED, log entry 111). -/
def patchGoes (s : State) (c : ImageCfg) (l : Nat) : Bool :=
  windowBusy s l ||
  (match headEntry s l with | some e => mayRetire s c e || isUnplaced s l | none => false) ||
  (match s.weights.seals with | x :: _ => maySeal s c x l | [] => false)

/-- An adapter load can still go on. -/
def loadGoes (s : State) (c : ImageCfg) : Bool :=
  match s.adapters.loads with
  | x :: _ => loadStarted s x || canStart s c x
  | [] => false

/-- Nothing past arrival is left to complete: no sheet is past stage 1, no operation can take effect but one behind a held packet, and no
PATCH packet can go on. The journal is kept in RETAIN, so what waits in it for a flip stays (DEDUCED, log entry 111). -/
def drained (s : State) : Bool :=
  s.pipe.flight.isEmpty && s.ports.held.isEmpty &&
  (s.pipe.ops.all fun o => behindHeld s o.order (ctxNum o.bytes)) &&
  (s.pipe.closings.all fun x => behindHeld s x.order x.ctx) &&
  (match s.image.cfg with
   | some c => !((List.range s.part.leaves).any (patchGoes s c)) && !loadGoes s c
   | none => true)

/-- RETAIN_ENTER: VDD_CORE drops to 0.45 V. -/
def execRetainEnter (s : State) : Host.Outcome State Fault Refusal :=
  when' (s.power.aoUp && s.power.st == .on && s.power.target == some .retain && drained s)
    (nextState ((leaveOn s).updPower fun p => { p with st := .retain, target := none })) s

/-- Every link that is DOWN may train again (DEDUCED, log entry 112). -/
def lockLinks (s : State) : State := (List.range 8).foldl (fun t l => tryLock l t) s

/-- A link whose PHY_READY fell while the logic domain did not run goes DOWN (R258) (DEDUCED, log entry 112). -/
def dropDarkLinks (s : State) : State :=
  (List.range 8).foldl (fun t l => if (linkAt t l).phase ≠ .down ∧ !phyAll t l then enterDown l none t else t) s

/-- A block address written while the logic domain did not run is told (R261) (DESIGN CHOICE, log entry 161). -/
def addrOnReturn (s : State) : State := if s.reach.addrTold = s.reach.addr then s else tellAddr s

/-- Back at the operating point: everything was kept, credits are granted and held packets proceed (DEDUCED, log entry 112). -/
def exitRetain (s : State) : State :=
  let s1 := s.updPower fun p => { p with st := .on, target := none, logicOn := true, paceValid := true }
  nextState (regrant (addrOnReturn (lockLinks (dropDarkLinks (aoLatches (mirrorUp s1))))))

/-- RETAIN_EXIT_DONE. -/
def execRetainExitDone (s : State) : Host.Outcome State Fault Refusal :=
  when' (s.power.aoUp && s.power.st == .retain && s.power.target == some .on) (exitRetain s) s

/-! ### Start-up (R343, Table 17.4) -/

/-- POWER_GOOD: VDD_CORE and VDD_BRINE are good and logic reset is held (step 1). The point is the one that MG_OPPT.REQ names. -/
def execPowerGood (s : State) : Host.Outcome State Fault Refusal :=
  when' (s.power.aoUp && s.power.st == .off && !s.power.resetHeld && (s.power.target == some .on || s.power.reqState == .on))
    (s.updPower fun p => { p with resetHeld := true, bootSteps := [1], target := some .on, cur := p.req, ramp := none, rampQueued := none })
    s

/-- The logic domain runs from reset at the point that MG_OPPT.REQ names: start-up goes on at step 2 (R343, R344). -/
def runFromReset (s : State) : State :=
  lockLinks (aoLatches ((logicReset s).updPower fun p =>
    { p with logicOn := true, st := .on, bootSteps := [2], cur := p.req, ramp := none, rampQueued := none }))

/-- Step 1 ends: reset is released, and the way from OFF to ON has ended. -/
def bootReleased (s : State) : State := nextState (runFromReset (s.updPower fun p => { p with target := none }))

/-- A unit fails its start-up probe: fenced with its phase, and not counted. -/
def bootFence (s : State) (q : UnitId × Nat) : State :=
  match q.1 with
  | .pan p => if p < s.part.pans then setPan p { panAt s p with fenced := true, failPhase := q.2 } s else s
  | .cell p => if p < s.part.pans then setCell p { cellAt s p with phase := .fenced } s else s
  | .head => s

/-- Step 6 begins once steps 4 and 5 have ended. -/
def bootNext (s : State) : State :=
  s.updPower fun p => { p with bootSteps := if p.bootSteps.isEmpty then [6] else p.bootSteps }

/-- A step is over. -/
def bootDrop (n : Nat) (s : State) : State := s.updPower fun p => { p with bootSteps := p.bootSteps.filter (· != n) }

/-- A leaf pan that the start-up probe fences: one that a fault or a probe of software's has fenced before is not counted (R345). -/
def probedFails (s : State) : UnitId → Bool
  | .pan p => decide (p < s.part.pans) && !(panAt s p).fenced
  | _ => false

/-- Step 4 ends: failing units are fenced, and FENCED counts the pans among them (DEDUCED, log entry 114). -/
def bootProbed (failing : List (UnitId × Nat)) (s : State) : State :=
  let s1 := failing.foldl bootFence s
  bootNext (bootDrop 4 (s1.updPower fun p => { p with bootFenced := (failing.filter fun q => probedFails s q.1).length }))

/-- Step 5 ends: a head tile that fails its test halts the engine. -/
def bootHead (pass : Bool) (s : State) : State :=
  bootNext (bootDrop 5 (if pass then s else halt (freeArg s) (s.updPower fun p => { p with headFail := true })))

/-- Step 6 ends: POWER_UP is recorded and the mirror pushed; then READY, and credits. -/
def bootDone (s : State) : State :=
  let s1 := mirrorUp (bbRecord 0x01 0 0 noSeq (ctlRevision s) 0 s)
  regrant (s1.updPower fun p => { p with bootSteps := [7], ready := true })

/-- The end of a start-up step (DEDUCED, log entry 114). -/
def bootStep (r : BootReport) (s : State) : State :=
  match r.step with
  | 1 => bootReleased s
  | 2 => s.updPower fun p => { p with bootSteps := [3, 5] }
  | 3 => s.updPower fun p => { p with bootSteps := 4 :: p.bootSteps.filter (· != 3) }
  | 4 => bootProbed r.failing s
  | 5 => bootHead r.headPass s
  | 6 => bootDone s
  | _ => s

/-- BOOT_STEP_END. Step 1 holds reset; the others run in ON (R340). -/
def execBootStepEnd (r : BootReport) (s : State) : Host.Outcome State Fault Refusal :=
  when' (s.power.aoUp && s.power.bootSteps.contains r.step && (r.step == 1 || s.power.st == .on)) (bootStep r s) s

/-! ### Resets (R344, Table 17.6) -/

/-- A write of MG_RESET: GO resets the logic domain and runs start-up from step 2; refused while the domain is not ON. -/
def writeMgReset (value : Word) (s : State) : State := if bitOf value.toNat 31 && s.power.logicOn then runFromReset s else s

/-- MG_RESET. -/
def execMgReset (value : Word) (s : State) : Host.Outcome State Fault Refusal := .next (mgWrite (writeMgReset value) s)

/-- The always-on domain at its reset values; levels of inputs, the part's identity and what management holds are not its own (DEDUCED,
log entry 116). -/
def supplyState (up : Bool) (s : State) : State :=
  let z := State.resetOf s.part
  { z with
    power := { z.power with aoUp := up, imgFloor := s.power.imgFloor }
    ports := portsAfterReset s.ports
    events :=
      { z.events with
        targets := s.events.targets.map fun t => { targetReset with sleep := t.sleep }
        inputs := s.events.inputs.map fun i => { inputReset with raw := i.raw } }
    reach := { z.reach with
      phy := s.reach.phy, device := s.reach.device, sent := s.reach.sent, flits := s.reach.flits, codewords := s.reach.codewords }
    pending := s.pending }

/-- ALWAYS_ON_SUPPLY_UP: always-on registers at reset, the black box empty, the tide 0 and counting. -/
def execAlwaysOnSupplyUp (s : State) : Host.Outcome State Fault Refusal := when' (!s.power.aoUp) (supplyState true s) s

/-- The record in the recorder's hands when the supply fails, torn (R293) (DEDUCED, log entry 116). -/
def tornRecord (s : State) : List BbRec :=
  match s.bb.ring.getLast? with
  | some r => if s.tide.osc < s.bb.freeAt then [{ r with torn := true }] else []
  | none => []

/-- ALWAYS_ON_SUPPLY_LOSS: the black box, RECNO and every EV_ register are lost, and everything with them (R311, R344). -/
def execAlwaysOnSupplyLoss (torn : Bool) (s : State) : Host.Outcome State Fault Refusal :=
  when' s.power.aoUp ((supplyState false s).updBb fun b => { b with ring := if torn then tornRecord s else [] }) s

/-! ### The version floor (R331) -/

/-- A write of MG_IMG_FLOOR: it only rises. -/
def writeFloor (value : Word) (s : State) : State :=
  s.updPower fun p => { p with imgFloor := if p.imgFloor < value then value else p.imgFloor }

/-- MG_IMG_FLOOR. -/
def execMgImgFloor (value : Word) (s : State) : Host.Outcome State Fault Refusal := .next (mgWrite (writeFloor value) s)

end Sys2Proof.Machine
end

