-- ==== Sys2Proof/Machine/RegisterViews.lean ====
section
/-!
DEFINITION. What a read of each register returns (R9 to R11, R346 to R351, Tables 18.3 to 18.8). A register's fields are views of the state that
the chapters keep; a read of any register but EV_CLAIM, TIDE_LO and CTX_EPOCH_LO changes nothing (R348), so it is a value and no command.
-/

namespace Sys2Proof.Machine

/-- A field: a value at its lowest bit. -/
def fld (lo v : Nat) : Nat := v * 2 ^ lo

/-- A one-bit field. -/
def flag (i : Nat) (b : Bool) : Nat := fld i (bit01 b)

/-- An array of registers: base, stride in bytes, entries and their values; none where the offset is no entry's. -/
def regArray (o base stride n : Nat) (f : Nat → Word) : Option Word :=
  if base ≤ o ∧ o < base + stride * n ∧ (o - base) % stride = 0 then some (f ((o - base) / stride)) else none

/-- The first of several views that has a value at the offset. -/
def firstView : List (Option Word) → Option Word
  | [] => none
  | some w :: _ => some w
  | none :: r => firstView r

/-- The value that a table of registers gives an offset. -/
def viewAt (o : Nat) (t : List (Nat × Word)) : Option Word := (t.find? fun p => p.1 == o).map (·.2)

/-! ### Control region, 0x0000 to 0xFFFF (Table 18.3) -/

/-- CTL_ID and MG_ID (R350): PART 0xDB1, MAP 1, CONFIG. -/
def ctlId (s : State) : Word := word (fld 20 0xDB1 + fld 16 1 + s.part.variant)

/-- Fan-out minus 1 of a list entry, 0 where the entry is absent. -/
def treeEntry (s : State) (i : Nat) : Nat := (fanout s).getD i 1 - 1

/-- CTL_TREE_LIST0. -/
def treeList0 (s : State) : Word :=
  word (fld 28 (fanout s).length + ((List.range 7).map fun i => fld (4 * i) (treeEntry s i)).sum)

/-- CTL_TREE_LIST1. -/
def treeList1 (s : State) : Word :=
  word (flag 31 s.image.cfg.isSome + fld 16 (remoteCount s) + fld 8 (treeEntry s 9) + fld 4 (treeEntry s 8) + treeEntry s 7)

/-- Codes of CTL_ARITH_CFG.NORM. -/
def NormMode.code : NormMode → Nat
  | .rmsGain => 0
  | .gainOnly => 1
  | .none => 2

/-- CTL_ARITH_CFG; before an image POLICY reads 1 and BOUND_EXP 16. -/
def arithCfg (s : State) : Word :=
  match s.image.cfg with
  | none => 0x00000090#32
  | some c =>
    word (flag 31 true + fld 16 c.hchunks + fld 12 (wFmtCode c.wfmt) + fld 8 c.norm.code + flag 7 (c.policy == .poison) + c.boundExp)

/-- Bits of an image setting, 0 before an image. -/
def ofImage (s : State) (f : ImageCfg → Nat) : Nat := match s.image.cfg with | some c => f c | none => 0

/-- Chapters 01 to 04. -/
def viewsA (s : State) : List (Nat × Word) :=
  [(0x000, ctlId s), (0x040, ctlPace s), (0x100, treeList0 s), (0x104, treeList1 s), (0x108, loWord s.image.treeSig),
   (0x10C, hiWord s.image.treeSig), (0x180, arithCfg s),
   (0x184, match s.image.cfg with | some c => c.eps | none => 0x35800000#32),
   (0x188, s.ca.clamped), (0x18C, s.ca.poisoned), (0x190, word (fld 16 s.ca.residueHead + s.ca.residueArray)), (0x194, s.ca.residueLast),
   (0x200, word (ofImage s fun c => flag 31 true + fld 29 c.arr + fld 28 (if c.single then 0 else s.brine.live) + c.b)),
   (0x204, word (ofImage s fun c => fld 13 c.cap + c.ovfMax)),
   (0x210, word (fld 24 s.ca.eccUe + s.ca.eccCe)), (0x214, s.ca.eccLast),
   (0x218, word (flag 31 s.soft.scrubEn + s.soft.scrubInterval)), (0x220, s.soft.ovfBaseLoA), (0x224, s.soft.ovfBaseHiA),
   (0x228, s.soft.ovfBaseLoB), (0x22C, s.soft.ovfBaseHiB), (0x230, word (fld 16 s.ca.ovfStalls + s.ca.ovfRetries))]

/-- CTL_MASK_STATUS. -/
def maskStatus (s : State) : Word :=
  let m := s.masks
  word (flag 31 (m.phase != .idle) + flag 30 m.err + fld 28 m.kind + fld 16 m.bitmap + s.cb.maskDone.toNat % 65536)

/-- Chapters 05 to 08. -/
def viewsB (s : State) : List (Nat × Word) :=
  [(0x300, s.ca.scoreNan), (0x304, s.ca.scoreInf), (0x308, s.ca.graderOvf), (0x30C, word s.ca.graderPeak),
   (0x320, word (ofImage s fun c => flag 31 true + fld 16 (bitmapCount c) + maskSlots c)),
   (0x324, s.soft.maskSrcLo), (0x328, s.soft.maskSrcHi), (0x330, maskStatus s),
   (0x400, s.ca.selExtra), (0x404, s.ca.selCapped), (0x408, s.ca.selDup), (0x40C, s.ca.selLast),
   (0x500, s.ca.verNodes), (0x504, s.ca.verAccepted), (0x508, s.ca.verAllRej), (0x50C, s.ca.scoreTmask)]

/-- Packets completely arrived and not yet taken from stage 1 (DESIGN CHOICE, log entry 17). -/
def ingressWaiting (s : State) : Nat :=
  s.pipe.waiting.length + s.ports.held.length + s.pipe.ops.length + (s.weights.pkts.filter fun x => !x.todo.isEmpty).length +
  s.weights.seals.length + s.adapters.loads.length

/-- CTL_ADAPTER_WAIT: the load in turn, while it finds no entry or no run. -/
def adapterWait (s : State) : Word :=
  match s.image.cfg, s.adapters.loads with
  | some c, x :: _ =>
    if !loadStarted s x && !canStart s c x then
      word (flag 31 true + fld 16 (slotsNeeded c s.part.leaves x.block.rank) + x.block.handle)
    else 0
  | _, _ => 0

/-- Chapters 10 and 11. -/
def viewsC (s : State) : List (Nat × Word) :=
  [(0x600, word (fld 16 (ingressWaiting s) + (ingressUnits - ingressUsed s) / 32)),
   (0x604, word ((egressSize - egressUsed s) / 4096)), (0x608, s.cb.egressStall), (0x60C, s.pipe.lastSeq),
   (0x700, s.weights.wLive), (0x704, s.weights.wSealed), (0x708, flipStatus s), (0x70C, s.weights.flipTarget),
   (0x710, s.weights.splitStep), (0x714, loWord s.weights.flipTide), (0x718, hiWord s.weights.flipTide),
   (0x71C, loWord s.weights.firedTide), (0x720, hiWord s.weights.firedTide), (0x724, s.soft.flipHoldLimit),
   (0x728, word s.soft.patchShare), (0x72C, s.cb.patchRows), (0x730, s.cb.patchFrozen),
   (0x734, word (fld 16 s.cb.patchStale + fld 8 s.cb.patchNotPlaced + s.cb.patchBadData)),
   (0x738, word (fld 16 (ceilDiv (journalUsed s) 1024) + s.weights.replay.length)), (0x73C, adapterWait s)]

/-- Codes of CTL_ADAPTER_A.STATE. -/
def AdPhase.code : AdPhase → Nat
  | .free => 0
  | .loading => 1
  | .current => 2
  | .retiring => 3

/-- CTL_ADAPTER_A of a version. -/
def adapterA (s : State) (v : Nat) : Word :=
  let e := adEntry s v
  word (fld 30 e.phase.code + fld 23 e.rank + e.handle)

/-- CTL_ADAPTER_B of a version. -/
def adapterB (s : State) (v : Nat) : Word :=
  let e := adEntry s v
  word (fld 28 e.first + fld 23 e.slots + refs s v)

/-- CTL_IMG_STATUS. -/
def imgStatus (s : State) : Word :=
  let i := s.image
  word (flag 31 (i.phase != 0) + flag 30 i.cfg.isSome + flag 29 i.err + fld 25 i.kind + fld 21 i.phase + fld 16 i.section_ +
    s.cb.imgDone.toNat % 65536)

/-- CTL_BOOT_STATUS: STEP is the lowest step that has begun and not finished, 2 to 7. -/
def bootStatus (s : State) : Word :=
  let p := s.power
  let st := if p.ready then 7 else ((p.bootSteps.filter fun n => decide (2 ≤ n)).min?).getD 0
  word (flag 31 p.ready + flag 30 p.headFail + fld 27 st + p.bootFenced)

/-- Chapters 12 to 17. -/
def viewsD (s : State) : List (Nat × Word) :=
  [(0x800, sigWord0 s), (0x804, sigGen s), (0x808, loWord s.image.treeSig), (0x80C, hiWord s.image.treeSig), (0x810, ctlRevision s),
   (0x814, s.cb.loose), (0x818, s.pipe.flipSeq), (0x900, fltStatus s),
   (0x904, word (fld 24 s.cb.fltLasting + fld 12 s.cb.fltTransient + s.cb.fltReruns)),
   (0x908, word (fld 24 s.cb.tileUe + fld 12 s.cb.headCe + s.cb.tileCe)),
   (0x90C, word (fld 16 s.soft.flapWindow + s.soft.flapLimit)),
   (0x910, word (fld 16 40 + (match s.image.cfg with | some c => c.wdog | none => 200))),
   (0xA00, s.soft.imgSrcLo), (0xA04, s.soft.imgSrcHi), (0xA0C, imgStatus s), (0xA10, word (ofImage s fun c => c.version.toNat)),
   (0xA14, word (ofImage s fun c => c.zynfein.toNat)), (0xB00, bootStatus s),
   (0xB04, word (flag 31 s.ports.p1.rst + flag 30 s.ports.p0.rst + fld 16 (s.ports.p1.credit / 8) + s.ports.p0.credit / 8)),
   (0xB08, word s.soft.readLimit), (0xB0C, word (fld 16 s.cb.readTimeouts + s.cb.truncated))]

/-- The control region. -/
def ctlView (s : State) (o : Nat) : Option Word :=
  firstView [viewAt o (viewsA s), viewAt o (viewsB s), viewAt o (viewsC s), viewAt o (viewsD s),
    regArray o 0x740 8 16 (adapterA s), regArray o 0x744 8 16 (adapterB s)]

/-! ### Events region, 0x1_0000 to 0x1_FFFF (Table 18.4) -/

/-- EV_TGT_STATUS. -/
def tgtStatus (s : State) (t : Nat) : Word :=
  let x := evTarget s.events t
  word (flag 31 x.irq + flag 30 x.sleep + flag 29 x.wakeOut + fld 24 x.stack.length + fld 20 (runPrio x - 1) + flag 19 x.stack.isEmpty + x.offer)

/-- EV_TGT_FAULT. -/
def tgtFault (s : State) (t : Nat) : Word :=
  let x := evTarget s.events t
  word (flag 31 x.faultValid + fld 24 x.faultCount + fld 8 x.faultTop + x.faultWritten)

/-- EV_EXT_LEVEL: inverted levels, unfiltered. -/
def extLevels (s : State) : Word := word ((List.range 32).map fun n => flag n (extLevel s.events n)).sum

/-- The events region. The value of EV_CLAIM is the claim's (R306). -/
def evView (s : State) (o : Nat) : Option Word :=
  let e := s.events
  firstView [
    regArray o 0x10000 4 8 (srcWord (clearSrc0 e.pending)), regArray o 0x10020 4 8 (srcWord (clearSrc0 e.pending)),
    regArray o 0x10040 4 8 (srcWord (clearSrc0 e.pending)), regArray o 0x10060 4 8 (srcWord (maskSrc0 e.mask)),
    regArray o 0x10080 4 8 (srcWord (maskSrc0 e.mask)), regArray o 0x100A0 4 8 (srcWord (maskSrc0 e.mask)),
    regArray o 0x100C0 4 8 (srcWord e.active), regArray o 0x100E0 4 8 (srcWord (clearSrc0 e.wake)),
    regArray o 0x10400 4 256 (fun n => word (fld 8 (srcCfg e n).1 + (srcCfg e n).2)),
    regArray o 0x10800 0x20 8 (fun t => word (claimValue e t)),
    regArray o 0x10808 0x20 8 (fun t => word (flag 31 (evTarget e t).en + (evTarget e t).modTime)),
    regArray o 0x1080C 0x20 8 (tgtStatus s), regArray o 0x10810 0x20 8 (tgtFault s),
    viewAt o [(0x10900, word (fld 24 e.stuckMs + fld 16 e.chatLimit + fld 8 e.holdoff + e.minPulse)), (0x10904, e.inv),
      (0x10908, extLevels s), (0x1090C, e.quar), (0x10910, e.chat), (0x10914, word (fld 16 e.merged + e.rejected)), (0x10918, e.aoRaw)]]

/-! ### Contexts and functions, 0x2_0000 to 0x5_FFFF (Table 18.5) -/

/-- Contexts in a state. -/
def ctxCount (s : State) (p : CtxPhase) : Nat := (s.pipe.ctxs.filter fun x => x.2.phase == p).length

/-- A word of CTX_OPEN_MAP or CTX_CLOSING_MAP. -/
def ctxMap (s : State) (p : CtxPhase) (w : Nat) : Word :=
  word ((List.range 32).map fun b => flag b ((ctxAt s (32 * w + b)).phase == p)).sum

/-- CTX_INFO. -/
def ctxInfo (s : State) (c : Nat) : Word :=
  let x := ctxAt s c
  word (fld 30 (match x.phase with | .free => 0 | .opened => 1 | .closing => 2) + fld 16 x.counts.length + x.histLen)

/-- FN_STATUS.WAIT: step 3 of R183 waits for sheets that hold the buffer not in force (R185). -/
def fnWaits (s : State) : Bool :=
  match s.fn.phase with
  | .waiting _ => decide (0 < fnHolders s (1 - s.fn.inForce))
  | _ => false

/-- FN_STATUS. -/
def fnStatus (s : State) : Word :=
  let f := s.fn
  word (flag 31 (f.phase != .idle) + flag 30 (fnWaits s) +
    flag 29 (f.phase == .ready) + flag 28 f.err + fld 25 f.kind + fld 20 f.slot + s.cb.fnDone.toNat % 65536)

/-- FN_GEN_HOLD: a field of 0 to 2 (R185). A member that a parent has opened sheets beside two of its own shows 2 (DESIGN CHOICE, log
entry 191). -/
def genHold (s : State) (g : Nat) : Word := word (min 2 (fnHolders s g))

/-- The generation in force. -/
def genInForce (s : State) : FnGen := genOf (if s.fn.inForce = 0 then s.fn.buf0 else s.fn.buf1)

/-- The contexts and functions regions. -/
def ctxFnView (s : State) (o : Nat) : Option Word :=
  firstView [
    regArray o 0x20000 4 16 (ctxMap s .opened), regArray o 0x20040 4 16 (ctxMap s .closing),
    viewAt o [(0x20080, word (fld 16 (ctxCount s .closing) + ctxCount s .opened)), (0x20084, s.pipe.epochLatch),
      (0x20088, word (fld 24 s.cb.malformed + fld 16 s.cb.ackErr + s.cb.cancelRows)), (0x2008C, s.cb.countDrops),
      (0x40000, word (flag 31 (vellOn s) + fld 30 s.fn.inForce + fld 8 (fnSlots s).1 + (fnSlots s).2)),
      (0x40010, genBufId s.fn.buf0), (0x40014, genBufId s.fn.buf1), (0x40018, genHold s 0), (0x4001C, genHold s 1),
      (0x40020, s.soft.fnSrcLo), (0x40024, s.soft.fnSrcHi), (0x4002C, fnStatus s), (0x40030, s.cb.fnStall)],
    regArray o 0x21000 4 512 (ctxInfo s), regArray o 0x21800 4 512 (fun c => loWord (ctxAt s c).epoch),
    regArray o 0x50000 4 16384 (genWord (genInForce s))]

/-! ### Tide, black box and reach, 0x6_0000 to 0x7_FFFF (Table 18.6) -/

/-- TIDE_STATUS. -/
def tideStatus (s : State) : Word :=
  let t := s.tide
  let st := match t.phase with | .unlocked => 0 | .locked => 1 | .slewing => 2 | .holdover => 3
  word (fld 30 st + flag 29 (!t.follower) + flag 28 t.refOk + fld 24 (min 15 t.hops) + t.steps)

/-- TIDE_GATE_CTL: HELD while a sheet waits in stage 1; packets that a load holds do not set it (R248) (DESIGN CHOICE, log entry 174). -/
def gateCtl (s : State) : Word :=
  let t := s.tide
  word (flag 31 t.gateEn + flag 30 (t.gateEn && !s.pipe.waiting.isEmpty) + t.gateOpened.toNat % 65536)

/-- BB_STATUS and MG_BB_STATUS. -/
def bbStatus (s : State) : Word :=
  let b := s.bb
  word (flag 31 b.frozen + flag 30 b.posting + fld 22 b.lost + fld 14 b.trigKind + b.ring.length)

/-- BB_CTL and MG_BB_CTL; REARM and FREEZE read 0. -/
def bbCtl (s : State) : Word := word (fld 13 s.bb.post + s.bb.trig)

/-- RCH_ADDR. -/
def rchAddr (s : State) : Word := word (flag 31 s.reach.addr.isSome + ownAddr s)

/-- Codes of RCH_LINK_STATUS.STATE. -/
def LinkPhase.code : LinkPhase → Nat
  | .down => 0
  | .lock => 1
  | .hail => 2
  | .check => 3
  | .up => 4
  | .drain => 5
  | .failed => 6

/-- RCH_LINK_STATUS. -/
def linkStatus (s : State) (l : Nat) : Word :=
  let k := linkAt s l
  word (fld 29 k.phase.code + fld 26 k.reason + fld 20 k.skew + k.peer)

/-- RCH_LINK_ERR. -/
def linkErr (s : State) (l : Nat) : Word :=
  let k := linkAt s l
  word (fld 24 k.uncorr + fld 16 k.replays + fld 12 k.proto + min 0xFFF (k.corr / 256))

/-- RCH_LINK_CTL. -/
def linkCtl (s : State) (l : Nat) : Word :=
  let k := linkAt s l
  word (flag 2 k.detach + flag 1 k.retrain + flag 0 k.en)

/-- Codes of RCH_DOMAIN_STATUS.STATE. -/
def DomPhase.code : DomPhase → Nat
  | .none => 0
  | .forming => 1
  | .formed => 2
  | .partialDom => 3
  | .failed => 4
  | .standalone => 5

/-- Engines of the subtree. -/
def domEngines (s : State) : Nat :=
  if role s = 0 then 0
  else 1 + (((childIdx s).filter (childIn s)).map fun k => Config.childEngines (childSt s k).addr).sum

/-- RCH_DOMAIN_STATUS. -/
def domainStatus (s : State) : Word :=
  let d := s.reach.dom
  word (fld 29 d.phase.code + fld 26 d.reason + fld 24 (role s) + fld 16 (min 64 (domEngines s)) +
    (if role s = 2 then ofImage s fun c => c.parent else 0))

/-- Codes of RCH_CHILD.STATE. -/
def ChildPhase.code : ChildPhase → Nat
  | .absent => 0
  | .admitted => 1
  | .lost => 2
  | .departed => 3
  | .refused => 4

/-- RCH_CHILD. -/
def rchChild (s : State) (k : Nat) : Word :=
  let x := childSt s k
  word (fld 29 x.phase.code + fld 26 x.link + flag 25 x.alt + x.addr)

/-- A multicast group. -/
def mcastAt (s : State) (g : Nat) : McastSt := s.reach.groups.getD g mcastReset

/-- RCH_MCAST_CFG. -/
def mcastCfg (s : State) (g : Nat) : Word :=
  let x := mcastAt s g
  word (flag 31 x.join + flag 30 x.source + fld 24 x.upLink + fld 16 x.down)

/-- The tide, black-box and reach regions. -/
def tideReachView (s : State) (o : Nat) : Option Word :=
  firstView [
    viewAt o [(0x60000, loWord s.tide.count), (0x60004, s.tide.hiLatch), (0x60008, tideStatus s), (0x6000C, s.tide.theta),
      (0x60010, s.soft.gateLo), (0x60014, s.soft.gateHi), (0x60018, gateCtl s), (0x60100, bbStatus s), (0x60104, bbCtl s),
      (0x6010C, s.bb.recno), (0x70000, rchAddr s), (0x70004, word s.reach.widths),
      (0x70100, word (flag 31 s.reach.routesFull + s.reach.routes.length)), (0x70104, domainStatus s),
      (0x70108, word (fld 16 s.cb.domAborted + s.cb.domLosses)),
      (0x7010C, word (fld 16 s.soft.stepTimeout + fld 8 s.soft.linkTimeout))],
    regArray o 0x70010 16 8 (linkStatus s), regArray o 0x70014 16 8 (linkErr s),
    regArray o 0x70018 16 8 (fun l => word (fld 16 (linkAt s l).calTx + (linkAt s l).calRx)), regArray o 0x7001C 16 8 (linkCtl s),
    regArray o 0x70140 4 14 (rchChild s), regArray o 0x70200 8 16 (mcastCfg s), regArray o 0x70204 8 16 (fun g => (mcastAt s g).sealedMin)]

/-! ### Pan status and self-test, 0x8_0000 to 0xF_FFFF (Table 18.7) -/

/-- PAN_MAP. -/
def panMap (s : State) (l : Nat) : Word :=
  let un := isUnplaced s l
  word (flag 31 un + flag 30 (onSpare s l) + fld 16 (ofImage s fun c => (c.leafRows l).length) + (if un then 0x7FF else panOf s l))

/-- PAN_FLT. -/
def panFlt (s : State) (p : Nat) : Word :=
  let x := panAt s p
  word (flag 31 x.lasting + flag 30 x.fenced + fld 27 x.lastKind + fld 24 x.failPhase + fld 20 (min 15 (recentOf s x.recent).length) + x.transient)

/-- PAN_CELL. -/
def panCell (s : State) (p : Nat) : Word :=
  let x := cellAt s p
  word ((match x.phase with | .free => 0 | .inUse n => fld 30 1 + fld 16 n | .fenced => fld 30 2 | .lasting => fld 30 3) + x.transient)

/-- ST_STATUS. -/
def stStatus (s : State) : Word :=
  let f := s.fabric
  word (flag 31 f.stBusy + flag 30 f.stErr + fld 28 f.stResult + fld 25 f.stPhase + fld 23 f.stKind + flag 22 f.stCell + f.stPhys)

/-- The pan status and self-test region (R347). -/
def panView (s : State) (o : Nat) : Option Word :=
  firstView [
    regArray o 0x80000 4 s.part.beds (bedStatus s), regArray o 0x81000 4 s.part.leaves (panMap s),
    regArray o 0x82000 4 s.part.pans (fun p => word (fld 16 (spGet 0 s.brine.panCe p) + spGet 0 s.brine.panUe p)),
    regArray o 0x84000 4 s.part.pans (panFlt s), regArray o 0x86000 4 s.part.pans (panCell s), viewAt o [(0x88004, stStatus s)]]

/-- What a chip-port read of an aligned offset returns in ON: 0 for an unassigned offset or a register that reads as 0 (R9) (DEDUCED,
log entry 14). -/
def chipValue (s : State) (o : Nat) : Word :=
  (firstView [ctlView s o, evView s o, ctxFnView s o, tideReachView s o, panView s o]).getD 0

/-! ### Management window (Table 18.8) -/

/-- Codes of MG_PWR_CTL and MG_PWR_STATUS. -/
def PowerState.code : PowerState → Nat
  | .on => 0
  | .retain => 1
  | .off => 2

/-- MG_PACE: the last copy, and STALE. -/
def mgPaceView (s : State) : Word := word ((s.power.mgPace.toNat % 2 ^ 26) + flag 31 (bitOf s.power.mgPace.toNat 31) + flag 30 s.power.mgPaceStale)

/-- MG_OPPT. -/
def mgOppt (s : State) : Word :=
  let p := s.power
  word (flag 31 p.ramp.isSome + flag 30 p.rampQueued.isSome + fld 2 p.cur.code + p.req.code)

/-- What a management-port read of an aligned offset returns (DEDUCED, log entry 14; DESIGN CHOICE, log entry 15). -/
def mgValue (s : State) (o : Nat) : Word :=
  (firstView [
    viewAt o [(0x000, ctlId s), (0x004, mgPaceView s), (0x100, mgOppt s), (0x104, word s.power.reqState.code),
      (0x108, word (flag 31 s.power.target.isSome + flag 30 s.power.watcherWake + s.power.st.code)),
      (0x120, word (flag 16 s.reach.addr.isSome + s.reach.addrField)), (0x140, s.power.imgFloor),
      (0x300, word (s.fabric.mgSummary.toNat + flag 11 s.fabric.mgStale)),
      (0x304, word (fld 16 s.fabric.divergeCount + s.fabric.divergeLast)), (0x500, bbStatus s), (0x504, bbCtl s), (0x508, word s.bb.sel)],
    regArray o 0x400 4 s.part.beds (spGet 0 s.fabric.mgBeds), regArray o 0x510 4 8 (fun w => s.bb.words.getD w 0)]).getD 0

/-! ### Accesses (R9, R335, R336, R346) -/

/-- Bytes of the two windows (R346). -/
def windowSize (mg : Bool) : Nat := if mg then 0x1000 else 0x100000

/-- A legal access is 32 bits wide, 4-byte aligned and inside the window (R9, R346). -/
def legalAccess (mg : Bool) (o bytes : Nat) : Bool := bytes == 4 && o % 4 == 0 && decide (o < windowSize mg)

/-- The response to a read access on a port: the register's value for a legal access, an error response for any other and for a
chip-port access outside ON (R9, R335). None while the management port has no supply to answer with. The three reads with a side effect
are commands of their own (R348). -/
def readAccess (mg : Bool) (o bytes : Nat) (s : State) : Option Resp :=
  if mg && !s.power.aoUp then none
  else if !legalAccess mg o bytes then some ⟨mg, 0, true⟩
  else if mg then some ⟨true, mgValue s o, false⟩
  else if s.power.logicOn then some ⟨false, chipValue s o, false⟩
  else some ⟨false, 0, true⟩

end Sys2Proof.Machine
end

