-- ==== Sys2Proof/Machine/Registers.lean ====
section
/-!
DEFINITION. Register writes (00_scope.md R9 to R11, 18_registers.md R346 to R352): the legality of an access and the effect of a write on each
writable register of the two windows.
-/

namespace Sys2Proof.Machine

/-! ### Field rules -/

/-- A write of 0 taken as 1 (DEDUCED, log entry 19). -/
def atLeast1 (n : Nat) : Nat := if n = 0 then 1 else n

/-- The address bits of a 64-byte-aligned low word: bits [5:0] are reserved. -/
def lo64 (v : Word) : Word := v &&& 0xFFFFFFC0#32

/-- The entry of a register array at an offset. -/
def entryOf (o base stride n : Nat) : Option Nat :=
  if base ≤ o ∧ o < base + stride * n ∧ (o - base) % stride = 0 then some ((o - base) / stride) else none

/-! ### Registers with no row of their own -/

/-- CTL_SCRUB. -/
def writeScrub (v : Word) (r : SoftRegs) : SoftRegs :=
  { r with scrubEn := bitOf v.toNat 31, scrubInterval := atLeast1 (bitsOf v.toNat 15 0) }

/-- CTL_FLT_FLAP. -/
def writeFlap (v : Word) (r : SoftRegs) : SoftRegs :=
  { r with flapWindow := atLeast1 (bitsOf v.toNat 31 16), flapLimit := bitsOf v.toNat 3 0 }

/-- RCH_TIMEOUTS. -/
def writeTimeouts (v : Word) (r : SoftRegs) : SoftRegs :=
  { r with stepTimeout := atLeast1 (bitsOf v.toNat 31 16), linkTimeout := atLeast1 (bitsOf v.toNat 15 8) }

/-- The registers that only hold what software wrote (DEDUCED, log entry 19). -/
def writeSoft (o : Nat) (v : Word) (r : SoftRegs) : SoftRegs :=
  match o with
  | 0x218 => writeScrub v r
  | 0x220 => { r with ovfBaseLoA := lo64 v }
  | 0x224 => { r with ovfBaseHiA := v }
  | 0x228 => { r with ovfBaseLoB := lo64 v }
  | 0x22C => { r with ovfBaseHiB := v }
  | 0x324 => { r with maskSrcLo := lo64 v }
  | 0x328 => { r with maskSrcHi := v }
  | 0x724 => { r with flipHoldLimit := v }
  | 0x728 => { r with patchShare := min 8 (bitsOf v.toNat 3 0) }
  | 0x90C => writeFlap v r
  | 0xA00 => { r with imgSrcLo := lo64 v }
  | 0xA04 => { r with imgSrcHi := v }
  | 0xB08 => { r with readLimit := atLeast1 (bitsOf v.toNat 15 0) }
  | 0x40020 => { r with fnSrcLo := lo64 v }
  | 0x40024 => { r with fnSrcHi := v }
  | 0x60010 => { r with gateLo := v }
  | 0x60014 => { r with gateHi := v }
  | 0x7010C => writeTimeouts v r
  | _ => r

/-- EV_PENDING: a plain write of a word; source 0 reads 0 (R301). -/
def writePending (w : Nat) (v : Word) (e : Events) : Events :=
  let p := clearSrc0 (setSrcWord e.pending w v)
  withdraw (e.pending &&& ~~~p) { e with pending := p }

/-- EV_MASK: a plain write of a word; source 0 reads 1. -/
def writeMask (w : Nat) (v : Word) (e : Events) : Events :=
  let m := maskSrc0 (setSrcWord e.mask w v)
  withdraw (m &&& ~~~e.mask) { e with mask := m }

/-- EV_WAKE: a plain write of a word; source 0 reads 0. -/
def writeWake (w : Nat) (v : Word) (e : Events) : Events := { e with wake := clearSrc0 (setSrcWord e.wake w v) }

/-- EV_SRC_CFG: TARGETS and PRIO; the TARGETS of source 0 read 0 and ignore writes (R302). A changed TARGETS withdraws the source's offer
(Table 15.2). -/
def writeSrcCfg (n : Nat) (v : Word) (e : Events) : Events :=
  let ts := if n = 0 then 0 else bitsOf v.toNat 15 8
  withdraw (if (srcCfg e n).1 = ts then 0 else setSrc 0 n true)
    { e with cfg := (n, ts, bitsOf v.toNat 3 0) :: e.cfg.filter fun p => p.1 != n }

/-- EV_EXT_CFG. -/
def writeExtCfg (v : Word) (e : Events) : Events :=
  let n := v.toNat
  { e with
    stuckMs := atLeast1 (bitsOf n 31 24), chatLimit := bitsOf n 23 16, holdoff := bitsOf n 15 8, minPulse := atLeast1 (bitsOf n 7 0) }

/-- EV_AO_RAW is W1C. -/
def writeAoRaw (v : Word) (e : Events) : Events := { e with aoRaw := e.aoRaw &&& ~~~v }

/-- RCH_LINK_CAL. -/
def writeLinkCal (l : Nat) (v : Word) (s : State) : State :=
  updLink l (fun k => { k with calTx := bitsOf v.toNat 31 16, calRx := bitsOf v.toNat 15 0 }) s

/-- RCH_MCAST_CFG: the fields; the last reports of links that leave DOWN are forgotten, and the group's lowest step is formed again
(R276, R277) (DEDUCED, log entry 16). -/
def writeMcastCfg (g : Nat) (v : Word) (s : State) : State :=
  let n := v.toNat
  let down := bitsOf n 23 16
  let out := (downLinks (s.reach.groups.getD g mcastReset)).filter fun l => !bitOf down l
  let s1 := reportGroups (s.updReach fun r =>
    { r with
      groups := r.groups.modify g fun x =>
        { x with
          join := bitOf n 31, source := bitOf n 30, upLink := bitsOf n 26 24, down := down
          reports := x.reports.filter fun p => bitOf down p.1 } })
  settleMcast (out.foldl (fun t l => dropCopies g l t) s1)

/-! ### The two windows -/

/-- An array's write, where the offset is an entry's. -/
def onEntry (o base stride n : Nat) (f : Nat → State → State) (rest : State → State) (s : State) : State :=
  match entryOf o base stride n with
  | some i => f i s
  | none => rest s

/-- Writes in the events region (Table 18.4). -/
def writeEv (o : Nat) (v : Word) : State → State :=
  onEntry o 0x10000 4 8 (fun w s => s.updEvents (writePending w v)) <|
  onEntry o 0x10020 4 8 (fun w => pendingSet w v) <|
  onEntry o 0x10040 4 8 (fun w => pendingClr w v) <|
  onEntry o 0x10060 4 8 (fun w s => s.updEvents (writeMask w v)) <|
  onEntry o 0x10080 4 8 (fun w => maskSet w v) <|
  onEntry o 0x100A0 4 8 (fun w => maskClr w v) <|
  onEntry o 0x100E0 4 8 (fun w s => s.updEvents (writeWake w v)) <|
  onEntry o 0x10400 4 256 (fun n s => s.updEvents (writeSrcCfg n v)) <|
  onEntry o 0x10804 0x20 8 (fun t => complete t (bitsOf v.toNat 7 0)) <|
  onEntry o 0x10808 0x20 8 (fun t => writeTgtCtl t v) <|
  onEntry o 0x10900 4 1 (fun _ s => s.updEvents (writeExtCfg v)) <|
  onEntry o 0x10904 4 1 (fun _ => writeExtInv v) <|
  onEntry o 0x1090C 4 1 (fun _ => quarRelease v) <|
  onEntry o 0x10918 4 1 (fun _ s => s.updEvents (writeAoRaw v)) id

/-- Writes in the reach region (Table 18.6). -/
def writeReach (o : Nat) (v : Word) : State → State :=
  onEntry o 0x70018 16 8 (fun l => writeLinkCal l v) <|
  onEntry o 0x7001C 16 8 (fun l => writeLinkCtl l v) <|
  onEntry o 0x70200 8 16 (fun g => writeMcastCfg g v) id

/-- The effect of a write at an aligned offset of the chip port: nothing for an unassigned or read-only register (R9, R348). -/
def chipEffect (o : Nat) (v : Word) (s : State) : State :=
  match o with
  | 0x32C => writeMaskLoad v s
  | 0xA08 => writeImgLoad v s
  | 0x40028 => writeFnLoad v s
  | 0x60018 => writeGateCtl v s
  | 0x60104 => writeBbCtl v s
  | 0x60108 => swMark v s
  | 0x88000 => writeStCtl v s
  | _ =>
    if 0x10000 ≤ o ∧ o < 0x20000 then writeEv o v s
    else if 0x70010 ≤ o ∧ o < 0x70090 ∨ 0x70200 ≤ o ∧ o < 0x70280 then writeReach o v s
    else s.updSoft (writeSoft o v)

/-- A power state of MG_PWR_CTL; 0b11 is no change. -/
def powerStateOf : Nat → Option PowerState
  | 0 => some .on
  | 1 => some .retain
  | 2 => some .off
  | _ => none

/-- A write of MG_PWR_CTL (R340). -/
def writePwrCtl (v : Word) (s : State) : State :=
  match powerStateOf (bitsOf v.toNat 1 0) with
  | some t => requestState t s
  | none => s

/-- The effect of a write at an aligned offset of the management port (R336). -/
def mgEffect (o : Nat) (v : Word) (s : State) : State :=
  match o with
  | 0x100 => writeOppt v s
  | 0x104 => writePwrCtl v s
  | 0x10C => writeMgReset v s
  | 0x120 => writeAddr v s
  | 0x140 => writeFloor v s
  | 0x504 => writeBbCtl v s
  | 0x508 => bbSelect v s
  | _ => s

/-- REGISTER_WRITE: a legal write has its register's effect; any other access completes with an error response and no effect (R9). A
port that has no supply answers nothing. -/
def execRegisterWrite (mg : Bool) (o bytes : Nat) (v : Word) (s : State) : Host.Outcome State Fault Refusal :=
  if legalAccess mg o bytes then .next (portWrite mg (if mg then mgEffect o v else chipEffect o v) s)
  else when' (s.power.aoUp || !mg) (respond mg 0 true s) s

end Sys2Proof.Machine
end

