-- ==== Sys2Proof/Machine/Dispatch.lean ====
section
/-!
DEFINITION. exec: one arm per command, each a direct call of its meaning.
-/

namespace Sys2Proof.Machine

/-- The effect of a command on everything but the queue. -/
def exec (i : Instr) (s : State) : Host.Outcome State Fault Refusal :=
  match i with
  | .step port bytes => Sys2Proof.Machine.execStep port bytes s
  | .unknownType port bytes => Sys2Proof.Machine.execUnknownType port bytes s
  | .ctxOpen port bytes => Sys2Proof.Machine.execCtxOpen port bytes s
  | .ctxSet port bytes => Sys2Proof.Machine.execCtxSet port bytes s
  | .ctxRead port bytes => Sys2Proof.Machine.execCtxRead port bytes s
  | .ctxImport port bytes => Sys2Proof.Machine.execCtxImport port bytes s
  | .ctxCancel port bytes => Sys2Proof.Machine.execCtxCancel port bytes s
  | .ctxOpEffect idx => Sys2Proof.Machine.execCtxOpEffect idx s
  | .rows port bytes => Sys2Proof.Machine.execRows port bytes s
  | .seal port bytes => Sys2Proof.Machine.execSeal port bytes s
  | .arm port bytes => Sys2Proof.Machine.execArm port bytes s
  | .disarm port bytes => Sys2Proof.Machine.execDisarm port bytes s
  | .adapterLoad port bytes => Sys2Proof.Machine.execAdapterLoad port bytes s
  | .adapterRetire port bytes => Sys2Proof.Machine.execAdapterRetire port bytes s
  | .sheetEnterStage2 => Sys2Proof.Machine.execSheetEnterStage2 s
  | .sheetEnterStage3 => Sys2Proof.Machine.execSheetEnterStage3 s
  | .sheetEnterStage4 => Sys2Proof.Machine.execSheetEnterStage4 s
  | .scoreBatch seq leaf slot => Sys2Proof.Machine.execScoreBatch seq leaf slot s
  | .rakeMerge seq node slot => Sys2Proof.Machine.execRakeMerge seq node slot s
  | .headPassEnd seq row => Sys2Proof.Machine.execHeadPassEnd seq row s
  | .sheetCommit => Sys2Proof.Machine.execSheetCommit s
  | .outboundSend port => Sys2Proof.Machine.execOutboundSend port s
  | .egressCredit port units => Sys2Proof.Machine.execEgressCredit port units s
  | .portRstRise port partialPacket => Sys2Proof.Machine.execPortRstRise port partialPacket s
  | .portRstFall port => Sys2Proof.Machine.execPortRstFall port s
  | .readResponse kind data err => Sys2Proof.Machine.execReadResponse kind data err s
  | .readTimeout kind => Sys2Proof.Machine.execReadTimeout kind s
  | .overflowTimeout leaf chunk => Sys2Proof.Machine.execOverflowTimeout leaf chunk s
  | .patchRowRetire leaf => Sys2Proof.Machine.execPatchRowRetire leaf s
  | .sealEffect leaf => Sys2Proof.Machine.execSealEffect leaf s
  | .flipDecision => Sys2Proof.Machine.execFlipDecision s
  | .flipFire => Sys2Proof.Machine.execFlipFire s
  | .replayDone leaf => Sys2Proof.Machine.execReplayDone leaf s
  | .flipAbandon => Sys2Proof.Machine.execFlipAbandon s
  | .windowOpen => Sys2Proof.Machine.execWindowOpen s
  | .windowHoldLimit => Sys2Proof.Machine.execWindowHoldLimit s
  | .adapterLoadStart => Sys2Proof.Machine.execAdapterLoadStart s
  | .adapterWritten => Sys2Proof.Machine.execAdapterWritten s
  | .maskLoad value => Sys2Proof.Machine.execMaskLoad value s
  | .maskCopy => Sys2Proof.Machine.execMaskCopy s
  | .maskLoadEnd => Sys2Proof.Machine.execMaskLoadEnd s
  | .fnLoad value => Sys2Proof.Machine.execFnLoad value s
  | .fnWrite => Sys2Proof.Machine.execFnWrite s
  | .fnReady => Sys2Proof.Machine.execFnReady s
  | .imgLoad value => Sys2Proof.Machine.execImgLoad value s
  | .imgReset headPass => Sys2Proof.Machine.execImgReset headPass s
  | .authVerdict pass => Sys2Proof.Machine.execAuthVerdict pass s
  | .authTimeout => Sys2Proof.Machine.execAuthTimeout s
  | .imageApplied failing => Sys2Proof.Machine.execImageApplied failing s
  | .stProbe value => Sys2Proof.Machine.execStProbe value s
  | .fault unit d => Sys2Proof.Machine.execFault unit d s
  | .watchdogExpiry unit channel neighbour => Sys2Proof.Machine.execWatchdogExpiry unit channel neighbour s
  | .rebuildDone bed => Sys2Proof.Machine.execRebuildDone bed s
  | .shadowRebuildDone bed => Sys2Proof.Machine.execShadowRebuildDone bed s
  | .probeEnd unit v => Sys2Proof.Machine.execProbeEnd unit v s
  | .probeTimeout unit => Sys2Proof.Machine.execProbeTimeout unit s
  | .returnCopyDone bed => Sys2Proof.Machine.execReturnCopyDone bed s
  | .leafMoveBack bed => Sys2Proof.Machine.execLeafMoveBack bed s
  | .parityDone bed => Sys2Proof.Machine.execParityDone bed s
  | .scrubRead pan found => Sys2Proof.Machine.execScrubRead pan found s
  | .mirrorCheck => Sys2Proof.Machine.execMirrorCheck s
  | .paceUpdate pace tj => Sys2Proof.Machine.execPaceUpdate pace tj s
  | .tideTick => Sys2Proof.Machine.execTideTick s
  | .tideLost => Sys2Proof.Machine.execTideLost s
  | .tideExchange => Sys2Proof.Machine.execTideExchange s
  | .oscCalibrate => Sys2Proof.Machine.execOscCalibrate s
  | .gateOpen => Sys2Proof.Machine.execGateOpen s
  | .gateLatch value => Sys2Proof.Machine.execGateLatch value s
  | .gateRelease value => Sys2Proof.Machine.execGateRelease value s
  | .tideLoRead => Sys2Proof.Machine.execTideLoRead s
  | .ctxEpochLoRead ctx => Sys2Proof.Machine.execCtxEpochLoRead ctx s
  | .evClaim t => Sys2Proof.Machine.execEvClaim t s
  | .evComplete t value => Sys2Proof.Machine.execEvComplete t value s
  | .flush t value => Sys2Proof.Machine.execFlush t value s
  | .evPendingSet w value => Sys2Proof.Machine.execEvPendingSet w value s
  | .evPendingClr w value => Sys2Proof.Machine.execEvPendingClr w value s
  | .evMaskSet w value => Sys2Proof.Machine.execEvMaskSet w value s
  | .evMaskClr w value => Sys2Proof.Machine.execEvMaskClr w value s
  | .evArbitrate => Sys2Proof.Machine.execEvArbitrate s
  | .evModerationEnd t => Sys2Proof.Machine.execEvModerationEnd t s
  | .sleepChange t level => Sys2Proof.Machine.execSleepChange t level s
  | .extInputChange n level => Sys2Proof.Machine.execExtInputChange n level s
  | .extPulseAccept n => Sys2Proof.Machine.execExtPulseAccept n s
  | .extHoldoffEnd n => Sys2Proof.Machine.execExtHoldoffEnd n s
  | .extStuck n => Sys2Proof.Machine.execExtStuck n s
  | .evExtQuarRelease value => Sys2Proof.Machine.execEvExtQuarRelease value s
  | .rearm mg value => Sys2Proof.Machine.execRearm mg value s
  | .freeze mg value => Sys2Proof.Machine.execFreeze mg value s
  | .swMark value => Sys2Proof.Machine.execSwMark value s
  | .mgBbSel value => Sys2Proof.Machine.execMgBbSel value s
  | .opptRequest value => Sys2Proof.Machine.execOpptRequest value s
  | .opptRampEnd => Sys2Proof.Machine.execOpptRampEnd s
  | .pwrOn => Sys2Proof.Machine.execPwrOn s
  | .pwrRetain => Sys2Proof.Machine.execPwrRetain s
  | .pwrOff => Sys2Proof.Machine.execPwrOff s
  | .retainEnter => Sys2Proof.Machine.execRetainEnter s
  | .retainExitDone => Sys2Proof.Machine.execRetainExitDone s
  | .mgReset value => Sys2Proof.Machine.execMgReset value s
  | .alwaysOnSupplyUp => Sys2Proof.Machine.execAlwaysOnSupplyUp s
  | .powerGood => Sys2Proof.Machine.execPowerGood s
  | .bootStepEnd r => Sys2Proof.Machine.execBootStepEnd r s
  | .addrAssign value => Sys2Proof.Machine.execAddrAssign value s
  | .mgImgFloor value => Sys2Proof.Machine.execMgImgFloor value s
  | .detach link value => Sys2Proof.Machine.execDetach link value s
  | .retrain link value => Sys2Proof.Machine.execRetrain link value s
  | .linkEn link value => Sys2Proof.Machine.execLinkEn link value s
  | .registerWrite mg offset bytes value => Sys2Proof.Machine.execRegisterWrite mg offset bytes value s
  | .phyReadyRise lane => Sys2Proof.Machine.execPhyReadyRise lane s
  | .phyReadyFall lane => Sys2Proof.Machine.execPhyReadyFall lane s
  | .laneLock link lanes => Sys2Proof.Machine.execLaneLock link lanes s
  | .linkStateTimeout link => Sys2Proof.Machine.execLinkStateTimeout link s
  | .linkTimeout link => Sys2Proof.Machine.execLinkTimeout link s
  | .hailResend link => Sys2Proof.Machine.execHailResend link s
  | .hail link h frame => Sys2Proof.Machine.execHail link h frame s
  | .hailCheck link => Sys2Proof.Machine.execHailCheck link s
  | .idle link h => Sys2Proof.Machine.execIdle link h s
  | .goodbye link h addr => Sys2Proof.Machine.execGoodbye link h addr s
  | .route link h entries => Sys2Proof.Machine.execRoute link h entries s
  | .routeAdvertise => Sys2Proof.Machine.execRouteAdvertise s
  | .routeAge addr => Sys2Proof.Machine.execRouteAge addr s
  | .tideReq link h t1 frac => Sys2Proof.Machine.execTideReq link h t1 frac s
  | .tideRsp link h t1 t2 t3 frac => Sys2Proof.Machine.execTideRsp link h t1 t2 t3 frac s
  | .join link h addr sig live sealed => Sys2Proof.Machine.execJoin link h addr sig live sealed s
  | .admitChild link h => Sys2Proof.Machine.execAdmit link h s
  | .refuse link h reason => Sys2Proof.Machine.execRefuse link h reason s
  | .sealed link h stp => Sys2Proof.Machine.execSealed link h stp s
  | .domainArm link h stp tide => Sys2Proof.Machine.execDomainArm link h stp tide s
  | .domainDisarm link h stp tide => Sys2Proof.Machine.execDomainDisarm link h stp tide s
  | .fire link h stp => Sys2Proof.Machine.execFire link h stp s
  | .lost link h addr => Sys2Proof.Machine.execLost link h addr s
  | .depart link h => Sys2Proof.Machine.execDepart link h s
  | .domainChange => Sys2Proof.Machine.execDomainChange s
  | .stepTimeout child => Sys2Proof.Machine.execStepTimeout child s
  | .progressSend => Sys2Proof.Machine.execProgressSend s
  | .sheetOpen link h r seq live genId slots order => Sys2Proof.Machine.execSheetOpen link h r seq live genId slots order s
  | .rowCtl link h r c => Sys2Proof.Machine.execRowCtl link h r c s
  | .brine link h r bytes => Sys2Proof.Machine.execBrine link h r bytes s
  | .grader link h r bytes => Sys2Proof.Machine.execGrader link h r bytes s
  | .mask link h r ref => Sys2Proof.Machine.execMask link h r ref s
  | .watch link h r toks => Sys2Proof.Machine.execWatch link h r toks s
  | .pass link h r c => Sys2Proof.Machine.execPass link h r c s
  | .abort link h r seq => Sys2Proof.Machine.execAbort link h r seq s
  | .adapter link h r v handle rank bytes => Sys2Proof.Machine.execAdapter link h r v handle rank bytes s
  | .adapterFree link h r v => Sys2Proof.Machine.execAdapterFree link h r v s
  | .windrow link h r entries => Sys2Proof.Machine.execWindrow link h r entries s
  | .stats link h r bytes => Sys2Proof.Machine.execStats link h r bytes s
  | .vector link h r v => Sys2Proof.Machine.execVector link h r v s
  | .reject link h r reason => Sys2Proof.Machine.execReject link h r reason s
  | .progress link h r seq => Sys2Proof.Machine.execProgress link h r seq s
  | .placement link h r bytes => Sys2Proof.Machine.execPlacement link h r bytes s
  | .adapterDone link h r v result => Sys2Proof.Machine.execAdapterDone link h r v result s
  | .mcast link h group segment => Sys2Proof.Machine.execMcast link h group segment s
  | .mcastReport link h group stp => Sys2Proof.Machine.execMcastReport link h group stp s
  | .alwaysOnSupplyLoss torn => Sys2Proof.Machine.execAlwaysOnSupplyLoss torn s
  | .gradientPacket seq leaf slot chunk => Sys2Proof.Machine.execGradientPacket seq leaf slot chunk s

end Sys2Proof.Machine
end

