-- ==== Sys2Proof/Machine/Step.lean ====
section
/-!
DEFINITION. The step: the command at the front of the queue runs on the state with the queue's rest. On an empty queue one nanosecond of the
always-on oscillator passes with no reference edge (DESIGN CHOICE, log entry 3).
-/

namespace Sys2Proof.Machine

/-- A nanosecond of the always-on oscillator passes: in HOLDOVER the tide counts on it (R247, R337). Without the always-on supply nothing
counts (DESIGN CHOICE, log entry 3). -/
def idleStep (s : State) : State := if s.power.aoUp then oscTick s else s

/-- One step (DESIGN CHOICE, log entry 3; DEDUCED, log entry 4). -/
def step (s : State) : Host.Outcome State Fault Refusal :=
  match s.pending with
  | [] => .next (idleStep s)
  | c :: rest => exec c { s with pending := rest }

/-- The state with the command that a table word spells at the front of its queue; no word spells one (DEDUCED, log entry 4). -/
def State.withFetchWord (s : State) (nbits w : Nat) : State :=
  match decodeTableWord nbits w with
  | some c => { s with pending := c :: s.pending }
  | none => s

end Sys2Proof.Machine
end

