-- ==== Sys2Proof/Safety.lean ====
section
/-!
DEFINITION. The terms that statements use: the groups of the state and frames over them, the registers' offsets, the invariants of the
block, and the states from which a command runs.
-/

namespace Sys2Proof.Safety

open Sys2Proof.Machine

/-! ### Groups and frames -/

/-- The groups of the state, as Machine/State.lean names them. -/
inductive Group where
  | power
  | tide
  | soft
  | ca
  | cb
  | ports
  | pipe
  | masks
  | fn
  | brine
  | weights
  | adapters
  | image
  | fabric
  | bb
  | events
  | reach
  | resp
deriving DecidableEq, Repr

/-- Two states agree on a group. -/
def SameGroup (s t : State) : Group → Prop
  | .power => t.power = s.power
  | .tide => t.tide = s.tide
  | .soft => t.soft = s.soft
  | .ca => t.ca = s.ca
  | .cb => t.cb = s.cb
  | .ports => t.ports = s.ports
  | .pipe => t.pipe = s.pipe
  | .masks => t.masks = s.masks
  | .fn => t.fn = s.fn
  | .brine => t.brine = s.brine
  | .weights => t.weights = s.weights
  | .adapters => t.adapters = s.adapters
  | .image => t.image = s.image
  | .fabric => t.fabric = s.fabric
  | .bb => t.bb = s.bb
  | .events => t.events = s.events
  | .reach => t.reach = s.reach
  | .resp => t.resp = s.resp

/-- From `s` to `t` nothing changes outside the named groups: neither the part, nor the queue, nor any other group. -/
def OnlyChanges (gs : List Group) (s t : State) : Prop :=
  t.part = s.part ∧ t.pending = s.pending ∧ ∀ g, g ∉ gs → SameGroup s t g

/-! ### Registers -/

/-- An offset is an entry of one of these registers, each its first offset, its stride and its entries. -/
def entryIn (o : Nat) (ts : List (Nat × Nat × Nat)) : Prop := ∃ t ∈ ts, ∃ i, i < t.2.2 ∧ o = t.1 + t.2.1 * i

/-- The registers of the chip port that take writes (Tables 18.3 to 18.7). -/
def chipWrites : List (Nat × Nat × Nat) :=
  [(0x218, 4, 1), (0x220, 4, 4), (0x324, 4, 3), (0x724, 4, 2), (0x90C, 4, 1), (0xA00, 4, 3), (0xB08, 4, 1), (0x10000, 4, 48),
    (0x100E0, 4, 8), (0x10400, 4, 256), (0x10804, 0x20, 8), (0x10808, 0x20, 8), (0x10900, 4, 2), (0x1090C, 4, 1), (0x10918, 4, 1),
    (0x40020, 4, 3), (0x60010, 4, 3), (0x60104, 4, 2), (0x7010C, 4, 1), (0x70018, 16, 8), (0x7001C, 16, 8), (0x70200, 8, 16),
    (0x88000, 4, 1)]

/-- Its other registers that read; arrays end with the part's beds, positions and pans (R347). -/
def chipReads (p : Part) : List (Nat × Nat × Nat) :=
  [(0x000, 4, 1), (0x040, 4, 1), (0x100, 4, 4), (0x180, 4, 6), (0x200, 4, 2), (0x210, 4, 2), (0x230, 4, 1), (0x300, 4, 4), (0x320, 4, 1),
    (0x330, 4, 1), (0x400, 4, 4), (0x500, 4, 4), (0x600, 4, 4), (0x700, 4, 9), (0x72C, 4, 5), (0x740, 4, 32), (0x800, 4, 7), (0x900, 4, 3),
    (0x910, 4, 1), (0xA0C, 4, 3), (0xB00, 4, 2), (0xB0C, 4, 1), (0x100C0, 4, 8), (0x10800, 0x20, 8), (0x1080C, 0x20, 8),
    (0x10810, 0x20, 8), (0x10908, 4, 1), (0x10910, 4, 2), (0x20000, 4, 32), (0x20080, 4, 4), (0x21000, 4, 512), (0x21800, 4, 512),
    (0x40000, 4, 1), (0x40010, 4, 4), (0x4002C, 4, 2), (0x50000, 4, 16384), (0x60000, 4, 4), (0x60100, 4, 1), (0x6010C, 4, 1),
    (0x70000, 4, 2), (0x70010, 16, 8), (0x70014, 16, 8), (0x70100, 4, 3), (0x70140, 4, 14), (0x70204, 8, 16), (0x80000, 4, p.beds),
    (0x81000, 4, p.leaves), (0x82000, 4, p.pans), (0x84000, 4, p.pans), (0x86000, 4, p.pans), (0x88004, 4, 1)]

/-- The registers of the management port that take writes (Table 18.8). -/
def mgWrites : List (Nat × Nat × Nat) := [(0x100, 4, 2), (0x10C, 4, 1), (0x120, 4, 1), (0x140, 4, 1), (0x504, 4, 2)]

/-- Its other registers that read. -/
def mgReads (p : Part) : List (Nat × Nat × Nat) := [(0x000, 4, 2), (0x108, 4, 1), (0x300, 4, 2), (0x400, 4, p.beds), (0x500, 4, 1), (0x510, 4, 8)]

/-! ### Where a command acts -/

/-- The sheet, row and slot that a SEQ and a slot number name: the sheet, the row's index, the slot's place in the row, the row, the
slot. -/
def located (s : State) (seq slot : Nat) : Option (Sheet × Nat × Nat × Row × Slot) :=
  match flightSheet s seq with
  | none => none
  | some x =>
    match x.slotAt slot with
    | none => none
    | some (i, p) =>
      match x.rows[i]? with
      | none => none
      | some r => (r.slots[p]?).map fun sl => (x, i, p, r, sl)

/-- Row `i` of the sheet with a SEQ. -/
def rowOf (s : State) (seq i : Nat) : Option Row := (flightSheet s seq).bind fun x => x.rows[i]?

/-- Slot `p` of row `i` of the sheet with a SEQ. -/
def slotOf (s : State) (seq i p : Nat) : Option Slot := (rowOf s seq i).bind fun r => r.slots[p]?

/-- Sheets in flight have different SEQs. -/
def seqsDiffer (s : State) : Prop := (s.pipe.flight.map (·.seq)).Nodup

/-- The byte at an offset of a pan's region, and the parity of a bed there: its spare's byte is the XOR of its members' (R78). -/
def parityAt (s : State) (b off : Nat) : Prop :=
  brineByte s (17 * b + 16) off = (List.range 16).foldl (fun a m => a ^^^ brineByte s (17 * b + m) off) 0

/-! ### Records and flits (13_reach_fabric.md) -/

/-- A sequenced flit of type `ty` and channel `vc` that link `l` accepts: the link listens, CRC and codewords are good, and its SEQ is the
next one (R252 to R257). -/
def flitIn (s : State) (l ty vc : Nat) (training : Bool) (h : FlitHdr) : Prop :=
  l < 8 ∧ s.reach.links.length = 8 ∧ listens s l training = true ∧ flitGood h = true ∧ h.type = ty ∧ h.vc = vc ∧
    (linkAt (headerIn l h (countCoding l h s)) l).phase ≠ .down ∧ h.seq = (linkAt (headerIn l h (countCoding l h s)) l).rxSeq

/-- The state once such a flit's header has been taken and acknowledged, before what it carries takes effect. -/
def accepted (s : State) (l vc : Nat) (h : FlitHdr) : State :=
  sendIdle l false (acceptFlit l vc (headerIn l h (countCoding l h s)))

/-- The state once the flits of a record stream have arrived. -/
def streamed (s : State) (l vc : Nat) (hs : List FlitHdr) : State :=
  hs.foldl (streamIn l (if vc = 1 then 0x10 else 0x11) vc) s

/-- A record of one KIND and length stands whole at the front of its channel's bytes once the flits `hs` have arrived (R257). -/
def recordReady (s : State) (l vc kind len : Nat) (hs : List FlitHdr) (r : RecHdr) (content : Option (List Byte)) : Prop :=
  l < 8 ∧ s.reach.links.length = 8 ∧ listens s l false = true ∧ r.kind = kind ∧ r.len = len ∧
    recordWhole ((linkAt (streamed s l vc hs) l).stream.getD vc []) r content = true

/-- The state once such a record has been taken from its stream, before it takes effect. -/
def taken (s : State) (l vc : Nat) (hs : List FlitHdr) (r : RecHdr) : State :=
  updLink l (fun k => { k with
    stream := k.stream.set vc (afterRecord (((linkAt (streamed s l vc hs) l).stream.getD vc []).drop (8 + r.len))) }) (streamed s l vc hs)

/-- What the link carries next can leave at once: nothing waits, and there is a credit and replay space for channel 0. -/
def clearToSend (s : State) (l : Nat) : Prop :=
  (linkAt s l).phase = .up ∧ (linkAt s l).queue = [] ∧ 0 < (linkAt s l).credits.getD 0 0 ∧ (linkAt s l).replay.length < 1024

/-- A remote child keeps nothing of the domain but its address. -/
def lostChild (s u : State) (k : Nat) : Prop :=
  (childSt u k).phase = .lost ∧ (childSt u k).tokens = [] ∧ u.events.pending.getLsbD 55 = true ∧
    u.cb.domLosses = min 0xFFFF (s.cb.domLosses + 1) ∧ u.weights.wLive = s.weights.wLive

/-! ### Invariants -/

/-- The sources that some target holds. -/
def stacked (e : Events) : List Nat := (e.targets.flatMap (·.stack)).map Prod.fst

/-- The event controller's invariant (R301, R306 to R308): 8 targets and 32 inputs; source 0 is never pending and never active and always
blocked; on each stack the priorities rise strictly toward the top and are PRIO values; no source is held twice, and the active
sources are exactly the held ones. -/
def EventsOk (e : Events) : Prop :=
  e.targets.length = 8 ∧ e.inputs.length = 32 ∧ e.pending.getLsbD 0 = false ∧ e.mask.getLsbD 0 = true ∧ e.active.getLsbD 0 = false ∧
    (∀ x ∈ e.targets, x.stack.Pairwise (fun a b => b.2 < a.2) ∧ ∀ p ∈ x.stack, p.2 ≤ 15) ∧ (∀ q ∈ e.cfg, q.2.2 ≤ 15) ∧
    (stacked e).Nodup ∧ ∀ k, e.active.getLsbD k = true ↔ k ∈ stacked e

/-- Brine-store memory has its canonical form. -/
def MemoryOk (s : State) : Prop := spWf 0 s.brine.mem = true

/-- What every step keeps. -/
def Inv (s : State) : Prop := EventsOk s.events ∧ MemoryOk s

end Sys2Proof.Safety
end

