-- ==== Sys2Proof/Certificates/Slice0/Obligations.lean ====
section
/-!
DEFINITION. The statements for the provers, by chapter of the spec. A statement whose conclusion is an equation `exec c s = .next u` says
both what the command does and, since `u` is `s` with named fields replaced, what it leaves alone.
-/

open Sys2Proof Sys2Proof.Machine Sys2Proof.Safety

/-! ### The queue -/

/-- A step takes the command at the front of the queue and runs it on the state with the queue's rest; on an empty queue one
nanosecond of the oscillator passes, and in HOLDOVER a tick of a counting tide with it (the second clause is the model's choice, log
entry 3). -/
def Obligations.StepRunsFrontCommand : Prop :=
  (∀ (c : Instr) (rest : List Instr) (s : State),
    step { s with pending := c :: rest } = exec c { s with pending := rest }) ∧
  (∀ s : State, s.pending = [] → s.power.aoUp = true →
    ∃ u, step s = .next u ∧ OnlyChanges [.tide, .cb] s u ∧ { u.cb with egressStall := s.cb.egressStall } = s.cb ∧
      u.tide = { s.tide with
        osc := s.tide.osc + 1
        count := s.tide.count +
          (if s.tide.phase = .holdover ∧ (s.tide.follower = false ∨ s.tide.measured = true) then 1 else 0) })

/-! ### The event controller (15_events.md) -/

/-- R306 and Tables 15.2 and 15.3: a claim that succeeds returns the offered source and, in one step, clears its pending bit, sets its
active bit and pushes it with its priority; in every other case the read returns 0 and changes nothing but the response. That the
interrupt line falls at once, the moment that is noted, and that an offer that is withdrawn or taken is no offer until the next
arbitration are log entries 120 and 149. -/
def Obligations.ClaimTakesOffer : Prop :=
  ∀ (s : State) (t : Nat), s.power.logicOn = true → t < 8 →
    let e := s.events
    let n := (evTarget e t).offer
    let c := srcCfg e n
    let ok := n ≠ 0 ∧ e.pending.getLsbD n = true ∧ e.mask.getLsbD n = false ∧ e.active.getLsbD n = false ∧
      bitOf c.1 t = true ∧ (evTarget e t).en = true ∧ ((evTarget e t).sleep = false ∨ e.wake.getLsbD n = true) ∧
      e.withdrawn.getLsbD n = false ∧ ∀ m p r, (evTarget e t).stack = (m, p) :: r → p < c.2
    (ok → exec (.evClaim t) s = .next { s with
        resp := some ⟨false, word n, false⟩
        events := { e with
          pending := setSrc e.pending n false
          active := setSrc e.active n true
          withdrawn := e.withdrawn ||| setSrc 0 n true
          targets := e.targets.modify t fun x => { x with stack := (n, c.2) :: x.stack, lastClaim := s.tide.osc, irq := false } } }) ∧
    (¬ok → exec (.evClaim t) s = .next { s with resp := some ⟨false, 0#32, false⟩ })

/-- R307 and R308: a completion of the source at the top pops it and clears its active bit, so that it is eligible again when it is
pending and not masked; any other source is a stack fault that leaves the stack; a write of 0 is ignored; a FLUSH empties the stack and
clears the active bits of what it held; a write of a source's EV_SRC_CFG leaves every stack, with the priorities that it recorded. -/
def Obligations.CompletionPopsTop : Prop :=
  ∀ (s : State) (t : Nat) (v : Word), s.power.logicOn = true → t < 8 → s.events.targets.length = 8 →
    let e := s.events
    let n := v.toNat % 256
    let stack := (evTarget e t).stack
    (n = 0 → exec (.evComplete t v) s = .next { s with resp := some ⟨false, 0#32, false⟩ }) ∧
    (∀ p r, n ≠ 0 → stack = (n, p) :: r →
      let popped := { e with
          active := setSrc e.active n false
          targets := e.targets.modify t fun x => { x with stack := r } }
      exec (.evComplete t v) s = .next { s with resp := some ⟨false, 0#32, false⟩, events := popped } ∧
        eligible popped n = (e.pending.getLsbD n && !e.mask.getLsbD n)) ∧
    (n ≠ 0 → (∀ p r, stack ≠ (n, p) :: r) → exec (.evComplete t v) s = .next { s with
        resp := some ⟨false, 0#32, false⟩
        events := { e with
          pending := setSrc e.pending 65 true
          targets := e.targets.modify t fun x => { x with
            faultValid := true, faultCount := min 0x7F (x.faultCount + 1)
            faultTop := (stack.map Prod.fst).headD 0, faultWritten := n } } }) ∧
    (v.getLsbD 30 = true → ∃ u, exec (.flush t v) s = .next u ∧ OnlyChanges [.events, .resp] s u ∧
        (evTarget u.events t).stack = [] ∧
        (∀ k, u.events.active.getLsbD k = (e.active.getLsbD k && !(stack.map Prod.fst).contains k)) ∧
        u.events.pending = e.pending ∧ u.events.mask = e.mask ∧ ∀ k, k ≠ t → evTarget u.events k = evTarget e k) ∧
    ∀ k, k < 256 → ∃ u, exec (.registerWrite false (0x10400 + 4 * k) 4 v) s = .next u ∧ OnlyChanges [.events, .resp] s u ∧
      u.events.targets = e.targets

/-- R301: the W1S and W1C aliases set and clear exactly the written bits of their word, and bit 0 of word 0 keeps reading 0 in
EV_PENDING and 1 in EV_MASK. What a source cleared or masked, and a target that falls asleep, withdraw of an offer is log entry 149.
R305 and R309: when the moderation time of a busy target has passed, its interrupt line rises for the offer in force; SLEEP
follows its level, and its fall ends WAKE. -/
def Obligations.EventWordsAndLines : Prop :=
  (∀ (s : State) (w : Nat) (v : Word), s.power.logicOn = true → w < 8 →
     let hit (k : Nat) : Bool := decide (k / 32 = w) && v.getLsbD (k % 32)
     let changes (c : Instr) (withdraws : Bool) (pend mask : Nat → Bool) : Prop :=
       ∃ u, exec c s = .next u ∧ OnlyChanges [.events, .resp] s u ∧
         (∀ k, 0 < k → k < 256 → u.events.pending.getLsbD k = pend k ∧ u.events.mask.getLsbD k = mask k) ∧
         (∀ k, k < 256 → u.events.withdrawn.getLsbD k = (s.events.withdrawn.getLsbD k || withdraws && hit k)) ∧
         { u.events with pending := s.events.pending, mask := s.events.mask, withdrawn := s.events.withdrawn } = s.events
     changes (.evPendingSet w v) false (fun k => s.events.pending.getLsbD k || hit k) s.events.mask.getLsbD ∧
     changes (.evPendingClr w v) true (fun k => s.events.pending.getLsbD k && !hit k) s.events.mask.getLsbD ∧
     changes (.evMaskSet w v) true s.events.pending.getLsbD (fun k => s.events.mask.getLsbD k || hit k) ∧
     changes (.evMaskClr w v) false s.events.pending.getLsbD (fun k => s.events.mask.getLsbD k && !hit k) ∧
     (∀ u, (exec (.evPendingSet 0 v) s = .next u ∨ exec (.evPendingClr 0 v) s = .next u) → u.events.pending.getLsbD 0 = false) ∧
     (∀ u, (exec (.evMaskSet 0 v) s = .next u ∨ exec (.evMaskClr 0 v) s = .next u) → u.events.mask.getLsbD 0 = true)) ∧
  (∀ (s : State) (t : Nat), t < 8 → s.events.targets.length = 8 →
     let x := evTarget s.events t
     (s.power.logicOn = true → x.modTime ≠ 0 → x.stack ≠ [] → x.offer ≠ 0 → x.lastClaim + 10 * x.modTime ≤ s.tide.osc →
       exec (.evModerationEnd t) s =
         .next { s with events := { s.events with targets := s.events.targets.set t { x with irq := true } } }) ∧
     (∀ level : Bool, s.power.aoUp = true →
       exec (.sleepChange t level) s = .next { s with events := { s.events with
         targets := s.events.targets.set t { x with sleep := level, wakeOut := if level then x.wakeOut else false }
         withdrawn := if level && !s.events.wake.getLsbD x.offer then s.events.withdrawn ||| setSrc 0 x.offer true
           else s.events.withdrawn } }))

/-- R303: an eligible source is routed to a candidate such that no candidate has a lower running priority, nor the same one and a lower
number; a source with no candidate stays pending and is routed nowhere.
R304: after an arbitration a target's offer is the source routed to it with the highest PRIO, the lower source on a tie, and 0 when
nothing is routed to it. Every offer is made afresh (log entry 149); the line of a target without an offer is low (log entry 120). -/
def Obligations.ArbitrationOffersBest : Prop :=
  ∀ s : State, s.power.logicOn = true → s.events.targets.length = 8 →
    let candidate (n t : Nat) : Prop :=
      bitOf (srcCfg s.events n).1 t = true ∧ (evTarget s.events t).en = true ∧
      (∀ m p r, (evTarget s.events t).stack = (m, p) :: r → p < (srcCfg s.events n).2) ∧
      ((evTarget s.events t).sleep = false ∨ s.events.wake.getLsbD n = true)
    let eligibleNow (n : Nat) : Prop :=
      s.events.pending.getLsbD n = true ∧ s.events.mask.getLsbD n = false ∧ s.events.active.getLsbD n = false
    (∀ n t, (n, t) ∈ routes s.events ↔
      n < 256 ∧ eligibleNow n ∧ t < 8 ∧ candidate n t ∧
        ∀ k, k < 8 → candidate n k →
          runPrio (evTarget s.events t) < runPrio (evTarget s.events k) ∨
            (runPrio (evTarget s.events t) = runPrio (evTarget s.events k) ∧ t ≤ k)) ∧
    ∃ u, exec .evArbitrate s = .next u ∧ OnlyChanges [.events] s u ∧
      u.events.pending = s.events.pending ∧ u.events.mask = s.events.mask ∧ u.events.active = s.events.active ∧
      u.events.withdrawn = 0 ∧
      ∀ t, t < 8 →
        (evTarget u.events t).stack = (evTarget s.events t).stack ∧
        ((∀ n, (n, t) ∉ routes s.events) → (evTarget u.events t).offer = 0 ∧ (evTarget u.events t).irq = false) ∧
        (∀ n, 0 < n → (n, t) ∈ routes s.events →
          ((n = (evTarget u.events t).offer) ↔ ∀ m, 0 < m → (m, t) ∈ routes s.events →
            (srcCfg s.events m).2 < (srcCfg s.events n).2 ∨ ((srcCfg s.events m).2 = (srcCfg s.events n).2 ∧ n ≤ m)))

/-- R299 and R300, with the logic domain up: a rising level that does not complete a chatter, CHATTER being 0 or above the transitions of
the last 10 µs, starts its pulse, or is merged in the hold-off; a level that falls before
MIN_PULSE is rejected; one that has stayed high for MIN_PULSE ns sets its pending bit unless the input is quarantined, and
starts the hold-off; the hold-off ends; a level held for STUCK_MS ms quarantines the input and raises STUCK, and so does
chatter: CHATTER rising transitions within 10 µs; a write of 1 releases it. Which transitions count, and that a quarantine is raised
once, is log entry 119. -/
def Obligations.ExternalInputs : Prop :=
  ∀ (s : State) (n : Nat), n < 32 → s.power.aoUp = true → s.power.logicOn = true → s.power.st = .on → s.events.inputs.length = 32 →
    let i := extInput s.events n
    let now := s.tide.osc
    let recent := i.rises.filter fun t => decide (now < t + 10000)
    let quiet := s.events.chatLimit = 0 ∨ recent.length + 1 < s.events.chatLimit
    (quiet → i.raw = s.events.inv.getLsbD n → i.hold = none →
      ∃ u, exec (.extInputChange n (!i.raw)) s = .next u ∧ OnlyChanges [.events] s u ∧ u.events.pending = s.events.pending ∧
        (extInput u.events n).rise = some now ∧ (extInput u.events n).high = some now ∧ (extInput u.events n).raw = !i.raw ∧
        (extInput u.events n).rises = now :: recent ∧ u.events.quar = s.events.quar ∧ u.events.chat = s.events.chat ∧
        u.events.merged = s.events.merged ∧ ∀ k, k ≠ n → extInput u.events k = extInput s.events k) ∧
    (∀ h, quiet → i.raw = s.events.inv.getLsbD n → i.hold = some h → now < h →
      ∃ u, exec (.extInputChange n (!i.raw)) s = .next u ∧ OnlyChanges [.events] s u ∧ u.events.pending = s.events.pending ∧
        (extInput u.events n).rise = none ∧ (extInput u.events n).rises = now :: recent ∧ u.events.quar = s.events.quar ∧
        u.events.chat = s.events.chat ∧ u.events.merged = min 0xFFFF (s.events.merged + 1)) ∧
    (∀ t, i.raw ≠ s.events.inv.getLsbD n → i.rise = some t → now < t + s.events.minPulse →
      ∃ u, exec (.extInputChange n (!i.raw)) s = .next u ∧ OnlyChanges [.events] s u ∧ u.events.pending = s.events.pending ∧
        (extInput u.events n).rise = none ∧ u.events.rejected = min 0xFFFF (s.events.rejected + 1)) ∧
    (∀ t, i.rise = some t → t + s.events.minPulse ≤ now →
      ∃ u, exec (.extPulseAccept n) s = .next u ∧ OnlyChanges [.events] s u ∧ (extInput u.events n).rise = none ∧
        (extInput u.events n).hold = (if s.events.holdoff = 0 then none else some (t + s.events.minPulse + s.events.holdoff)) ∧
        u.events.pending =
          (if s.events.quar.getLsbD n then s.events.pending else setSrc s.events.pending (n + 1) true)) ∧
    (∀ h, i.hold = some h → h ≤ now →
      exec (.extHoldoffEnd n) s = .next { s with events := { s.events with
        inputs := s.events.inputs.set n { i with hold := none } } }) ∧
    (∀ t, i.raw ≠ s.events.inv.getLsbD n → s.events.quar.getLsbD n = false → i.high = some t →
      t + 1000000 * s.events.stuckMs ≤ now →
      ∃ u, exec (.extStuck n) s = .next u ∧ OnlyChanges [.events] s u ∧ u.events.quar.getLsbD n = true ∧
        u.events.chat.getLsbD n = false ∧ u.events.pending = setSrc s.events.pending 66 true) ∧
    (i.raw = s.events.inv.getLsbD n → s.events.quar.getLsbD n = false → s.events.chatLimit ≠ 0 →
      s.events.chatLimit ≤ recent.length + 1 →
      ∃ u, exec (.extInputChange n (!i.raw)) s = .next u ∧ OnlyChanges [.events] s u ∧ u.events.quar.getLsbD n = true ∧
        u.events.chat.getLsbD n = true ∧ u.events.pending = setSrc s.events.pending 66 true ∧
        ∀ k, k ≠ n → extInput u.events k = extInput s.events k) ∧
    (∀ v : Word, ∃ u, exec (.evExtQuarRelease v) s = .next u ∧ OnlyChanges [.events, .resp] s u ∧
        u.events.quar = s.events.quar &&& ~~~v ∧ u.events.pending = s.events.pending ∧
        (s.events.quar.getLsbD n = true → v.getLsbD n = true →
          (extInput u.events n).rise = none ∧
          (extInput u.events n).high = if i.raw ≠ s.events.inv.getLsbD n then some now else none))

/-! ### The black box (14_faults.md) -/

/-- R292, R294 and R295: while the recorder is not frozen and its queue takes another record, a write of BB_MARK appends a SW_MARK record
with the value, and a FREEZE its own record; in a full ring the oldest of the 8,192 records gives way. A frozen recorder, or a full queue,
takes no record and counts it in LOST. A FREEZE while the recorder is not posting is a trigger: with POST 0 it freezes the recorder and
raises BB_FROZEN, else POST further records are to come; while it is posting, each record, a FREEZE too, is one of those, and the last
freezes it. So does a record of a kind in a group that TRIG names, and no other, whichever command writes it, the loss of the tide among
them. REARM clears what a freeze left and keeps every record; MG_BB_SEL latches the 32 bytes of the record it names, zeros at or above
RETAINED. That one write sets POST and TRIG before it freezes or rearms is log entry 18, how records drain from the queue log entry 117,
which records POST counts log entry 118, what a loss of the tide is log entry 86. -/
def Obligations.BlackBoxCommands : Prop :=
  (∀ (s : State) (v : Word),
    let b := s.bb
    let rec_ (kind : Nat) (arg : Word) : BbRec := ⟨s.tide.count, b.recno + 1, kind, 0, 0, 0xFFFFFFFF#32, arg, 0#32, false⟩
    let room := b.frozen = false ∧ b.freeAt ≤ s.tide.osc + 128 ∧ b.ring.length ≤ 8192
    let wrote (kind : Nat) (arg : Word) : BlackBox := { b with
      ring := (if b.ring.length = 8192 then b.ring.drop 1 else b.ring) ++ [rec_ kind arg], recno := b.recno + 1
      freeAt := max b.freeAt s.tide.osc + 2 }
    let up (mg : Bool) := (if mg then s.power.aoUp else s.power.logicOn) = true
    let ends (mg froze : Bool) (x : BlackBox) : State := { s with
      resp := some ⟨mg, 0#32, false⟩, bb := x
      events := if froze then { s.events with pending := setSrc s.events.pending 63 true } else s.events }
    let ctl (x : BlackBox) : BlackBox := { x with post := bitsOf v.toNat 25 13, trig := bitsOf v.toNat 3 0 }
    let frozen (x : BlackBox) : BlackBox := { x with frozen := true, posting := false, postLeft := 0 }
    (s.power.logicOn = true → room →
      (b.posting = false → exec (.swMark v) s = .next (ends false false (wrote 0x42 v))) ∧
      (b.posting = true → 1 < b.postLeft →
        exec (.swMark v) s = .next (ends false false { wrote 0x42 v with postLeft := b.postLeft - 1 })) ∧
      (b.posting = true → b.postLeft ≤ 1 → exec (.swMark v) s = .next (ends false true (frozen (wrote 0x42 v))))) ∧
    (s.power.logicOn = true → b.frozen = true ∨ s.tide.osc + 128 < b.freeAt →
      exec (.swMark v) s = .next (ends false false { b with lost := min 0xFF (b.lost + 1) })) ∧
    (∀ mg : Bool, up mg → v.getLsbD 31 = false → v.getLsbD 30 = true →
      (room → b.posting = false → bitsOf v.toNat 25 13 = 0 →
        exec (.freeze mg v) s = .next (ends mg true { frozen (ctl (wrote 0x41 0#32)) with trigKind := 0x41 })) ∧
      (room → b.posting = false → bitsOf v.toNat 25 13 ≠ 0 →
        exec (.freeze mg v) s = .next (ends mg false { ctl (wrote 0x41 0#32) with
          posting := true, postLeft := bitsOf v.toNat 25 13, trigKind := 0x41 })) ∧
      (room → b.posting = true → 1 < b.postLeft →
        exec (.freeze mg v) s = .next (ends mg false { ctl (wrote 0x41 0#32) with postLeft := b.postLeft - 1 })) ∧
      (room → b.posting = true → b.postLeft ≤ 1 → exec (.freeze mg v) s = .next (ends mg true (frozen (ctl (wrote 0x41 0#32))))) ∧
      (b.frozen = true → exec (.freeze mg v) s = .next (ends mg false { ctl b with lost := min 0xFF (b.lost + 1) }))) ∧
    (∀ mg : Bool, up mg → v.getLsbD 31 = true → v.getLsbD 30 = false →
      exec (.rearm mg v) s = .next { s with
        resp := some ⟨mg, 0#32, false⟩
        bb := { b with
          frozen := false, posting := false, postLeft := 0, trigKind := 0, lost := 0
          post := bitsOf v.toNat 25 13, trig := bitsOf v.toNat 3 0 } }) ∧
    (s.power.aoUp = true →
      ∃ u, exec (.mgBbSel v) s = .next u ∧ OnlyChanges [.bb, .resp] s u ∧ u.bb.ring = b.ring ∧ u.bb.sel = v.toNat % 8192 ∧
        u.bb.words.length = 8 ∧
        (∀ r, b.ring[v.toNat % 8192]? = some r → u.bb.words.flatMap (fun w => leBytes 4 w.toNat) = bbBytes r) ∧
        (b.ring.length ≤ v.toNat % 8192 → u.bb.words = List.replicate 8 0#32))) ∧
  (∀ (s : State) (kind unitType unit : Nat) (seq arg0 arg1 : Word), s.bb.frozen = false → s.bb.posting = false →
    s.bb.freeAt ≤ s.tide.osc + 128 →
    let on (i : Nat) (kinds : List Nat) : Prop := bitOf s.bb.trig i = true ∧ kind ∈ kinds
    let triggers := kind = 0x41 ∨ on 0 [0x25, 0x27, 0x29] ∨ on 1 [0x2A] ∨ on 2 [0x11, 0x12, 0x13, 0x14, 0x16, 0x17] ∨
      on 3 [0x30, 0x32, 0x34, 0x35, 0x37]
    let t := bbRecord kind unitType unit seq arg0 arg1 s
    OnlyChanges [.bb, .events] s t ∧ t.bb.recno = s.bb.recno + 1 ∧
      t.bb.ring.getLast? = some ⟨s.tide.count, s.bb.recno + 1, kind, unitType, unit, seq, arg0, arg1, false⟩ ∧
      (¬triggers → t.events = s.events ∧ t.bb.frozen = false ∧ t.bb.posting = false ∧ t.bb.trigKind = s.bb.trigKind) ∧
      (triggers → t.bb.trigKind = kind ∧
        (s.bb.post = 0 → t.bb.frozen = true ∧ t.bb.posting = false ∧
          t.events = { s.events with pending := setSrc s.events.pending 63 true }) ∧
        (s.bb.post ≠ 0 → t.bb.frozen = false ∧ t.bb.posting = true ∧ t.bb.postLeft = s.bb.post ∧ t.events = s.events))) ∧
  ∀ s : State, s.power.aoUp = true → s.tide.refOk = true → s.tide.lastEdge + 16 ≤ s.tide.osc → s.bb.frozen = false → s.bb.posting = false →
    s.bb.freeAt ≤ s.tide.osc + 128 → s.bb.post = 0 →
    ∃ u, exec .tideLost s = .next u ∧ OnlyChanges [.tide, .events, .bb] s u ∧
      (bitOf s.bb.trig 3 = true → u.bb.frozen = true ∧ u.bb.trigKind = 0x37 ∧ u.events.pending.getLsbD 63 = true) ∧
      (bitOf s.bb.trig 3 = false → u.bb.frozen = false ∧ u.bb.trigKind = s.bb.trigKind)

/-! ### The tide (12_determinism.md) -/

/-- R244, R246 and R247: a reference edge advances a counting tide by 1, or by what the slew in force gives it (Table 12.5); when no
edge has come for 16 ns the engine enters HOLDOVER and raises TIDE_LOST; a calibration is noted every 65,536 ticks; each read
of a low half latches the high half of the same value in its latch register: of the tide here, of a context's epoch under R209 of
10_contexts_and_packets.md. What one edge and the moment of a loss are is the model's reading (log entries 84 and 86).
R248, and R337 of 17_integration.md: a write of EN = 1 latches the gate count; the gate opens when the tide is at or above it, or at
once on a write of EN = 0: EN clears, OPENED rises by 1 and GATE_OPEN is raised. That an opening by EN = 0 counts and raises its event
like any other is log entry 90. -/
def Obligations.TideAndGate : Prop :=
  (∀ s : State,
     let t := s.tide
     (s.power.aoUp = true → (t.follower = false ∨ t.measured = true) →
       ∃ u, exec .tideTick s = .next u ∧ OnlyChanges [.tide, .cb] s u ∧ { u.cb with egressStall := s.cb.egressStall } = s.cb ∧
         u.tide.osc = t.osc + 1 ∧ u.tide.lastEdge = t.osc + 1 ∧ u.tide.refOk = true ∧ u.tide.phase ≠ .holdover ∧
         u.tide.count = t.count + (match t.slew with
           | .none => 1
           | .extra => if t.slewEdges < 15 then 1 else 2
           | .withhold => if t.slewEdges < 15 then 1 else 0
           | .half => if t.slewEdges = 0 then 0 else 1)) ∧
     (s.power.aoUp = true → t.refOk = true → t.lastEdge + 16 ≤ t.osc →
       ∃ u, exec .tideLost s = .next u ∧ OnlyChanges [.tide, .events, .bb] s u ∧
         u.tide = { t with refOk := false, phase := .holdover } ∧ u.events.pending.getLsbD 59 = true) ∧
     (s.power.aoUp = true → t.refOk = true → t.calibrateAt + 65536 ≤ t.count.toNat →
       exec .oscCalibrate s = .next { s with tide := { t with calibrated := true, calibrateAt := t.count.toNat } }) ∧
     (s.power.logicOn = true →
       exec .tideLoRead s = .next { s with
         resp := some ⟨false, t.count.setWidth 32, false⟩, tide := { t with hiLatch := (t.count >>> 32).setWidth 32 } }) ∧
     (∀ c, s.power.logicOn = true → c < 512 →
       exec (.ctxEpochLoRead c) s = .next { s with
         resp := some ⟨false, (ctxAt s c).epoch.setWidth 32, false⟩
         pipe := { s.pipe with epochLatch := ((ctxAt s c).epoch >>> 32).setWidth 32 } })) ∧
  (∀ (s : State) (v : Word), s.power.logicOn = true →
     let opened (u : State) : State := { u with
       tide := { s.tide with gateEn := false, gateOpened := s.tide.gateOpened + 1 }
       events := { s.events with pending := setSrc s.events.pending 70 true } }
     (v.getLsbD 31 = true →
       exec (.gateLatch v) s = .next { s with
         resp := some ⟨false, 0#32, false⟩
         tide := { s.tide with gateEn := true, gateCount := (s.soft.gateHi ++ s.soft.gateLo).toNat } }) ∧
     (v.getLsbD 31 = false → s.tide.gateEn = true →
       exec (.gateRelease v) s = .next (opened { s with resp := some ⟨false, 0#32, false⟩ })) ∧
     (s.tide.gateEn = true → s.tide.gateCount ≤ s.tide.count.toNat → exec .gateOpen s = .next (opened s)) ∧
     (s.tide.gateEn = true → s.tide.count.toNat < s.tide.gateCount → exec .gateOpen s = .next s))



/-! ### Supplies, power states and start-up (17_integration.md) -/

/-- R22, R23, R339 and R351: a pace measurement is stored and copied to MG_PACE; a request for another operating
point starts a ramp, or, in place of any queued before it, is queued behind the one in progress; a request for the point in force starts
none; at its end the point is in force and a queued request starts. -/
def Obligations.OperatingPoints : Prop :=
  ∀ (s : State) (v : Word) (pace : BitVec 16) (tj : BitVec 8) (o q : OpPoint),
    s.power.logicOn = true → s.power.aoUp = true →
    (s.power.paceAt + 1024 ≤ s.tide.count.toNat →
      ∃ u, exec (.paceUpdate pace tj) s = .next u ∧ OnlyChanges [.power] s u ∧ u.power.paceValid = true ∧ u.power.pace = pace ∧
        u.power.tj = tj ∧ u.power.paceAt = s.tide.count.toNat ∧ u.power.mgPaceStale = false ∧ u.power.cur = s.power.cur ∧
        u.power.mgPace.toNat = (ctlPace u).toNat % 2 ^ 26 + 2 ^ 31) ∧
    (opPointOf (v.toNat % 4) = some o → s.power.ramp = none →
      exec (.opptRequest v) s = .next { s with
        resp := some ⟨true, 0#32, false⟩
        power := { s.power with req := o, ramp := if o = s.power.cur then none else some o } }) ∧
    (opPointOf (v.toNat % 4) = some o → s.power.ramp = some q →
      exec (.opptRequest v) s = .next { s with
        resp := some ⟨true, 0#32, false⟩, power := { s.power with req := o, rampQueued := some o } }) ∧
    (s.power.ramp = some o → s.power.rampQueued = none →
      ∃ u, exec .opptRampEnd s = .next u ∧ OnlyChanges [.power, .bb, .events] s u ∧
        u.power = { s.power with cur := o, ramp := none }) ∧
    (s.power.ramp = some o → s.power.rampQueued = some q → q ≠ o →
      ∃ u, exec .opptRampEnd s = .next u ∧ OnlyChanges [.power, .bb, .events] s u ∧
        u.power = { s.power with cur := o, ramp := some q, rampQueued := none })

/-- R340 between ON and RETAIN, with no transition in progress: a request for RETAIN withdraws the ingress credits of both ports; once
nothing past arrival is left the logic domain is in RETAIN, where it keeps everything; a request for ON leads back, and by R258 a link whose
PHY_READY fell meanwhile goes DOWN with its event. A request during a transition waits behind it. What counts as left past arrival is log
entry 111, that the last request waits log entry 110, what the return starts again log entry 112, and that an address written meanwhile is
told then log entry 161. -/
def Obligations.RetainAndReturn : Prop :=
  ∀ s : State, s.power.aoUp = true →
    let kept (u : State) : Prop := OnlyChanges [.power, .fabric, .events, .ports, .reach, .tide, .bb, .resp] s u
    (s.power.target = none → s.power.st = .on →
      ∃ u, exec .pwrRetain s = .next u ∧ OnlyChanges [.power, .ports, .resp] s u ∧ u.power.target = some .retain ∧
        u.power.reqState = .retain ∧ u.ports.p0.credit = 0 ∧ u.ports.p1.credit = 0 ∧ u.ports.out = s.ports.out) ∧
    (s.power.target = some .retain → s.power.st = .on → s.power.queued = none → drained s = true →
      ∃ u, exec .retainEnter s = .next u ∧ OnlyChanges [.power, .fabric, .events] s u ∧ u.power.st = .retain ∧
        u.power.target = none ∧ u.power.logicOn = false ∧ u.fabric.mgStale = true ∧ u.events.pending = s.events.pending ∧
        ∀ t, t < 8 → (evTarget u.events t).irq = false ∧ (evTarget u.events t).stack = (evTarget s.events t).stack) ∧
    (s.power.target = none → s.power.st = .retain →
      ∃ u, exec .pwrOn s = .next u ∧ OnlyChanges [.power, .resp] s u ∧ u.power.target = some .on ∧ u.power.reqState = .on) ∧
    (s.power.target = some .on → s.power.st = .retain → s.power.queued = none →
      ∃ u, exec .retainExitDone s = .next u ∧ u.power.st = .on ∧ u.power.target = none ∧ u.power.logicOn = true ∧
        (s.reach.addrTold = s.reach.addr → (∀ l, l < 8 → (linkAt s l).phase = .down ∨ phyAll s l = true) → kept u) ∧
        ∀ l, l < 8 → (linkAt s l).phase = .up → phyAll s l = false →
          (linkAt u l).phase = .down ∧ u.events.pending.getLsbD (33 + l) = true) ∧
    (∀ x, s.power.target = some x →
      ∃ u, exec .pwrRetain s = .next u ∧ OnlyChanges [.power, .resp] s u ∧ u.power.queued = some .retain ∧ u.power.target = some x)

/-- R311, R331, R340, R344 and Table 17.6: OFF, a logic reset and a loss of the always-on supply each return what they reset to its
reset value and keep what they keep; the version floor survives them all and only rises. A logic reset runs at the point that MG_OPPT
requests (R339, R343). What is neither domain's is log entries 115 and 116. -/
def Obligations.ResetsAndFloor : Prop :=
  ∀ (s : State) (v : Word),
    let lost (u : State) : Prop :=
      u.part = s.part ∧ u.pending = s.pending ∧ u.pipe = pipeReset ∧ u.masks = maskReset ∧ u.fn = fnReset ∧ u.brine = brineReset ∧
      u.weights = weightsReset ∧ u.adapters = adaptersReset ∧ u.image = imageReset ∧ u.soft = softReset ∧ u.ca = countersAReset ∧
      u.cb = countersBReset ∧ u.fabric.beds = [] ∧ u.fabric.pans = [] ∧ u.fabric.cells = [] ∧ u.power.imgFloor = s.power.imgFloor
    (s.power.aoUp = true → s.power.target = none → s.power.st ≠ .off →
      ∃ u, exec .pwrOff s = .next u ∧ lost u ∧ u.power.st = .off ∧ u.power.logicOn = false ∧ u.tide.count = s.tide.count ∧
        u.reach.addr = s.reach.addr ∧ u.bb = s.bb ∧ u.events.pending = s.events.pending ∧ u.events.mask = s.events.mask ∧
        u.events.active = s.events.active) ∧
    (s.power.aoUp = true → s.power.logicOn = true → v.getLsbD 31 = true →
      ∃ u, exec (.mgReset v) s = .next u ∧ lost u ∧ u.power.logicOn = true ∧ u.power.bootSteps = [2] ∧ u.power.ready = false ∧
        u.power.cur = s.power.req ∧
        u.tide.count = s.tide.count ∧ u.reach.addr = s.reach.addr ∧ u.bb = s.bb ∧ u.events.mask = s.events.mask ∧
        u.events.active = s.events.active) ∧
    (s.power.aoUp = false →
      ∃ u, exec .alwaysOnSupplyUp s = .next u ∧ lost u ∧ u.power.aoUp = true ∧ u.power.st = .off ∧ u.power.logicOn = false ∧
        u.tide = tideReset ∧ u.bb = bbReset ∧ u.events.pending = 0 ∧ u.events.mask = BitVec.allOnes 256 ∧ u.events.active = 0 ∧
        u.reach.addr = none) ∧
    (∀ torn, s.power.aoUp = true →
      ∃ u, exec (.alwaysOnSupplyLoss torn) s = .next u ∧ lost u ∧ u.power.aoUp = false ∧ u.power.logicOn = false ∧
        u.bb.recno = 0 ∧ u.bb.ring.length ≤ 1 ∧ (torn = false → u.bb = bbReset) ∧
        u.events.pending = 0 ∧ u.events.mask = BitVec.allOnes 256 ∧ u.events.active = 0) ∧
    (s.power.aoUp = true →
      exec (.mgImgFloor v) s = .next { s with
        resp := some ⟨true, 0#32, false⟩
        power := { s.power with imgFloor := if s.power.imgFloor.toNat < v.toNat then v else s.power.imgFloor } })

/-- R343 and Table 17.4: with the supplies good, step 1 begins with reset held; its end releases reset and begins step 2; step 2
begins steps 3 and 5; step 4 follows step 3; once 4 and 5 have ended step 6 begins; its end sets READY. A pan that fails its start-up
probe is fenced and counted in FENCED (R345) unless it was fenced before; a head tile that fails its test halts the engine. That the
model learns the end of each step from a command is log entry 114. -/
def Obligations.StartUpSequence : Prop :=
  ∀ s : State, s.power.aoUp = true →
    let ends (n : Nat) (failing : List (UnitId × Nat)) (u : State) : Prop :=
      exec (.bootStepEnd ⟨n, failing, true⟩) s = .next u
    (s.power.st = .off → s.power.resetHeld = false → s.power.reqState = .on →
      exec .powerGood s = .next { s with power := { s.power with
        resetHeld := true, bootSteps := [1], target := some .on, cur := s.power.req, ramp := none, rampQueued := none } }) ∧
    (s.power.bootSteps = [1] → s.power.queued = none →
      ∃ u, ends 1 [] u ∧ u.power.logicOn = true ∧ u.power.st = .on ∧ u.power.target = none ∧ u.power.bootSteps = [2] ∧
        u.power.resetHeld = false ∧ u.pipe = pipeReset ∧ u.image = imageReset ∧ u.tide.count = s.tide.count ∧
        u.power.cur = s.power.req) ∧
    (s.power.st = .on → s.power.bootSteps = [2] → ends 2 [] { s with power := { s.power with bootSteps := [3, 5] } }) ∧
    (s.power.st = .on → s.power.bootSteps = [3, 5] → ends 3 [] { s with power := { s.power with bootSteps := [4, 5] } }) ∧
    (∀ p k, s.power.st = .on → s.power.bootSteps = [4] → p < s.part.pans →
      ∃ u, ends 4 [(.pan p, k)] u ∧ OnlyChanges [.power, .fabric] s u ∧
        u.power = { s.power with bootSteps := [6], bootFenced := if (panAt s p).fenced then 0 else 1 } ∧ (panAt u p).fenced = true ∧
        (panAt u p).failPhase = k ∧ ∀ q, q ≠ p → panAt u q = panAt s q) ∧
    (s.power.st = .on → s.power.bootSteps = [4, 5] → ends 5 [] { s with power := { s.power with bootSteps := [4] } }) ∧
    (s.power.st = .on → s.power.bootSteps = [4, 5] → s.fabric.halted = false →
      ∃ u, exec (.bootStepEnd ⟨5, [], false⟩) s = .next u ∧ u.power.bootSteps = [4] ∧ u.power.headFail = true ∧
        u.fabric.halted = true ∧ u.pipe.ctxs = s.pipe.ctxs ∧ u.weights.wLive = s.weights.wLive) ∧
    (s.power.st = .on → s.power.bootSteps = [6] →
      ∃ u, ends 6 [] u ∧ OnlyChanges [.power, .fabric, .bb, .events, .ports] s u ∧ u.power.ready = true ∧
        u.power.bootSteps = [7] ∧ u.fabric.mgStale = false ∧ u.ports.out = s.ports.out)

/-! ### Packets and contexts (10_contexts_and_packets.md) -/

/-- R186 to R188: a packet that fails its framing, or whose TYPE no inbound packet has, is answered at once, whichever packet command
brings it: a STEP packet by a RESULT packet without records and status MALFORMED, any other by a REJECT packet with MALFORMED or
UNKNOWN_TYPE, each with the packet's TAG; it is counted and has no other effect. When a packet can arrive is log entry 21; the tide
these answers carry is log entry 138, and the TAG of a packet too short to have one log entry 172. -/
def Obligations.BadFramingIsAnswered : Prop :=
  ∀ (s : State) (p : Fin 2) (bs : List Byte) (c : Instr), canArrive p.val bs s = true →
    c ∈ [Instr.step p bs, .unknownType p bs, .ctxOpen p bs, .ctxSet p bs, .ctxRead p bs, .ctxImport p bs, .ctxCancel p bs, .rows p bs,
      .seal p bs, .arm p bs, .disarm p bs, .adapterLoad p bs, .adapterRetire p bs] →
    let answered (hstatus : Nat) (body : OutBody) : Prop :=
      ∃ u, exec c s = .next u ∧ OnlyChanges [.ports, .cb] s u ∧
        u.ports.out = s.ports.out ++ [⟨p.val, BitVec.ofNat 64 (leAt bs 8 8), 0, s.tide.count, hstatus, body⟩] ∧
        u.ports.sent = s.ports.sent ∧ u.ports.held = s.ports.held ∧ u.ports.reads = s.ports.reads ∧ u.ports.order = s.ports.order ∧
        u.cb = { s.cb with malformed := min 0xFF (s.cb.malformed + 1) }
    (classifyPkt bs = .malformedStep → answered 1 (.result [])) ∧
    (classifyPkt bs = .malformed → answered 1 .reject) ∧
    (classifyPkt bs = .unknown → answered 2 .reject)

/-- R12 and R204: a STEP packet takes its place in stage 1 behind every earlier sheet, with the next SEQ; while an image is applied
it is held in arrival order instead (R328). When a packet can arrive is log entry 21. -/
def Obligations.StepTakesItsPlace : Prop :=
  ∀ (s : State) (p : Fin 2) (bs : List Byte) (rows : List (List Byte)), canArrive p.val bs s = true → classifyPkt bs = .stepPkt rows →
    (s.image.phase = 0 →
      ∃ u x, exec (.step p bs) s = .next u ∧ OnlyChanges [.ports, .pipe] s u ∧
        u.pipe = { s.pipe with waiting := s.pipe.waiting ++ [x], nextSeq := s.pipe.nextSeq + 1 } ∧
        x.seq = s.pipe.nextSeq ∧ x.port = p.val ∧ x.bytes = bs ∧ x.stage = 1 ∧ x.rows.map (·.bytes) = rows ∧
        x.order = s.ports.order ∧ u.ports.order = s.ports.order + 1 ∧ u.ports.out = s.ports.out ∧ u.ports.sent = s.ports.sent) ∧
    (s.image.phase ≠ 0 →
      ∃ u, exec (.step p bs) s = .next u ∧ OnlyChanges [.ports] s u ∧ u.ports.held = s.ports.held ++ [(p.val, bs)] ∧
        u.ports.out = s.ports.out)

/-- R194 to R196 and R201, R202: a CTX packet with OP OPEN, SET, READ or IMPORT is ordered behind every earlier operation and waits;
a CANCEL that passes the block's checks makes an OPEN context CLOSING at once, whatever sheets come before it (the moment is log entry
25). -/
def Obligations.CtxPacketIsOrdered : Prop :=
  ∀ (s : State) (p : Fin 2) (bs : List Byte), canArrive p.val bs s = true → classifyPkt bs = .ctxPkt → s.image.phase = 0 →
    (∀ c, (c = .ctxOpen p bs ∧ leAt bs 66 1 = 1) ∨ (c = .ctxSet p bs ∧ leAt bs 66 1 = 2) ∨ (c = .ctxRead p bs ∧ leAt bs 66 1 = 3) ∨
        (c = .ctxImport p bs ∧ leAt bs 66 1 = 4) →
      ∃ u, exec c s = .next u ∧ OnlyChanges [.ports, .pipe] s u ∧ u.ports.out = s.ports.out ∧
        u.pipe = { s.pipe with ops := s.pipe.ops ++ [⟨s.ports.order, p.val, BitVec.ofNat 64 (leAt bs 8 8), bs⟩] }) ∧
    (leAt bs 66 1 = 5 → ctxBlockCode s bs = 0 → (ctxAt s (leAt bs 64 2)).phase = .opened → s.pipe.closings = [] →
      (∃ x ∈ s.pipe.flight ++ s.pipe.waiting, x.order < s.ports.order ∧ sheetNames x (leAt bs 64 2) = true) →
      ∃ u, exec (.ctxCancel p bs) s = .next u ∧ OnlyChanges [.ports, .pipe] s u ∧
        (ctxAt u (leAt bs 64 2)).phase = .closing ∧ u.ports.out = s.ports.out ∧
        ∀ k, k ≠ leAt bs 64 2 → ctxAt u k = ctxAt s k)

/-- R194 to R197, R200 to R203: an OPEN, SET or IMPORT whose moment has come and which no check refuses writes its context, field by field as
Tables 10.5 to 10.7 say, with EPOCH 0 after OPEN, one more after SET and the imported one after IMPORT, re-pins where R203 says, and
answers OK with the new epoch; one that a check refuses changes no context, answers the code of the first failing check, and is
counted. A READ answers with the whole context and changes nothing; a CANCEL that waited closes its context behind the earlier sheets
that name it, and frees it at once, with DROPPED 0, where there is none. An OP outside 1 to 5 is refused like a failed check. The second
part states the checks: which code an operation gets, and that the first that applies is reported. The order of the checks and the moment
each is made, what a SET's body may hold, which rows a CANCEL counts, the moment it frees, what a halted engine answers, the history slots
an IMPORT keeps beyond HIST_LEN, the tide of a CTX_ACK and the fields it echoes are log entries 23, 24, 26, 27, 29, 137, 138 and 139. -/
def Obligations.CtxWriteTakesEffect : Prop :=
  (∀ (s : State) (k : Nat) (o : CtxWait), s.power.logicOn = true → s.pipe.ops[k]? = some o → opReady s o = true → s.pipe.closings = [] →
    let bs := o.bytes
    let c := leAt bs 64 2
    let op := leAt bs 66 1
    let mask := leAt bs 68 4
    let nBias := leAt bs 72 2
    let nCount := leAt bs 74 2
    let nHist := leAt bs 76 2
    let old := ctxAt s c
    let body := bs.drop 128
    let n (off len : Nat) : Nat := leAt body off len
    let f (off : Nat) : F32 := BitVec.ofNat 32 (leAt body off 4)
    let d (off : Nat) : Dword := BitVec.ofNat 64 (leAt body off 8)
    let m (b : Nat) : Bool := mask.testBit b
    let counted (u : State) : Prop := u.cb = { s.cb with ackErr := min 0xFF (s.cb.ackErr + 1) }
    let answered (u : State) (code : Nat) (epoch : Dword) (copy : Option Ctx) : Prop :=
      u.ports.out = s.ports.out ++ [⟨o.port, BitVec.ofNat 64 (leAt bs 8 8), 0, s.tide.count, 0,
        .ctxAck c op code mask nBias nCount nHist 0 epoch copy⟩]
    let written (x : Ctx) : Prop :=
      ∃ u, exec (.ctxOpEffect k) s = .next u ∧ OnlyChanges [.ports, .pipe, .adapters, .reach, .events] s u ∧
        u.pipe = { s.pipe with ops := s.pipe.ops.erase o, ctxs := u.pipe.ctxs } ∧ ctxAt u c = x ∧ (∀ j, j ≠ c → ctxAt u j = ctxAt s j) ∧
        answered u 0 x.epoch none
    let refused (code : Nat) : Prop :=
      ∃ u, exec (.ctxOpEffect k) s = .next u ∧ OnlyChanges [.ports, .pipe, .cb] s u ∧
        u.pipe = { s.pipe with ops := s.pipe.ops.erase o } ∧ counted u ∧ answered u code (if c ≤ 511 then old.epoch else 0) none
    let bias (off len : Nat) : List (Nat × F32) := (List.range len).map fun i => (n (off + 8 * i) 4, f (off + 8 * i + 4))
    let counts (off len : Nat) : List (Nat × Nat) := (List.range len).map fun i => (n (off + 8 * i) 4, n (off + 8 * i + 4) 4)
    let hist (off len : Nat) : List (Nat × Nat) := ringOf ((List.range len).map fun i => n (off + 4 * i) 4)
    let cuts : CutParams := ⟨n 16 4, f 20, f 24, f 28, n 32 1⟩
    let o2 := 256 + pad64 (8 * nBias)
    let o3 := o2 + pad64 (8 * nCount)
    (op = 1 → ctxWriteCode s bs = 0 → written
      { phase := .opened, temp := f 0, rho := f 4, phi := f 8, pi := f 12, cuts := cuts, hashBlock := n 33 1, countMode := n 34 1
        listLen := n 36 2, maskRef := n 38 2, adapter := n 40 2, seed := d 48, rngStep := d 56, epoch := 0, hashChain := d 72
        hashAcc := d 72 ^^^ hashH0, hashPos := 0, histLen := nHist, histHead := 0, pin := pinFor s (n 40 2), countDrops := 0
        bias := bias 256 nBias, counts := counts o2 nCount, ring := hist o3 nHist }) ∧
    (op = 2 → ctxWriteCode s bs = 0 → written { old with
        temp := if m 0 then f 0 else old.temp, rho := if m 0 then f 4 else old.rho, phi := if m 0 then f 8 else old.phi
        pi := if m 0 then f 12 else old.pi, cuts := if m 0 then cuts else old.cuts, listLen := if m 0 then n 36 2 else old.listLen
        hashBlock := if m 1 then n 33 1 else old.hashBlock, hashChain := if m 1 then d 72 else old.hashChain
        hashAcc := if m 1 then d 72 ^^^ hashH0 else old.hashAcc, hashPos := if m 1 then 0 else old.hashPos
        countMode := if m 2 then n 34 1 else old.countMode, maskRef := if m 3 then n 38 2 else old.maskRef
        adapter := if m 4 then n 40 2 else old.adapter, pin := if m 4 then pinFor s (n 40 2) else old.pin
        seed := if m 5 then d 48 else old.seed, rngStep := if m 6 then d 56 else old.rngStep
        bias := if m 7 then bias 256 nBias else old.bias
        counts := if m 8 then counts o2 nCount else old.counts, countDrops := if m 8 then 0 else old.countDrops
        ring := if m 9 then hist o3 nHist else old.ring, histLen := if m 9 then nHist else old.histLen
        histHead := if m 9 then 0 else old.histHead, epoch := old.epoch + 1 }) ∧
    (op = 4 → ctxWriteCode s bs = 0 → written
      { phase := .opened, temp := f 0, rho := f 4, phi := f 8, pi := f 12, cuts := cuts, hashBlock := n 33 1, countMode := n 34 1
        listLen := n 36 2, maskRef := n 38 2, adapter := n 40 2, seed := d 48, rngStep := d 56, epoch := d 64, hashChain := d 72
        hashAcc := d 80, hashPos := n 88 2, histLen := n 94 2, histHead := n 96 2, pin := pinFor s (n 40 2), countDrops := n 100 4
        bias := bias 0x2000 (n 92 2), counts := counts 0x8000 (n 90 2), ring := hist 0x4000 4096 }) ∧
    (op = 1 ∨ op = 2 ∨ op = 4 → ctxWriteCode s bs ≠ 0 → refused (ctxWriteCode s bs)) ∧
    (op = 3 → ctxBlockCode s bs = 0 →
      ∃ u, exec (.ctxOpEffect k) s = .next u ∧ OnlyChanges [.ports, .pipe] s u ∧ u.pipe = { s.pipe with ops := s.pipe.ops.erase o } ∧
        answered u 0 old.epoch (some old)) ∧
    (op = 3 ∨ op = 5 → ctxBlockCode s bs ≠ 0 → refused (ctxBlockCode s bs)) ∧
    (op = 0 ∨ 5 < op → refused (ctxBlockCode s bs)) ∧
    (op = 5 → ctxBlockCode s bs = 0 → old.phase ≠ .opened → refused 1) ∧
    (op = 5 → ctxBlockCode s bs = 0 → old.phase = .opened → sheetBefore s o.order c = true →
      ∃ u, exec (.ctxOpEffect k) s = .next u ∧ OnlyChanges [.ports, .pipe] s u ∧ u.ports.out = s.ports.out ∧
        ctxAt u c = { old with phase := .closing } ∧ (∀ j, j ≠ c → ctxAt u j = ctxAt s j) ∧ u.pipe.ops = s.pipe.ops.erase o ∧
        u.pipe.closings = [⟨o.order, o.port, o.tag, c,
          (((s.pipe.flight ++ s.pipe.waiting).filter fun x => decide (x.order < o.order)).map fun x => rowsNaming x c).sum⟩]) ∧
    (op = 5 → ctxBlockCode s bs = 0 → old.phase = .opened → sheetBefore s o.order c = false →
      ∃ u, exec (.ctxOpEffect k) s = .next u ∧ OnlyChanges [.ports, .pipe, .cb, .adapters, .reach, .events] s u ∧
        u.pipe = { s.pipe with ops := s.pipe.ops.erase o, ctxs := u.pipe.ctxs } ∧ ctxAt u c = ctxFree ∧
        (∀ j, j ≠ c → ctxAt u j = ctxAt s j) ∧
        u.ports.out = s.ports.out ++ [⟨o.port, o.tag, 0, s.tide.count, 0, .ctxAck c 5 0 0 0 0 0 0 0 none⟩])) ∧
  ∀ (s : State) (bs : List Byte),
    let op := leAt bs 66 1
    let old := ctxAt s (leAt bs 64 2)
    let vocab := (s.image.cfg.map ImageCfg.vocab).getD 0
    let zero (lo hi : Nat) : Prop := ∀ i, lo ≤ i → i < hi → leAt bs i 1 = 0
    let noImage := if s.fabric.halted then op ≠ 3 else s.image.cfg = none
    let counts : List Nat := [leAt bs 72 2, leAt bs 74 2, leAt bs 76 2]
    let bodyLen :=
      if op = 1 ∨ op = 2 then 256 + pad64 (8 * leAt bs 72 2) + pad64 (8 * leAt bs 74 2) + pad64 (4 * leAt bs 76 2)
      else if op = 4 then 98304 else 0
    let blockOk := leAt bs 64 2 ≤ 511 ∧ (if op = 2 then leAt bs 68 4 < 1024 else leAt bs 68 4 = 0) ∧
      (op = 1 ∨ op = 2 ∨ counts = [0, 0, 0]) ∧ zero 67 68 ∧ zero 78 128
    let reserved := (op = 1 ∨ op = 4 → zero 163 164 ∧ zero 170 176) ∧
      (op = 4 → zero 232 8320 ∧ leAt bs 220 2 ≤ 1024 ∧ leAt bs 218 2 ≤ 8192 ∧
        zero (8320 + 8 * leAt bs 220 2) 16512 ∧ zero (32896 + 8 * leAt bs 218 2) 98432)
    let fits (x : Ctx) : Prop :=
      (∀ q ∈ x.bias, q.1 < vocab) ∧ (∀ q ∈ x.counts, q.1 < vocab ∧ 1 ≤ q.2) ∧
      (∀ i, i < x.histLen → spGet 0 x.ring ((x.histHead + i) % 4096) < vocab) ∧
      (x.bias.map (·.1)).Pairwise (· < ·) ∧ (x.counts.map (·.1)).Pairwise (· < ·) ∧
      x.bias.length ≤ 1024 ∧ x.counts.length ≤ 8192 ∧ x.histLen ≤ 4096 ∧ x.hashBlock ∈ [0, 8, 16, 32, 64] ∧
      (x.hashBlock = 0 → x.hashPos = 0) ∧ (x.hashBlock ≠ 0 → x.hashPos < x.hashBlock) ∧ x.countMode ≤ 1 ∧ x.histHead < 4096
    (noImage → ctxBlockCode s bs = 4) ∧
    (¬noImage → op = 0 ∨ 5 < op ∨ bs.length ≠ 128 + bodyLen → ctxBlockCode s bs = 3) ∧
    (¬noImage → 1 ≤ op → op ≤ 5 → bs.length = 128 + bodyLen →
      (¬blockOk → ctxBlockCode s bs = 2) ∧
      (blockOk → ctxBlockCode s bs = 0 ∧
        (op = 1 ∨ op = 2 ∨ op = 4 → old.phase ≠ (if op = 2 then .opened else .free) → ctxWriteCode s bs = 1) ∧
        (op = 1 ∨ op = 2 ∨ op = 4 → old.phase = (if op = 2 then .opened else .free) →
          (reserved ∧ fits (ctxAfter old bs) → ctxWriteCode s bs = 0) ∧ (¬(reserved ∧ fits (ctxAfter old bs)) → ctxWriteCode s bs = 2)))) ∧
    (ctxBlockCode s bs ≠ 0 → ctxWriteCode s bs = ctxBlockCode s bs)

/-- R208 and R333: the host's credits add up; the first packet of a port in production order leaves against them, and every packet of
the other port keeps its place; PORT_RST takes the port's credits away while it is high. When it falls, the packets that waited keep
their order (log entry 30) and requests that found both ports held leave on the port (log entry 134). -/
def Obligations.PortsAndCredits : Prop :=
  ∀ (s : State) (p : Fin 2) (n : Nat), s.power.logicOn = true →
    let q (u : State) : PortSt := if p.val = 0 then u.ports.p0 else u.ports.p1
    let other (u : State) : PortSt := if p.val = 0 then u.ports.p1 else u.ports.p0
    ((q s).rst = false →
      ∃ u, exec (.egressCredit p n) s = .next u ∧ OnlyChanges [.ports] s u ∧ q u = { q s with egress := (q s).egress + n } ∧
        other u = other s ∧ u.ports.out = s.ports.out ∧ u.ports.sent = s.ports.sent) ∧
    (∀ x, s.power.st = .on → (q s).rst = false → s.pipe.closings = [] → s.ports.out.find? (fun x => x.port == p.val) = some x →
      ceilDiv x.len 128 ≤ (q s).egress →
      ∃ u, exec (.outboundSend p) s = .next u ∧ OnlyChanges [.ports] s u ∧ u.ports.sent = s.ports.sent ++ [x] ∧
        u.ports.out = s.ports.out.erase x ∧ q u = { q s with egress := (q s).egress - ceilDiv x.len 128 } ∧ other u = other s) ∧
    ((q s).rst = false →
      ∃ u, exec (.portRstRise p true) s = .next u ∧ OnlyChanges [.ports, .cb] s u ∧ (q u).rst = true ∧ (q u).credit = 0 ∧
        u.ports.out = s.ports.out ∧ u.cb = { s.cb with truncated := min 0xFFFF (s.cb.truncated + 1) }) ∧
    ((q s).rst = true →
      ∃ u, exec (.portRstFall p) s = .next u ∧ OnlyChanges [.ports] s u ∧ (q u).rst = false ∧ (q u).egress = 0 ∧
        u.ports.out = s.ports.out ∧ u.ports.sent = s.ports.sent ∧
        u.ports.reads = s.ports.reads.map fun r =>
          if r.port = none then { r with port := some p.val, issued := s.tide.osc } else r)

/-- R208: the ingress credits outstanding on both ports never exceed the free units of the buffer when credits are granted afresh, and
no port is given more than 65,536; none is taken back. Credits are granted until each port holds 65,536 or no unit is free; a port held
by PORT_RST is given none, and of two that are not, one that had more than the other gains only once the other has as many. How long a
multicast source's own packet takes space is log entry 171's choice. -/
def Obligations.CreditsNeverOvercommit : Prop :=
  ∀ s : State, s.ports.p0.credit + s.ports.p1.credit + ingressUsed s ≤ ingressUnits → s.ports.p0.credit ≤ 65536 →
    s.ports.p1.credit ≤ 65536 →
    let u := regrant s
    u.ports.p0.credit + u.ports.p1.credit + ingressUsed u ≤ ingressUnits ∧ u.ports.p0.credit ≤ 65536 ∧ u.ports.p1.credit ≤ 65536 ∧
    s.ports.p0.credit ≤ u.ports.p0.credit ∧ s.ports.p1.credit ≤ u.ports.p1.credit ∧
    (granting s = true →
      let full (c : Nat) : Prop := c = 65536 ∨ u.ports.p0.credit + u.ports.p1.credit + ingressUsed u = ingressUnits
      (s.ports.p0.rst = false → s.ports.p1.rst = false → full u.ports.p0.credit ∧ full u.ports.p1.credit ∧
        (u.ports.p0.credit = s.ports.p0.credit ∨ u.ports.p0.credit ≤ u.ports.p1.credit + 1) ∧
        (u.ports.p1.credit = s.ports.p1.credit ∨ u.ports.p1.credit ≤ u.ports.p0.credit + 1)) ∧
      (s.ports.p0.rst = true → u.ports.p0.credit = s.ports.p0.credit ∧ (s.ports.p1.rst = false → full u.ports.p1.credit)) ∧
      (s.ports.p1.rst = true → u.ports.p1.credit = s.ports.p1.credit ∧ (s.ports.p0.rst = false → full u.ports.p0.credit)))

/-! ### Mask loads and generation loads (05_grading.md, 09_functions.md) -/

/-- R103: a GO of a mask load reads its source; one written while a load is in progress is refused with kind 3 and ends with its event;
a bitmap number the store does not have is kind 1; a staged bitmap is copied once no sheet holds it off, and the copy's end puts
the loaded bits in force, clears BUSY, counts DONE and raises MASK_LOAD_END. How many bitmaps there are is log entry 48, which load a
refused GO reports on log entry 49, which source bits count log entry 51, what DONE counts log entry 141, the port of the read
log entry 134, and a GO in phase 1 of an image load log entry 142. -/
def Obligations.MaskLoadLife : Prop :=
  ∀ (s : State) (v : Word) (c : ImageCfg), s.power.logicOn = true → s.image.cfg = some c →
    let b := v.toNat % 1024
    (v.getLsbD 31 = true → s.masks.phase = .idle → b < bitmapCount c →
      ∃ u r, exec (.maskLoad v) s = .next u ∧ OnlyChanges [.masks, .ports, .resp] s u ∧ u.masks.phase = .reading ∧
        u.masks.err = false ∧ u.masks.bitmap = b ∧ u.masks.zeros = s.masks.zeros ∧ u.ports.reads = s.ports.reads ++ [r] ∧
        r.kind = .mask ∧ r.addr = (s.soft.maskSrcHi ++ s.soft.maskSrcLo).toNat ∧ r.len = maskBytes c) ∧
    (v.getLsbD 31 = true → s.masks.phase ≠ .idle →
      exec (.maskLoad v) s = .next { s with
        resp := some ⟨false, 0#32, false⟩, masks := { s.masks with err := true, kind := 3 }
        events := { s.events with pending := setSrc s.events.pending 67 true } }) ∧
    (v.getLsbD 31 = true → s.masks.phase = .idle → bitmapCount c ≤ b →
      ∃ u, exec (.maskLoad v) s = .next u ∧ OnlyChanges [.masks, .ports, .events, .resp] s u ∧ u.masks.phase = .idle ∧
        u.masks.err = true ∧ u.masks.kind = 1 ∧ u.masks.zeros = s.masks.zeros ∧ u.events.pending.getLsbD 67 = true) ∧
    (s.masks.phase = .staged → maskFree s s.masks.bitmap = true →
      exec .maskCopy s = .next { s with masks := { s.masks with phase := .copying } }) ∧
    (s.masks.phase = .copying →
      ∃ u, exec .maskLoadEnd s = .next u ∧ OnlyChanges [.masks, .ports, .cb, .events] s u ∧ u.masks.phase = .idle ∧
        u.cb = { s.cb with maskDone := s.cb.maskDone + 1 } ∧ u.events.pending.getLsbD 67 = true ∧
        spGet [] u.masks.zeros s.masks.bitmap = zeroBits c s.masks.staging ∧
        ∀ k, k ≠ s.masks.bitmap → spGet [] u.masks.zeros k = spGet [] s.masks.zeros k)

/-- R183: a GO reads a generation of 65,536 bytes; one written while a load is in progress is refused; the buffer not in force is written
once no sheet holds it, reads 0 meanwhile, and then holds the new generation; the buffer in force never changes. A GO while a load is
in progress is log entry 49, when READY ends log entry 50. -/
def Obligations.FunctionLoadLife : Prop :=
  ∀ (s : State) (v : Word) (g : GenBuf), s.power.logicOn = true → s.fn.inForce ≤ 1 →
    let buf (u : State) (k : Nat) : GenBuf := if k = 0 then u.fn.buf0 else u.fn.buf1
    let new := 1 - s.fn.inForce
    (v.getLsbD 31 = true → s.fn.phase = .idle →
      ∃ u r, exec (.fnLoad v) s = .next u ∧ OnlyChanges [.fn, .ports, .resp] s u ∧ u.fn.phase = .reading ∧ u.fn.err = false ∧
        u.fn.buf0 = s.fn.buf0 ∧ u.fn.buf1 = s.fn.buf1 ∧ u.fn.inForce = s.fn.inForce ∧ u.ports.reads = s.ports.reads ++ [r] ∧
        r.kind = .function ∧ r.addr = (s.soft.fnSrcHi ++ s.soft.fnSrcLo).toNat ∧ r.len = 65536) ∧
    (v.getLsbD 31 = true → s.fn.phase ≠ .idle →
      exec (.fnLoad v) s = .next { s with
        resp := some ⟨false, 0#32, false⟩, fn := { s.fn with err := true, kind := 3 }
        events := { s.events with pending := setSrc s.events.pending 68 true } }) ∧
    (s.fn.phase = .waiting g → fnHolders s new = 0 →
      ∃ u, exec .fnWrite s = .next u ∧ OnlyChanges [.fn] s u ∧ u.fn.phase = .writing g ∧ buf u new = .empty ∧
        buf u s.fn.inForce = buf s s.fn.inForce ∧ u.fn.inForce = s.fn.inForce) ∧
    (s.fn.phase = .writing g →
      ∃ u, exec .fnReady s = .next u ∧ OnlyChanges [.fn] s u ∧ u.fn.phase = .ready ∧ buf u new = g ∧
        buf u s.fn.inForce = buf s s.fn.inForce ∧ u.fn.inForce = s.fn.inForce)

/-! ### Live weights (11_live_weights.md) -/

/-- R213: a PATCH packet that breaks a rule of the packet is answered with the code of the first rule it breaks, whichever patch command
brings it, and has no other effect. R212 and R214 for a packet of one row: a row that Table 11.2 writes enters the journal and is not
answered yet; a row of a token that is not placed is refused and the packet answered at once with NOT_PLACED 1. The third part states the
codes and their order: the first rule of R213 that a packet breaks decides. A halted engine answers every packet NO_IMAGE (R287); when the
conditions of Table 11.2 are judged is log entry 31, when a packet can arrive log entries 20 and 21, the tide of an answer log entry 138.
-/
def Obligations.PatchRowsArrive : Prop :=
  (∀ (s : State) (p : Fin 2) (bs : List Byte) (c : Instr), canArrive p.val bs s = true → classifyPkt bs = .patchPkt →
     s.image.phase = 0 → sourceGroup s = none →
     c ∈ [Instr.rows p bs, .seal p bs, .arm p bs, .disarm p bs, .adapterLoad p bs, .adapterRetire p bs] →
     let code := patchAckCode s.fabric.halted (noImage s) ((s.image.cfg.map ImageCfg.b).getD 0) bs
     code ≠ 0 →
     ∃ u, exec c s = .next u ∧ OnlyChanges [.ports] s u ∧
       u.ports.out = s.ports.out ++
         [⟨p.val, BitVec.ofNat 64 (leAt bs 8 8), 0, s.tide.count, 0, .patchAck { patchBlock bs with ack := code }⟩] ∧
       u.ports.sent = s.ports.sent ∧ u.ports.reads = s.ports.reads) ∧
  (∀ (s : State) (p : Fin 2) (bs : List Byte) (c : ImageCfg), canArrive p.val bs s = true → classifyPkt bs = .patchPkt →
     s.image.phase = 0 → sourceGroup s = none → s.image.cfg = some c → s.fabric.halted = false →
     patchAckCode false false c.b bs = 0 → leAt bs 64 1 = 1 → leAt bs 66 2 = 1 → s.weights.pkts = [] →
     let e := rowsEntry c.b bs 0
     let tok := leAt e 0 4
     let row := sliceBytes e 8 c.b
     let stp : Word := BitVec.ofNat 32 (leAt bs 68 4)
     (∀ l j, rowFate s c stp tok row = .write l j → journalUsed s + entryBytes c.b ≤ journalSize →
       ∃ u, exec (.rows p bs) s = .next u ∧ OnlyChanges [.ports, .weights] s u ∧ u.ports.out = s.ports.out ∧
         u.weights.journal = s.weights.journal ++ [⟨s.weights.nextPkt, l, j, stp, row⟩] ∧ u.weights.pkts.length = 1 ∧
         u.weights.ver0 = s.weights.ver0 ∧ u.weights.ver1 = s.weights.ver1 ∧ u.weights.wSealed = s.weights.wSealed) ∧
     (c.place tok = none →
       ∃ u, exec (.rows p bs) s = .next u ∧ OnlyChanges [.ports, .weights, .cb] s u ∧ u.weights.journal = s.weights.journal ∧
         u.weights.pkts = [] ∧ u.cb = { s.cb with patchNotPlaced := min 0xFF (s.cb.patchNotPlaced + 1) } ∧
         u.ports.out = s.ports.out ++ [⟨p.val, BitVec.ofNat 64 (leAt bs 8 8), 0, s.tide.count, 0,
           .patchAck { patchBlock bs with notPlaced := 1 }⟩])) ∧
  ∀ (noImg : Bool) (b : Nat) (bs : List Byte),
    let op := leAt bs 64 1
    let n := leAt bs 66 2
    let entry := pad64 (8 + b)
    let zero (lo hi : Nat) : Prop := ∀ i, lo ≤ i → i < hi → leAt bs i 1 = 0
    let fieldsOk := zero 65 66 ∧ zero 84 112 ∧ zero 120 128 ∧ (if op = 1 then 1 ≤ n ∧ n ≤ 4096 else n = 0) ∧
      (op ≤ 3 ∨ leAt bs 68 4 = 0) ∧ (op = 3 ∨ leAt bs 72 8 = 0) ∧
      (if op = 5 ∨ op = 6 then leAt bs 80 2 ≠ 0xFFFF else leAt bs 80 2 = 0) ∧
      (if op = 5 then 1 ≤ leAt bs 82 1 ∧ leAt bs 82 1 ≤ 64 ∧ leAt bs 83 1 ≤ 1 ∧ leAt bs 112 8 % 64 = 0
       else leAt bs 82 1 = 0 ∧ leAt bs 83 1 = 0 ∧ leAt bs 112 8 = 0)
    let lengthOk := bs.length = 128 + (if op = 1 then n * entry else 0)
    let entryOk (i : Nat) : Prop :=
      let e := 128 + i * entry
      leAt bs e 4 < 2 ^ 22 ∧ zero (e + 4) (e + 8) ∧ zero (e + 8 + b) (e + entry)
    let code := patchAckCode false noImg b bs
    patchAckCode true noImg b bs = 4 ∧
    (op = 0 ∨ 6 < op ∨ 8405056 < bs.length → code = 3) ∧
    (1 ≤ op → op ≤ 6 → bs.length ≤ 8405056 →
      (noImg = true → code = 4) ∧
      (noImg = false →
        (¬fieldsOk → code = 2) ∧ (fieldsOk → ¬lengthOk → code = 3) ∧
        (fieldsOk → lengthOk → op = 1 → (∃ i, i < n ∧ ¬entryOk i) → code = 2) ∧
        (fieldsOk → lengthOk → (op = 1 → ∀ i, i < n → entryOk i) → code = 0)))

/-- R73, R78 and R214: a resident row that retires is written to the shadow bank at its storage position, its shadow version becomes the
step and its journal entry goes; no byte changes but the row's and, in a bed that keeps parity, the spare's at the same offsets, and no
other version but the spare's XOR over its bed's directories, which takes the change. Which beds keep parity is log entry 126, which
rows a bed holds log entry 33. -/
def Obligations.PatchRowRetires : Prop :=
  ∀ (s : State) (c : ImageCfg) (l : Nat) (e : JEntry), s.power.logicOn = true → s.image.cfg = some c → l < s.part.leaves →
    headEntry s l = some e → mayRetire s c e = true → isUnplaced s l = false → e.pos < c.cap → e.bytes.length = c.b →
    stepFate s c l e.pos e.stp = .write l e.pos → (∀ p ∈ s.weights.pkts, p.todo = []) →
    spWf 0 s.brine.mem = true → 0 < c.b →
    let pan := panOf s l
    let at_ := bankBase c (shadowBank c s.brine.live) + e.pos * c.b
    ∃ u, exec (.patchRowRetire l) s = .next u ∧ OnlyChanges [.ports, .weights, .cb, .brine] s u ∧
      brineRead u pan at_ c.b = e.bytes ∧ shadowVersion u c l e.pos = e.stp ∧ u.weights.journal = s.weights.journal.erase e ∧
      u.cb = { s.cb with patchRows := s.cb.patchRows + 1 } ∧ u.brine.live = s.brine.live ∧
      u.weights.wLive = s.weights.wLive ∧ u.weights.wSealed = s.weights.wSealed ∧
      spareVersion u.weights (shadowBank c s.brine.live) (l / 16) e.pos =
        spareVersion s.weights (shadowBank c s.brine.live) (l / 16) e.pos ^^^ (shadowVersion s c l e.pos ^^^ e.stp) ∧
      (∀ f k j, f ≤ 1 → j < 4096 → ¬(f = shadowBank c s.brine.live ∧ k = l ∧ j = e.pos) →
        dirVersion u.weights f k j = dirVersion s.weights f k j) ∧
      (∀ q off, off < regionSize → ¬(q = pan ∧ at_ ≤ off ∧ off < at_ + c.b) →
        ¬(q = 17 * (pan / 17) + 16 ∧ at_ ≤ off ∧ off < at_ + c.b) → brineByte u q off = brineByte s q off)

/-- R78: a row that retires in a bed that keeps parity keeps it: where the spare's byte was the XOR of the members' bytes, it is so
afterwards, in every bed and at every offset. Which beds keep parity is log entry 126. -/
def Obligations.PatchKeepsParity : Prop :=
  ∀ (s u : State) (c : ImageCfg) (l : Nat) (e : JEntry), s.image.cfg = some c → l < s.part.leaves → headEntry s l = some e →
    e.pos < c.cap → e.bytes.length = c.b → isUnplaced s l = false → panOf s l % 17 ≠ 16 → parityLive s (l / 16) = true →
    spWf 0 s.brine.mem = true → exec (.patchRowRetire l) s = .next u →
    ∀ b off, off < regionSize → parityAt s b off → parityAt u b off

/-- R216 and R218: a SEAL that fits the state waits for its effect, one that does not is answered BAD_STATE; an ARM of a step above the
live step puts the flip in ARMED with its hold limit latched, and one that replaces an ARMED or HELD flip has the earlier ARM answered
with OUTCOME REPLACED; a flip that is FIRING or in its write window takes none; a DISARM ends the flip with OUTCOME DISARMED for the ARM,
and one with no flip ARMED or HELD is answered BAD_STATE. R222 and R271: the root carries an accepted ARM or DISARM, with the S and T it
accepted, to every admitted child whose link carries messages. The tide of an answer is log entry 138. -/
def Obligations.SealArmDisarm : Prop :=
  ∀ (s : State) (p : Fin 2) (bs : List Byte) (c : ImageCfg), canArrive p.val bs s = true → classifyPkt bs = .patchPkt →
    s.image.phase = 0 → sourceGroup s = none → s.image.cfg = some c → s.fabric.halted = false → c.role ≠ 2 →
    patchAckCode false false c.b bs = 0 →
    let carried (u : State) (f : OutFlit) : Prop :=
      (childLinks s = [] → u.reach = s.reach) ∧
        ∀ k, k < s.reach.dom.children.length → childIn s k = true → linkOpen s (childSt s k).link = true →
          ∃ xs, u.reach.sent = s.reach.sent ++ xs ∧
            (((childSt s k).link, f) ∈ xs ∨ f ∈ (linkAt u (childSt s k).link).queue)
    let b := patchBlock bs
    let ack (port : Nat) (tag : Dword) (blk : PatchBlock) : OutPkt := ⟨port, tag, 0, s.tide.count, 0, .patchAck blk⟩
    let mine (code : Nat) : OutPkt := ack p.val (BitVec.ofNat 64 (leAt bs 8 8)) { b with ack := code }
    (leAt bs 64 1 = 2 → sealOk s b.stp = true →
      ∃ u x, exec (.seal p bs) s = .next u ∧ OnlyChanges [.ports, .weights] s u ∧ u.ports.out = s.ports.out ∧
        u.weights = { s.weights with seals := s.weights.seals ++ [x] } ∧ x.block = b ∧ x.before = s.weights.nextPkt) ∧
    (leAt bs 64 1 = 2 → sealOk s b.stp = false →
      ∃ u, exec (.seal p bs) s = .next u ∧ OnlyChanges [.ports] s u ∧ u.ports.out = s.ports.out ++ [mine 1]) ∧
    (leAt bs 64 1 = 3 → s.weights.wLive.toNat < b.stp.toNat → s.weights.flip = .idle → s.weights.arm = none →
      ∃ u, exec (.arm p bs) s = .next u ∧ OnlyChanges [.ports, .weights, .reach] s u ∧ carried u (.arm b.stp b.tide) ∧
        u.ports.out = s.ports.out ∧ u.weights.flip = .armed ∧ u.weights.flipTarget = b.stp ∧ u.weights.flipTide = b.tide ∧
        u.weights.holdLimit = s.soft.flipHoldLimit ∧ u.weights.wLive = s.weights.wLive ∧ u.weights.wSealed = s.weights.wSealed) ∧
    (∀ a, leAt bs 64 1 = 3 → s.weights.wLive.toNat < b.stp.toNat → (s.weights.flip = .armed ∨ s.weights.flip = .held) →
      s.weights.arm = some a →
      ∃ u, exec (.arm p bs) s = .next u ∧ OnlyChanges [.ports, .weights, .reach] s u ∧ carried u (.arm b.stp b.tide) ∧
        u.ports.out = s.ports.out ++ [ack a.port a.tag { a.block with outcome := 4 }] ∧
        u.weights.flip = .armed ∧ u.weights.flipTarget = b.stp ∧ u.weights.flipTide = b.tide ∧
        u.weights.holdLimit = s.soft.flipHoldLimit ∧
        u.weights.arm = some ⟨p.val, BitVec.ofNat 64 (leAt bs 8 8), b⟩ ∧
        u.weights.wLive = s.weights.wLive ∧ u.weights.wSealed = s.weights.wSealed) ∧
    (leAt bs 64 1 = 3 → s.weights.wLive.toNat < b.stp.toNat → (s.weights.flip = .firing ∨ s.weights.flip = .window) →
      ∃ u, exec (.arm p bs) s = .next u ∧ OnlyChanges [.ports] s u ∧ u.ports.out = s.ports.out ++ [mine 1]) ∧
    (leAt bs 64 1 = 3 → b.stp.toNat ≤ s.weights.wLive.toNat →
      ∃ u, exec (.arm p bs) s = .next u ∧ OnlyChanges [.ports] s u ∧ u.ports.out = s.ports.out ++ [mine 2]) ∧
    (∀ a, leAt bs 64 1 = 4 → (s.weights.flip = .armed ∨ s.weights.flip = .held) → s.weights.arm = some a →
      ∃ u, exec (.disarm p bs) s = .next u ∧ OnlyChanges [.ports, .weights, .reach] s u ∧
        carried u (.disarm s.weights.flipTarget s.weights.flipTide) ∧
        u.ports.out = s.ports.out ++ [ack a.port a.tag { a.block with outcome := 3 }, mine 0] ∧
        u.weights = { s.weights with flip := .idle, arm := none }) ∧
    (leAt bs 64 1 = 4 → s.weights.flip ≠ .armed → s.weights.flip ≠ .held →
      ∃ u, exec (.disarm p bs) s = .next u ∧ OnlyChanges [.ports] s u ∧ u.ports.out = s.ports.out ++ [mine 1])

/-- R216 and R221: an accepted SEAL takes effect at a position when the position is ready for it; when every position reports the step it
becomes the sealed step and the SEAL is answered. Each change of a sealed step has a HELD flip decide again (log entry 34). R222 and R271: a
member then tells its parent the lowest sealed step of its subtree, its own or an admitted child's, by SEALED. -/
def Obligations.SealTakesEffect : Prop :=
  ∀ (s : State) (c : ImageCfg) (l : Nat) (x : SealWait), s.power.logicOn = true → s.image.cfg = some c →
    l < s.part.leaves → s.weights.seals = [x] → maySeal s c x l = true → s.weights.flip ≠ .window → x.answer = true →
    s.weights.wSealed ≠ x.block.stp → (∃ k, k < s.part.leaves ∧ k ≠ l ∧ posStep s k ≠ x.block.stp) →
    (∃ u, exec (.sealEffect l) s = .next u ∧ OnlyChanges [.weights, .ports] s u ∧ posStep u l = x.block.stp ∧
      u.weights.recheck = true ∧
      (∀ k, k ≠ l → posStep u k = posStep s k) ∧ u.weights.wSealed = s.weights.wSealed ∧ u.ports.out = s.ports.out) ∧
    ∀ t, t = { s with weights := { s.weights with
        posSealed := ((List.range s.part.leaves).filter (· ≠ l)).map fun k => (k, x.block.stp) } } →
      s.fabric.unplaced = [] → s.fabric.halted = false →
      ∃ u, exec (.sealEffect l) t = .next u ∧ OnlyChanges [.weights, .ports, .reach] t u ∧ u.weights.wSealed = x.block.stp ∧
        u.weights.seals = [] ∧ u.weights.wLive = s.weights.wLive ∧ (∀ k, posStep u k = x.block.stp) ∧ u.weights.recheck = true ∧
        u.ports.out = s.ports.out ++ [⟨x.port, x.tag, 0, s.tide.count, 0, .patchAck x.block⟩] ∧
        ∀ m, parentLink s = some m → s.reach.dom.ownReported ≠ x.block.stp →
          ∃ (v : Word) (xs : List (Nat × OutFlit)), u.reach.sent = s.reach.sent ++ xs ∧
            ((m, .sealed v) ∈ xs ∨ .sealed v ∈ (linkAt u m).queue) ∧ u.reach.dom.reported = v ∧ u.reach.dom.ownReported = x.block.stp ∧
            let below := fun k => k < s.reach.dom.children.length ∧ childIn s k = true
            v ≤ x.block.stp ∧ (∀ k, below k → v ≤ ((childSt s k).sealed).getD 0) ∧
            (v = x.block.stp ∨ ∃ k, below k ∧ v = ((childSt s k).sealed).getD 0)

/-- R219 to R221: when the tide has reached T, or a sealed step has changed while the flip is HELD, a flip to which every position agrees
enters FIRING; otherwise it enters HELD, FLIP_SPLIT is raised and the first disagreeing position is recorded; a flip still HELD at T plus
its latched limit is abandoned, answered with OUTCOME ABANDONED, and raises FLIP_ABANDONED. R271: in a merge domain the root decides, never
an admitted member; a remote child agrees when it is admitted and its last SEALED carried S; where every position agrees the first child
that does not is recorded, with the step of its last SEALED, or 0xFFFF_FFFF where it has sent none or is not admitted. Whether a position
that waits for step 8 of its takeover agrees is log entry 34, that a member which is cut off decides the flip its root armed log entry
182, that a position which has sealed nothing reports the sealed step log entry 181. -/
def Obligations.FlipDecidesOrHolds : Prop :=
  ∀ (s : State) (c : ImageCfg) (a : ArmWait), s.power.logicOn = true → s.image.cfg = some c → c.arr ≠ 1 → s.weights.arm = some a →
    let due := (s.weights.flip = .armed ∧ s.weights.flipTide.toNat ≤ s.tide.count.toNat) ∨
      (s.weights.flip = .held ∧ s.weights.recheck = true)
    let joined (k : Nat) : Prop := childIn s k = true ∧ (childSt s k).sealed = some s.weights.flipTarget
    (admittedMember s = true → exec .flipDecision s = .next s) ∧
    (∀ k, admittedMember s = false → due → (∀ l, l < s.part.leaves → agrees s s.weights.flipTarget l = true) →
      k < s.reach.dom.children.length → ¬joined k → (∀ j, j < k → joined j) →
      ∃ u, exec .flipDecision s = .next u ∧ OnlyChanges [.weights, .events, .bb] s u ∧ u.weights.flip = .held ∧
        u.weights.splitValid = true ∧ u.weights.splitRemote = true ∧ u.weights.splitWho = k ∧
        u.weights.splitStep = (if childIn s k then ((childSt s k).sealed).getD 0xFFFFFFFF#32 else 0xFFFFFFFF#32) ∧
        u.events.pending.getLsbD 49 = true ∧ u.weights.arm = some a ∧ u.weights.wLive = s.weights.wLive) ∧
    (admittedMember s = false → due →
      (∀ l, l < s.part.leaves → agrees s s.weights.flipTarget l = true) → (∀ k, k < s.reach.dom.children.length → joined k) →
      exec .flipDecision s = .next { s with weights := { s.weights with flip := .firing, recheck := false } }) ∧
    (∀ l, admittedMember s = false → due →
      l < s.part.leaves → agrees s s.weights.flipTarget l = false →
      (∀ k, k < l → agrees s s.weights.flipTarget k = true) →
      ∃ u, exec .flipDecision s = .next u ∧ OnlyChanges [.weights, .events, .bb] s u ∧ u.weights.flip = .held ∧
        u.weights.splitValid = true ∧ u.weights.splitRemote = false ∧ u.weights.splitWho = l ∧
        u.weights.splitStep = (reported s l).getD 0xFFFFFFFF#32 ∧ u.events.pending.getLsbD 49 = true ∧ u.weights.arm = some a) ∧
    (s.weights.flip = .held → s.weights.flipTide.toNat + s.weights.holdLimit.toNat ≤ s.tide.count.toNat →
      ∃ u, exec .flipAbandon s = .next u ∧ OnlyChanges [.weights, .ports, .events, .bb] s u ∧ u.weights.flip = .idle ∧
        u.weights.arm = none ∧ u.weights.wLive = s.weights.wLive ∧ u.weights.wSealed = s.weights.wSealed ∧
        u.events.pending.getLsbD 50 = true ∧
        u.ports.out = s.ports.out ++ [⟨a.port, a.tag, 0, s.tide.count, 0, .patchAck { a.block with outcome := 2 }⟩])

/-- R80, R220, R223, R242 and R271: a FIRING flip, or at a member the FIRE of its root, fires once no sheet is in stage 4 or 5: the banks
exchange roles, the live step becomes S, the ARM, where the engine has one, is answered with OUTCOME FIRED, FLIP_FIRED is raised, no
stored byte and no version changes, and replay begins at every position; under Single-bank a member exchanges and replays nothing (R225).
A position's replay leaves no row whose shadow version is below its live version: the bytes of every resident row it copies are the live
bank's, other bytes of the position are as before, and a bed that keeps parity keeps it (R78, log entry 126). That a flip waits for the
end of a takeover is log entry 133; which rows a bed holds is log entry 33; that the first sheet projected in the live step names
CTL_FLIP_SEQ where it comes later is log entry 162. -/
def Obligations.FlipFiresAndReplays : Prop :=
  ∀ (s : State) (c : ImageCfg), s.power.logicOn = true → s.image.cfg = some c →
    (∀ stp, (s.weights.flip = .firing ∧ stp = s.weights.flipTarget) ∨ (s.weights.flip ≠ .firing ∧ s.reach.dom.fire = some stp) →
      (∀ x ∈ s.pipe.flight, x.stage ≠ 4 ∧ x.stage ≠ 5) →
      (∀ b ∈ s.fabric.beds, b.2.phase ≠ .rebuilding ∧ b.2.shadowLeft = false) →
      ∃ u, exec .flipFire s = .next u ∧ OnlyChanges [.weights, .brine, .pipe, .ports, .reach, .events, .bb] s u ∧
        u.brine = { s.brine with live := if c.arr = 1 then s.brine.live else 1 - s.brine.live } ∧ u.weights.wLive = stp ∧
        u.weights.flip = .idle ∧ u.weights.arm = none ∧ u.weights.firedTide = s.tide.count ∧ u.weights.wSealed = s.weights.wSealed ∧
        u.weights.ver0 = s.weights.ver0 ∧ u.weights.ver1 = s.weights.ver1 ∧
        u.weights.replay = (if c.arr = 1 then [] else List.range s.part.leaves) ∧
        u.pipe = { s.pipe with flipSeq := BitVec.ofNat 32 (lowestUnscored s), flipDue := true } ∧ u.reach.dom.fire = none ∧
        u.events.pending.getLsbD 51 = true ∧
        (s.weights.arm = none → u.ports.out = s.ports.out) ∧
        ∀ a, s.weights.arm = some a →
          u.ports.out = s.ports.out ++ [⟨a.port, a.tag, 0, s.tide.count, 0, .patchAck { a.block with outcome := 1 }⟩]) ∧
    (∀ l, l < s.part.leaves → s.weights.replay.contains l = true → bedHolds s l = false → isUnplaced s l = false →
      windowBusy s l = false → (c.leafRows l).length ≤ 4096 → s.brine.live ≤ 1 → c.arr ≠ 1 → spWf 0 s.brine.mem = true →
      let pan := panOf s l
      let live := s.brine.live * 0x100000
      let shadow := (1 - s.brine.live) * 0x100000
      let copies (j : Nat) : Prop := (shadowVersion s c l j).toNat < (liveVersion s c l j).toNat
      ∃ u, exec (.replayDone l) s = .next u ∧ OnlyChanges [.weights, .brine] s u ∧ l ∉ u.weights.replay ∧
        u.brine.live = s.brine.live ∧ u.weights.wLive = s.weights.wLive ∧
        (∀ j, j < (c.leafRows l).length →
          liveVersion u c l j = liveVersion s c l j ∧
          (copies j → shadowVersion u c l j = liveVersion s c l j) ∧ (¬copies j → shadowVersion u c l j = shadowVersion s c l j)) ∧
        (∀ j, j < (c.leafRows l).length → j < c.cap →
          (copies j → brineRead u pan (shadow + j * c.b) c.b = brineRead s pan (live + j * c.b) c.b) ∧
          (¬copies j → brineRead u pan (shadow + j * c.b) c.b = brineRead s pan (shadow + j * c.b) c.b)) ∧
        (∀ q off, off < regionSize → ¬((q = pan ∨ q = 17 * (pan / 17) + 16) ∧ shadow ≤ off ∧ off < shadow + 0x100000) →
          brineByte u q off = brineByte s q off) ∧
        (pan % 17 ≠ 16 → parityLive s (l / 16) = true →
          ∀ off, off < regionSize → parityAt s (l / 16) off → parityAt u (l / 16) off))

/-- R225 and R242: under Single-bank the write window opens when the tide reaches T; while it is still open at T plus the latched hold
limit it raises FLIP_SPLIT, once, and stays open. It closes at the first moment at which every position reports S, at its opening or
with the SEAL's effect at the last position: the live step becomes S, the ARM is answered with OUTCOME FIRED, FLIP_FIRED is raised, and
the bank keeps its place and its bytes. In a merge domain a remote child that has not told S by SEALED keeps the window open; the SEALED of
the last child that was missing closes it, and the root sends FIRE(S) to its children (R271). -/
def Obligations.SingleBankWindow : Prop :=
  ∀ (s : State) (c : ImageCfg) (a : ArmWait), s.power.logicOn = true → s.image.cfg = some c → c.arr = 1 → s.weights.arm = some a →
    let fired : OutPkt := ⟨a.port, a.tag, 0, s.tide.count, 0, .patchAck { a.block with outcome := 1 }⟩
    let closed (u : State) : Prop := u.weights.wLive = a.block.stp ∧ u.weights.flip = .idle ∧ u.weights.arm = none ∧
      u.weights.firedTide = s.tide.count ∧ u.weights.ver0 = s.weights.ver0 ∧ u.weights.ver1 = s.weights.ver1 ∧
      u.weights.replay = s.weights.replay ∧ u.pipe.flight = s.pipe.flight ∧ u.pipe.ctxs = s.pipe.ctxs ∧
      u.events.pending.getLsbD 51 = true
    (s.weights.flip = .armed → s.weights.flipTide.toNat ≤ s.tide.count.toNat →
      (∃ l, l < s.part.leaves ∧ posStep s l ≠ a.block.stp) ∨
        (∃ k, k < s.reach.dom.children.length ∧ (childIn s k = false ∨ (childSt s k).sealed ≠ some a.block.stp)) →
      exec .windowOpen s = .next { s with weights := { s.weights with flip := .window } }) ∧
    (s.weights.flip = .armed → s.weights.flipTide.toNat ≤ s.tide.count.toNat → s.reach.dom.children = [] →
      (∀ l, l < s.part.leaves → posStep s l = a.block.stp ∧ isUnplaced s l = false) →
      ∃ u, exec .windowOpen s = .next u ∧ OnlyChanges [.weights, .pipe, .ports, .reach, .events, .bb] s u ∧ closed u ∧
        u.weights.wSealed = s.weights.wSealed ∧ u.ports.out = s.ports.out ++ [fired]) ∧
    (∀ l x, s.weights.flip = .window → s.weights.seals = [x] → x.block.stp = a.block.stp → l < s.part.leaves →
      maySeal s c x l = true → s.reach.dom.children = [] → (∀ k, k < s.part.leaves → isUnplaced s k = false) →
      (∀ k, k < s.part.leaves → k ≠ l → posStep s k = a.block.stp) →
      ∃ u, exec (.sealEffect l) s = .next u ∧ OnlyChanges [.weights, .pipe, .ports, .reach, .events, .bb] s u ∧ closed u ∧
        u.weights.wSealed = a.block.stp ∧ u.weights.seals = [] ∧ (∀ k, posStep u k = a.block.stp) ∧
        u.ports.out = s.ports.out ++ (if x.answer then [⟨x.port, x.tag, 0, s.tide.count, 0, .patchAck x.block⟩] else []) ++ [fired]) ∧
    (s.weights.flip = .window → s.weights.windowRaised = false →
      s.weights.flipTide.toNat + s.weights.holdLimit.toNat ≤ s.tide.count.toNat →
      ∃ u, exec .windowHoldLimit s = .next u ∧ OnlyChanges [.weights, .events, .bb] s u ∧
        u.weights = { s.weights with windowRaised := true } ∧ u.events.pending.getLsbD 49 = true ∧
        exec .windowHoldLimit u = .next u) ∧
    (∀ l h k, flitIn s l 6 0 false h →
      let t := accepted s l 0 h
      t.image.cfg = some c → c.role ≠ 2 → t.weights.arm = some a → t.weights.flip = .window → childHeard t l = some k →
      (childSt t k).joining = none →
      (∀ i, i < t.part.leaves → posStep t i = a.block.stp ∧ isUnplaced t i = false) →
      (∀ j, j < t.reach.dom.children.length → childIn t j = true ∧ (j ≠ k → (childSt t j).sealed = some a.block.stp)) →
      ∃ u, exec (.sealed l h a.block.stp) s = .next u ∧ u.weights.wLive = a.block.stp ∧ u.weights.flip = .idle ∧ u.weights.arm = none ∧
        u.weights.wSealed = t.weights.wSealed ∧ u.brine = t.brine ∧ u.events.pending.getLsbD 51 = true ∧
        u.ports.out = t.ports.out ++ [⟨a.port, a.tag, 0, t.tide.count, 0, .patchAck { a.block with outcome := 1 }⟩] ∧
        ∀ j, j < t.reach.dom.children.length → linkOpen t (childSt t j).link = true →
          ∃ xs, u.reach.sent = t.reach.sent ++ xs ∧
            (((childSt t j).link, .fire a.block.stp) ∈ xs ∨ .fire a.block.stp ∈ (linkAt u (childSt t j).link).queue))

/-- R227 to R229: an ADAPTER_LOAD that is not rejected takes the lowest free entry of the table as LOADING; with a free run of slots it
starts reading its source; once its slots are written, which a bed that rebuilds or copies holds up (log entry 140), the version is
CURRENT for its handle, is answered OK with its version number, and the earlier version of the handle is no longer CURRENT;
ADAPTER_RETIRE makes a version that contexts still pin RETIRING. -/
def Obligations.AdapterLife : Prop :=
  ∀ (s : State) (p : Fin 2) (bs : List Byte) (c : ImageCfg), s.power.logicOn = true → s.image.cfg = some c → c.role = 0 →
    s.reach.dom.children = [] → s.adapters.table.length = 16 →
    let b := patchBlock bs
    let arrives := canArrive p.val bs s = true ∧ classifyPkt bs = .patchPkt ∧ s.image.phase = 0 ∧ sourceGroup s = none ∧
      s.fabric.halted = false ∧ patchAckCode false false c.b bs = 0
    (∀ v, arrives → b.op = 5 → slotsNeeded c s.part.leaves b.rank ≤ 16 → s.adapters.loads = [] → freeEntry s = some v →
      (freeRun s (slotsNeeded c s.part.leaves b.rank)).isSome = true →
      ∃ u, exec (.adapterLoad p bs) s = .next u ∧ OnlyChanges [.ports, .adapters, .events] s u ∧ u.ports.out = s.ports.out ∧
        (adEntry u v).phase = .loading ∧ (adEntry u v).handle = b.handle ∧ (adEntry u v).rank = b.rank ∧
        (u.adapters.loads.map fun x => (x.block, x.ver)) = [(b, some v)] ∧ ∀ k, k ≠ v → adEntry u k = adEntry s k) ∧
    (∀ x rest v f, s.adapters.loads = x :: rest → x.ver = some v → v < 16 → (adEntry s v).slots = 0 →
      freeRun s (slotsNeeded c s.part.leaves x.block.rank) = some f →
      ∃ u r, exec .adapterLoadStart s = .next u ∧ OnlyChanges [.adapters, .ports] s u ∧ u.ports.reads = s.ports.reads ++ [r] ∧
        r.kind = .adapter ∧ r.addr = x.src.toNat ∧ (adEntry u v).first = f ∧
        (adEntry u v).slots = slotsNeeded c s.part.leaves x.block.rank ∧ ∀ k, k ≠ v → adEntry u k = adEntry s k) ∧
    (∀ x v, s.adapters.loads = [x] → x.ver = some v → v < 16 → 0 < (adEntry s v).slots → (adEntry s v).phase = .loading →
      x.written = false → x.await = [] → loadLen s c x.block.rank ≤ x.data.length → slotsWritable s = true →
      ∃ u, exec .adapterWritten s = .next u ∧ (adEntry u v).phase = .current ∧ u.adapters.loads = [] ∧
        (∀ k, k ≠ v → (adEntry s k).handle = (adEntry s v).handle → currentOf s (adEntry s v).handle = some k →
          (adEntry u k).phase ≠ .current) ∧
        u.ports.out = s.ports.out ++
          [⟨x.port, x.tag, 0, s.tide.count, 0, .patchAck { x.block with ack := 0, version := v }⟩] ∧
        u.weights = s.weights ∧ u.pipe = s.pipe ∧ u.fabric = s.fabric) ∧
    (∀ v, arrives → b.op = 6 → currentOf s b.handle = some v → 0 < refs s v → s.adapters.loads = [] →
      ∃ u, exec (.adapterRetire p bs) s = .next u ∧ (adEntry u v).phase = .retiring ∧ u.pipe = s.pipe ∧ u.weights = s.weights ∧
        u.brine = s.brine ∧
        u.ports.out = s.ports.out ++ [⟨p.val, BitVec.ofNat 64 (leAt bs 8 8), 0, s.tide.count, 0, .patchAck b⟩])

/-! ### Reads of the engine (17_integration.md R334, 04_brine_store.md R87) -/

/-- R58, R88, R103, R183, R227, R325 and R334: what the bytes of a read do, and its error or its time-out. A load's last bytes complete
what it has staged, earlier ones are kept with it; a generation that fails a check as it arrives, or an adapter source with a factor that
R58 refuses, ends its load with the kind that its chapter gives, with every buffer, bitmap and bank as it was; an image whose read fails
is refused with READ. A row of an overflow window is written back with its group, and the row retires with its last group; a window read
that fails, or that is answered while its position's bed holds patches and copies (Table 11.4), is issued again and writes nothing, and
the window reads of a position that is unplaced end without effect (R212). R87: an overflow group whose CRC is good is kept by the sheet
that waits for it; one whose CRC fails is read once more and counted in RETRIES; a second failure, an error, or a group that does not
arrive within the image's limit fails every row of its sheet with OVERFLOW_STALL and is counted; no context, bank or other sheet's row
changes. What one response brings is log entry 22, which sheet waits for a group, and that an error of its read fails it at once, log
entry 37, when a group is kept log entry 43, the ports of reads log entry 134, windows log entries 32, 36, 132 and 189, the limits log
entries 72 and 85, SECTION of a failed image read log entry 81, and how an absent slot that is not zero fails log entry 169. -/
def Obligations.ReadsEndOrFail : Prop :=
  (∀ (s : State) (k : ReadKind) (r : ReadReq) (d : List Byte), s.power.logicOn = true → s.power.st = .on → readOf k s = some r →
     ∀ p, r.port = some p →
     let late := r.issued + 1000 * s.soft.readLimit ≤ s.tide.osc
     let limited (u : State) : Prop := u.cb.readTimeouts = min 0xFFFF (s.cb.readTimeouts + 1)
     let brings (P : State → Prop) : Prop := ∃ u, exec (.readResponse k d false) s = .next u ∧ P u
     let fails (P : State → Prop) : Prop := ∃ u, exec (.readResponse k d true) s = .next u ∧ P u
     let expires (P : State → Prop) : Prop := ∃ u, exec (.readTimeout k) s = .next u ∧ limited u ∧ P u
     let ended (u : State) : Prop := readOf k u = none
     ((if p = 0 then s.ports.p0 else s.ports.p1).rst = false →
       (k = .mask → ∀ c, s.image.cfg = some c →
         let failed (u : State) : Prop := OnlyChanges [.masks, .ports, .events, .cb] s u ∧ u.masks.phase = .idle ∧ u.masks.err = true ∧
           u.masks.kind = 0 ∧ u.masks.zeros = s.masks.zeros ∧ ended u ∧ u.events.pending.getLsbD 67 = true ∧ u.ports.out = s.ports.out
         (s.masks.staging.length + d.length = maskBytes c → brings fun u => OnlyChanges [.masks, .ports] s u ∧
           u.masks = { s.masks with staging := s.masks.staging ++ d, phase := .staged } ∧ ended u) ∧
         (s.masks.staging.length + d.length < maskBytes c → brings fun u => OnlyChanges [.masks, .ports] s u ∧
           u.masks = { s.masks with staging := s.masks.staging ++ d } ∧ (readOf .mask u).isSome = true) ∧
         (fails fun u => failed u ∧ u.cb = s.cb) ∧ (late → expires failed)) ∧
       (k = .function →
         let all := (s.fn.staging ++ d).take 65536
         let bad := badRegion all (fnSlots s).1 (fnSlots s).2
         let failed (kind slot : Nat) (u : State) : Prop := OnlyChanges [.fn, .ports, .events, .cb] s u ∧
           u.fn = { s.fn with phase := .idle, staging := [], err := true, kind := kind, slot := slot } ∧ ended u ∧
           u.events.pending.getLsbD 68 = true
         (∀ i, bad = some i → brings (failed 2 i)) ∧
         (bad = none → all.length < 65536 → brings fun u => OnlyChanges [.fn, .ports] s u ∧ u.fn = { s.fn with staging := all }) ∧
         (bad = none → all.length = 65536 → (genOfBytes all).id = genIdOf (genOfBytes all) → brings fun u => OnlyChanges [.fn, .ports] s u ∧
           u.fn = { s.fn with staging := [], phase := .waiting (bufOfGen (genOfBytes all)) } ∧ ended u) ∧
         (bad = none → all.length = 65536 → (genOfBytes all).id ≠ genIdOf (genOfBytes all) → brings (failed 1 0)) ∧
         fails (failed 0 0) ∧ (late → expires (failed 0 0))) ∧
       (k = .adapter → ∀ c x, s.image.cfg = some c → s.adapters.loads = [x] →
         let need := loadLen s c x.block.rank
         let failed (ack : Nat) (u : State) : Prop := OnlyChanges [.adapters, .ports, .reach, .events, .cb] s u ∧ u.adapters.loads = [] ∧
           (∀ v, x.ver = some v → adEntry u v = adReset) ∧ ended u ∧
           u.ports.out = s.ports.out ++ [⟨x.port, x.tag, 0, s.tide.count, 0, .patchAck { x.block with ack := ack, version := 0 }⟩]
         ((x.data ++ d).length < need → brings fun u => OnlyChanges [.adapters, .ports] s u ∧
           u.adapters = { s.adapters with loads := [{ x with data := x.data ++ d }] }) ∧
         (need ≤ (x.data ++ d).length → sourceOk c s.part.leaves x.block.rank (x.data ++ d) = false → brings (failed 2)) ∧
         (need ≤ (x.data ++ d).length → sourceOk c s.part.leaves x.block.rank (x.data ++ d) = true → s.reach.dom.children = [] →
           brings fun u => OnlyChanges [.adapters, .ports] s u ∧ ended u ∧
             u.adapters = { s.adapters with loads := [{ x with data := x.data ++ d, await := [] }] }) ∧
         fails (failed 5) ∧ (late → expires (failed 5))) ∧
       (k = .image →
         let failed (u : State) : Prop := u.image.cfg = none ∧ u.image.phase = 0 ∧ u.image.err = true ∧ u.image.kind = 0 ∧
           u.image.section_ = sectionAt s.image.data.toArray s.image.data.length ∧ u.brine = s.brine ∧ ended u
         ((s.image.data ++ d).length < 64 → brings fun u => OnlyChanges [.image, .ports] s u ∧
           u.image = { s.image with data := s.image.data ++ d } ∧ (readOf .image u).isSome = true) ∧
         fails failed ∧ (late → expires failed)) ∧
       (∀ l ch c e, k = .windowPatch l ch → s.image.cfg = some c → headEntry s l = some e → d.length = r.len →
         isUnplaced s l = false → bedHolds s l = false →
         let g := groupPut c d (e.pos - c.cap) (rowChunkBytes c.wfmt c.h (fun i => e.bytes.getD i 0) ch)
         brings fun u => OnlyChanges [.ports, .weights, .cb] s u ∧ u.ports.hostWrites = s.ports.hostWrites ++ [(r.back, g)] ∧
           ended u ∧
           ((∃ q ∈ s.ports.reads, q.kind ≠ k ∧ ∃ n, q.kind = .windowPatch l n) → u.weights = s.weights) ∧
           ((∀ q ∈ s.ports.reads, ∀ n, q.kind ≠ .windowReplay l n ∧ (q.kind = .windowPatch l n → n = ch)) →
             (∀ w ∈ s.weights.pkts, w.todo = []) →
             shadowVersion u c l e.pos = e.stp ∧ u.weights.journal = s.weights.journal.erase e ∧
             u.cb = { s.cb with patchRows := s.cb.patchRows + 1 })) ∧
       (∀ l ch c, k = .windowReplay l ch → s.image.cfg = some c → d.length = r.len → isUnplaced s l = false → bedHolds s l = false →
         brings fun u => OnlyChanges [.ports] s u ∧ ended u ∧
           u.ports.hostWrites = s.ports.hostWrites ++ [(r.back, sliceBytes d 0 (groupBytes c))]) ∧
       (∀ l ch c, k = .windowPatch l ch ∨ k = .windowReplay l ch → s.image.cfg = some c →
         let again (u : State) : Prop := OnlyChanges [.ports] s u ∧ u.ports.hostWrites = s.ports.hostWrites ∧
           ∃ q, u.ports.reads = (s.ports.reads.filter fun x => x.kind != k) ++ [{ r with port := q, issued := s.tide.osc }]
         let dropped (u : State) : Prop := OnlyChanges [.ports] s u ∧ u.ports.hostWrites = s.ports.hostWrites ∧ windowBusy u l = false ∧
           ∀ q ∈ s.ports.reads, (∀ n, q.kind ≠ .windowPatch l n ∧ q.kind ≠ .windowReplay l n) → q ∈ u.ports.reads
         (isUnplaced s l = false → fails again) ∧
         (isUnplaced s l = false → bedHolds s l = true → d.length = r.len → brings again) ∧
         (isUnplaced s l = true → fails dropped ∧ (d.length = r.len → brings dropped))))) ∧
  (∀ (s : State) (c : ImageCfg) (l ch : Nat) (r : ReadReq) (x : Sheet), s.power.logicOn = true → s.image.cfg = some c →
     readOf (.overflow l ch) s = some r → r.port.isSome = true → r.issued + 1000 * c.ovfLimit ≤ s.tide.osc →
     groupWaiter s l ch = some x → seqsDiffer s →
     ∃ u, exec (.overflowTimeout l ch) s = .next u ∧ OnlyChanges [.pipe, .ports, .ca] s u ∧
       u.ca = { s.ca with ovfStalls := min 0xFFFF (s.ca.ovfStalls + 1) } ∧ u.pipe.ctxs = s.pipe.ctxs ∧
       u.pipe.waiting = s.pipe.waiting ∧ u.ports.out = s.ports.out ∧
       (∀ i q, rowOf s x.seq i = some q →
         rowOf u x.seq i = some { q with fail := { q.fail with overflow := true }, phase := .done }) ∧
       ∀ seq i, seq ≠ x.seq → rowOf u seq i = rowOf s seq i) ∧
  (∀ (s : State) (c : ImageCfg) (l ch p : Nat) (r : ReadReq) (x : Sheet) (d : List Byte), s.power.logicOn = true → s.power.st = .on →
     s.image.cfg = some c → readOf (.overflow l ch) s = some r → r.port = some p →
     (if p = 0 then s.ports.p0 else s.ports.p1).rst = false → groupWaiter s l ch = some x → seqsDiffer s →
     let stalls (err : Bool) : Prop :=
       ∃ u, exec (.readResponse (.overflow l ch) d err) s = .next u ∧ OnlyChanges [.pipe, .ports, .ca] s u ∧
         u.ca = { s.ca with ovfStalls := min 0xFFFF (s.ca.ovfStalls + 1) } ∧ u.pipe.ctxs = s.pipe.ctxs ∧
         u.pipe.waiting = s.pipe.waiting ∧ u.ports.out = s.ports.out ∧
         (∀ i q, rowOf s x.seq i = some q →
           rowOf u x.seq i = some { q with fail := { q.fail with overflow := true }, phase := .done }) ∧
         ∀ seq i, seq ≠ x.seq → rowOf u seq i = rowOf s seq i
     stalls true ∧
     (d.length = r.len → groupOk c d = false →
       ((l, ch) ∈ x.retried → stalls false) ∧
       ((l, ch) ∉ x.retried →
         ∃ u q, exec (.readResponse (.overflow l ch) d false) s = .next u ∧ OnlyChanges [.pipe, .ports, .ca] s u ∧
           u.ca = { s.ca with ovfRetries := min 0xFFFF (s.ca.ovfRetries + 1) } ∧
           flightSheet u x.seq = some { x with retried := (l, ch) :: x.retried } ∧
           (∀ seq, seq ≠ x.seq → flightSheet u seq = flightSheet s seq) ∧
           u.ports.reads = (s.ports.reads.filter fun y => y.kind != .overflow l ch) ++ [q] ∧ q.kind = .overflow l ch ∧
           q.addr = groupAddr c (liveBase s x) l ch ∧ q.len = groupBytes c)) ∧
     (d.length = r.len → groupOk c d = true →
       (x.fetch.find? fun q => q.1 == l).map Prod.snd = (firstWork c x l).map fetchFor →
       ∃ u y, exec (.readResponse (.overflow l ch) d false) s = .next u ∧ OnlyChanges [.pipe, .ports] s u ∧
         u.pipe.ctxs = s.pipe.ctxs ∧ u.ports.out = s.ports.out ∧ flightSheet u x.seq = some y ∧ (l, ch, d) ∈ y.groups ∧ y.rows = x.rows ∧
         ∀ seq i, seq ≠ x.seq → rowOf u seq i = rowOf s seq i))

/-! ### Sheets in the pipeline (01_engine_overview.md, 02, 05 to 08) -/

/-- R353: admission keeps the sheet's rows and their order, gives the rows that take slots consecutive slots from 0 and at most 256 in all,
lets at most the score buffer's rows use the buffer, numbered from 0 with no number given twice, and gives a row that fails its record
checks no slot. The number of a row, and the limit of an image without rows, are log entry 45. -/
def Obligations.AdmissionCountsSlots : Prop :=
  ∀ (c : ImageCfg) (bs : List (List Byte)),
    let rows := admitSheet c (bs.map rowWaiting)
    rows.map (·.bytes) = bs ∧ (rows.map (·.nslots)).sum ≤ 256 ∧
    (∀ (i : Nat) (r : Row), rows[i]? = some r → 0 < r.nslots → r.slot0 = ((rows.take i).map (·.nslots)).sum ∧ r.nslots = recSlots r.bytes) ∧
    (∀ r ∈ rows, recordOk c.h c.modes r.bytes = false → r.fail.poisoned = true ∧ r.nslots = 0) ∧
    (rows.filter Row.buffered).length ≤ bufLimit c ∧
    (∀ r ∈ rows, ∀ q, r.bufRow = some q → q < (rows.filter Row.buffered).length) ∧
    ∀ (i j : Nat) (r t : Row) (q : Nat), rows[i]? = some r → rows[j]? = some t → r.bufRow = some q → t.bufRow = some q → i = j

/-- R13, R14, R16, R88, R182 and R242: the first waiting sheet enters stage 2 with the generation in force latched when fewer than two are
in flight and the gate is open; it enters stage 3 when no earlier sheet, operation or mask copy holds it, each row taking its committed
context and the bases of the overflow windows; it enters stage 4, where a flip holds it back, with the live step as its weight generation,
and names CTL_FLIP_SEQ where it is the first in that step. No context and no byte changes. What holds a sheet is log entries 35, 38, 96
and 191, when a READY generation comes into force log entry 50, and which sheet is the first in a step log entry 162. -/
def Obligations.SheetAdvances : Prop :=
  ∀ (s : State) (c : ImageCfg) (x : Sheet), s.power.logicOn = true → s.image.cfg = some c → seqsDiffer s →
    (∀ rest, s.pipe.waiting = x :: rest → mayEnter2 s = true → s.fn.phase ≠ .ready →
      ∃ (u : State) (y : Sheet), exec .sheetEnterStage2 s = .next u ∧ OnlyChanges [.pipe, .ca, .ports] s u ∧ u.pipe.waiting = rest ∧
        u.pipe.flight = s.pipe.flight ++ [y] ∧ y.seq = x.seq ∧ y.bytes = x.bytes ∧ y.stage = 2 ∧ y.gen = s.fn.inForce ∧
        y.rows.map (·.bytes) = x.rows.map (·.bytes) ∧ u.pipe.ctxs = s.pipe.ctxs ∧ u.ports.out = s.ports.out) ∧
    (firstAt s 2 = some x → mayEnter3 s x = true →
      ∃ (u : State) (y : Sheet), exec .sheetEnterStage3 s = .next u ∧ OnlyChanges [.pipe, .ca] s u ∧ flightSheet u x.seq = some y ∧ y.stage = 3 ∧
        y.gen = x.gen ∧ y.ovfBase = (windowBase s 0, windowBase s 1) ∧ u.pipe.ctxs = s.pipe.ctxs ∧
        (∀ (i : Nat) (r : Row), y.rows[i]? = some r → r.snap = ctxAt s (rowCtx r.bytes)) ∧
        ∀ seq, seq ≠ x.seq → flightSheet u seq = flightSheet s seq) ∧
    ((s.pipe.flight.find? fun y => y.stage == 3 && mayEnter4 s y && readyFor4 s y) = some x → childLinks s = [] →
      ∃ (u : State) (y : Sheet), exec .sheetEnterStage4 s = .next u ∧ OnlyChanges [.pipe, .ports, .brine] s u ∧ flightSheet u x.seq = some y ∧ 4 ≤ y.stage ∧
        y.live = s.weights.wLive ∧ y.gen = x.gen ∧ u.pipe.ctxs = s.pipe.ctxs ∧ u.ports.out = s.ports.out ∧
        u.brine.mem = s.brine.mem ∧ u.brine.live = s.brine.live ∧ u.pipe.flipDue = false ∧
        u.pipe.flipSeq = if s.pipe.flipDue then BitVec.ofNat 32 x.seq else s.pipe.flipSeq)

/-- R28, R64, R81, R108, R111: a batch that is due at a position folds its statistics block into the position's and inserts its entries into
the position's windrow, and leaves every other position of the slot, and every context, as it was. With its last batch, or at once where
the position holds no rows, the position's windrow, statistics and value sum go to its composite; a position that has graded the first
pass of a rerun again turns to the row's current pass instead (log entry 65). Which work of a position comes first is log entry 135, the
moment of a batch log entries 40 and 130, and how long a lane waits for a special function log entry 131. -/
def Obligations.ScoreBatchFolds : Prop :=
  ∀ (s : State) (c : ImageCfg) (seq leaf slot i p : Nat) (x : Sheet) (r : Row) (sl : Slot), s.image.cfg = some c → leaf < s.part.leaves →
    located s seq slot = some (x, i, p, r, sl) → mayScore s c x r p sl leaf = true → seqsDiffer s →
    let lr := sl.leafAt leaf
    let ctl := sl.ctlAt leaf
    let n := (c.leafRows leaf).length
    let f := sheetSfu s x
    let gs := batchScores s c x r sl leaf lr.nextBatch
    let stats := if n = 0 then lr.stats else combineStats f.exp2 lr.stats (statsOfBatch f ctl gs)
    let wind := if n = 0 then lr.wind else insertBatch ctl.kw ctl.theta ctl.useR lr.wind
      ((gs.filter fun q => afterResume ctl.resume ⟨q.2.1, if ctl.useR then q.2.2.r else q.2.2.g⟩).map fun q => (q.2.1, q.2.2))
    let up := leafParent (fanout s) leaf
    let last := n = 0 ∨ lr.nextBatch + 1 = batchCount n
    let again := sl.redo.isSome = true ∧ lr.redone = false
    ∃ u sl', exec (.scoreBatch seq leaf slot) s = .next u ∧ OnlyChanges [.pipe, .ca, .cb, .brine, .ports] s u ∧
      u.ports.out = s.ports.out ∧ slotOf u seq i p = some sl' ∧ (∀ k, k ≠ leaf → sl'.leafAt k = sl.leafAt k) ∧
      u.pipe.ctxs = s.pipe.ctxs ∧ u.pipe.waiting = s.pipe.waiting ∧
      (∀ q, q ≠ seq → (flightSheet u q).map (·.rows) = (flightSheet s q).map (·.rows)) ∧
      (¬last → (sl'.leafAt leaf).nextBatch = lr.nextBatch + 1 ∧ (sl'.leafAt leaf).sent = false ∧ (sl'.leafAt leaf).stats = stats ∧
        (sl'.leafAt leaf).wind = wind ∧ sl'.nodes = sl.nodes) ∧
      (last → again → (sl'.leafAt leaf).redone = true ∧ (sl'.leafAt leaf).nextBatch = 0 ∧ (sl'.leafAt leaf).sent = false ∧
        sl'.nodes = sl.nodes) ∧
      (last → ¬again → (sl'.leafAt leaf).sent = true ∧ (∀ k, k ≠ up.1 → sl'.nodeAt k = sl.nodeAt k) ∧
        ∃ o, (sl'.nodeAt up.1).arrived = (sl.nodeAt up.1).arrived ++ [(up.2, o)] ∧ o.stats = stats ∧ o.wind = wind ∧
          o.value = if r.score && sl.ctl.first then leafValue s c x leaf sl.brine else 0#32)

/-- R119: the merged windrow of children whose windrows are in rank order is in rank order, holds no token twice, and every entry of it is an
entry of a child; it has kw entries when the children hold that many tokens, and every token of theirs when they hold fewer. An
entry of a child whose token is not kept ranks behind every entry kept, and of the entries of one token the one kept is the best. -/
def Obligations.RakeMergeOrdered : Prop :=
  ∀ (kw : Nat) (ws : List (List Entry)),
    (∀ w ∈ ws, (∀ e ∈ w, fIsNan e.key = false) ∧ w.Pairwise fun a b => ranksBefore a b = true) →
    let m := rakeMerge kw ws
    m.out.length ≤ kw ∧ (m.out.map (·.tok)).Nodup ∧ (m.out.Pairwise fun a b => ranksBefore a b = true) ∧
    (∀ e ∈ m.out, ∃ w ∈ ws, e ∈ w) ∧
    (∀ T : List Nat, T.Nodup → (∀ t ∈ T, ∃ w ∈ ws, ∃ e ∈ w, e.tok = t) → min kw T.length ≤ m.out.length) ∧
    (∀ w ∈ ws, ∀ e ∈ w, e.tok ∉ m.out.map (·.tok) → ∀ x ∈ m.out, ranksBefore x e = true) ∧
    (∀ w ∈ ws, ∀ e ∈ w, ∀ x ∈ m.out, x.tok = e.tok → ranksBefore e x = false) ∧
    ∀ d ∈ m.dups, ∃ w, ws[d.1]? = some w ∧ d.2 ∈ w.map (·.tok) ∧ d.2 ∈ m.out.map (·.tok)

/-- R112: a windrow does not depend on the order in which entries of different tokens are inserted. After the last batch it holds exactly the
first min(kw, eligible) of the eligible scores in the order of R29: that many, in that order, each one eligible, and none left out that
ranks before one held; it is empty where none is eligible. Neither the order nor the grouping of the batches and lanes matters. A position
folds every batch so, and its windrow goes up as it stands, with its count. -/
def Obligations.WindrowOrderFree : Prop :=
  (∀ (kw : Nat) (es fs : List Entry), es.Perm fs → (es.map (·.tok)).Nodup → (∀ e ∈ es, fIsNan e.key = false) →
    es.foldl (insertEntry kw) [] = fs.foldl (insertEntry kw) []) ∧
  (∀ (kw : Nat) (theta : F32) (useR : Bool) (bs cs : List (List (Nat × Graded))),
    let key (x : Graded) : F32 := if useR then x.r else x.g
    let eligible := (bs.flatten.filter fun q => q.2.kind = .valid && fLe theta (key q.2)).map fun q => (⟨q.1, key q.2⟩ : Entry)
    let wind (xs : List (List (Nat × Graded))) : List Entry := xs.foldl (insertBatch kw theta useR) []
    (bs.flatten.map (·.1)).Nodup → (∀ q ∈ bs.flatten, q.2.kind = .valid → fIsNan (key q.2) = false) →
    (wind bs).length = min kw eligible.length ∧ ((wind bs).Pairwise fun a b => ranksBefore a b = true) ∧
    (∀ e ∈ wind bs, e ∈ eligible) ∧ (∀ e ∈ eligible, e ∉ wind bs → ∀ x ∈ wind bs, ranksBefore x e = true) ∧
    (eligible = [] → wind bs = []) ∧ (bs.flatten.Perm cs.flatten → wind cs = wind bs)) ∧
  ∀ (s : State) (c : ImageCfg) (x : Sheet) (r : Row) (sl : Slot) (l : Nat) (f : Sfu) (ctl : PassCtl) (watched : List Nat) (lr : LeafRow)
    (gs : List (Nat × Nat × Graded)),
    (foldBatch f ctl watched lr gs).wind = insertBatch ctl.kw ctl.theta ctl.useR lr.wind
      ((gs.filter fun q => afterResume ctl.resume ⟨q.2.1, if ctl.useR then q.2.2.r else q.2.2.g⟩).map fun q => (q.2.1, q.2.2)) ∧
    (leafOut s c x r sl l lr).wind = lr.wind

/-- R30, R119, R120 and R150: when every child of a composite has sent its output for a slot's pass, and the slots of smaller depth of a
VERIFY row have passed it, the composite merges them in child order and its output goes to its parent, or, at the head, becomes the head
merge's output. R267: for a parent's sheet the head merge's output goes up its link, as WINDROW and STATS of the slot's pass, the value sum
of a SCORE row's first pass and any watched scores as VECTOR. Child order under LOOSE is log entry 39. -/
def Obligations.RakeMergeEmits : Prop :=
  ∀ (s : State) (c : ImageCfg) (seq node slot i p : Nat) (x : Sheet) (r : Row) (sl : Slot), s.power.logicOn = true → s.image.cfg = some c →
    node < nodeCount (fanout s) → mergeSheet s seq = some x → located s seq slot = some (x, i, p, r, sl) → r.phase = .running →
    (sl.nodeAt node).sent = false → kidsIn s sl node = true → risesNow x i r sl node = true → seqsDiffer s →
    let m := mergeKids (sheetSfu s x).exp2 sl.ctl (looseOn s) (r.score && sl.ctl.first) (childCount (fanout s) (remoteCount s) node)
      (sl.nodeAt node)
    let goesUp := x.parentLink.isSome = true ∧ nodeParent (fanout s) node = none
    ∃ u sl', exec (.rakeMerge seq node slot) s = .next u ∧ OnlyChanges [.pipe, .ca, .cb, .reach] s u ∧ slotOf u seq i p = some sl' ∧
      (¬goesUp → u.reach = s.reach) ∧
      (goesUp → ∀ l, parentLink s = some l →
        let up (f : OutFlit) : Prop := ∃ xs, u.reach.sent = s.reach.sent ++ xs ∧ ((l, f) ∈ xs ∨ f ∈ (linkAt u l).queue)
        up (.windrow (r.slot0 + p) sl.ctl.pass m.out.wind) ∧ up (.stats (r.slot0 + p) sl.ctl.pass m.out.stats) ∧
        (r.score = true → sl.ctl.first = true → up (.vector (r.slot0 + p) sl.ctl.pass (.value m.out.value))) ∧
        (m.out.reports ≠ [] → up (.vector (r.slot0 + p) sl.ctl.pass (.reports m.out.reports)))) ∧
      (sl'.nodeAt node).sent = true ∧ u.pipe.ctxs = s.pipe.ctxs ∧ sl'.leaves = sl.leaves ∧
      (nodeParent (fanout s) node = none → sl'.head = some m.out) ∧
      (∀ q k, nodeParent (fanout s) node = some (q, k) → q ≠ node →
        (sl'.nodeAt q).arrived = (sl.nodeAt q).arrived ++ [(k, m.out)] ∧ sl'.head = sl.head)

/-- The head pan's decisions, mode by mode, once the outputs of a row's pass have reached it. R125, R133 and Table 6.3 for a RACE row
without cuts: with no valid token it is FULLY_MASKED and takes NO_TOKEN; otherwise it is decided on the first entry of the head merge's
windrow. R116 to R125 for one with cuts, and R138 to R144 for the selection passes of a LEDGER row: the walk over the delivered entries
decides the row on its best entry, with the harvest's mass and count, or the row takes a further pass below the last entry delivered,
which counts once in CTL_SEL_EXTRA. R138 to R141: passes 1 and 2 of a LEDGER row wait for the sheet's other LEDGER rows, and the next pass
follows with them. R150 to R155 and R167: a VERIFY row emits what its walk accepts. R157, R158, R161, R164 and R165: a SCORE row reports
its target; with GRAD it waits for the other GRAD rows' forward passes, and the backward pass begins with the last of them. No context
changes before the sheet commits. A row of a parent's sheet is decided by the root, never here (R267). Equal keys, when rows wait, the
bounds of a walk, and the record of a masked SCORE row are log entries 41, 122, 123 and 124; CTL_SEL_EXTRA is log entry 136. -/
def Obligations.UncutRaceDecides : Prop :=
  (∀ (s : State) (c : ImageCfg) (seq i : Nat) (x : Sheet) (r : Row) (sl : Slot) (o : ChildOut), s.power.logicOn = true →
    s.image.cfg = some c → mergeSheet s seq = some x → x.parentLink = none → x.rows[i]? = some r → r.phase = .running → r.slots = [sl] →
    sl.head = some o → sl.headFirst = none → rowMode r.bytes = some .race → r.snap.cuts.anyOn = false → seqsDiffer s →
    (∀ q ∈ x.rows, q.phase = .running ∨ q.phase = .done) →
    ∃ u r' q, exec (.headPassEnd seq i) s = .next u ∧ OnlyChanges [.pipe, .ca, .ports] s u ∧ u.ports.out = s.ports.out ∧
      u.pipe.ctxs = s.pipe.ctxs ∧
      rowOf u seq i = some r' ∧ r'.phase = .done ∧ r'.result = some q ∧ r'.steps = 1 ∧
      (∀ j, j ≠ i → rowOf u seq j = x.rows[j]?) ∧
      (o.stats.valid = 0 → q.token = 0xFFFFFFFF ∧ bitOf q.flags 0 = true ∧ r'.tokens = []) ∧
      ∀ e es, o.wind = e :: es → 0 < o.stats.valid → q.token = e.tok ∧ q.validCount = o.stats.valid ∧ r'.tokens = [e.tok]) ∧
  (∀ (s : State) (c : ImageCfg) (seq i : Nat) (x : Sheet) (r : Row) (sl : Slot) (o : ChildOut), s.power.logicOn = true →
    s.image.cfg = some c → mergeSheet s seq = some x → x.parentLink = none → x.rows[i]? = some r → r.phase = .running → r.dom = none →
    seqsDiffer s → childLinks s = [] → sl.head = some o →
    let f := sheetSfu s x
    let mode := rowMode r.bytes
    let cuts := r.snap.cuts
    let pass := sl.ctl.pass
    let first := (sl.headFirst.map ChildOut.stats).getD o.stats
    let ends (P : State → Row → Prop) : Prop :=
      ∃ u r', exec (.headPassEnd seq i) s = .next u ∧ OnlyChanges [.pipe, .ca, .ports] s u ∧ u.ports.out = s.ports.out ∧
        u.pipe.ctxs = s.pipe.ctxs ∧ rowOf u seq i = some r' ∧ P u r'
    let decides (tokens : List Nat) (steps : Nat) (P : ResultRec → Prop) : Prop :=
      ends fun _ r' => r'.phase = .done ∧ r'.tokens = tokens ∧ r'.steps = steps ∧ ∃ q, r'.result = some q ∧ P q
    let masked (steps : Nat) : Prop := decides [] steps fun q => q.token = 0xFFFFFFFF ∧ bitOf q.flags 0 = true ∧ q.lse = f32NegInf
    let passes (r' : Row) (ctl : PassCtl) : Prop := r'.phase = .running ∧ r'.slots.map (·.ctl) = [ctl]
    (r.slots = [sl] → mode = some .race → first.valid = 0 → masked 1) ∧
    (∀ list, r.slots = [sl] → r.snap.temp ≠ 0#32 →
      (mode = some .race ∧ cuts.anyOn = true ∧ 0 < first.valid ∧ list = []) ∨
        (mode = some .ledger ∧ 3 ≤ pass ∧ list = (r.list ++ o.wind.map (ledgerItem f first.m first.s)).take r.snap.listLen) →
      let t := thresholdsOf f cuts first.m first.s
      let w := selectPass f r.snap t first.m r.walk o.wind
      let ended := passEnd cuts w o.wind.length sl.ctl.kw
      (ended = .more → ends fun u r' => r'.walk = w ∧ r'.list = list ∧ r'.extra = true ∧
        passes r' { sl.ctl with
          pass := pass + 1, kw := furtherKw cuts w.delivered, theta := t.theta, resume := o.wind.getLast?, level := 0, ref := none
          hist := false, first := false } ∧
        u.ca.selExtra = s.ca.selExtra + (if r.extra then 0 else 1)) ∧
      (∀ b, ended ≠ .more → w.best = some b → decides [b.tok] 1 fun q =>
        q.token = b.tok ∧ q.logprob = fSub w.bestG (lseOf f first.m first.s) ∧ q.harvestCount = w.count ∧
        q.harvestMass = harvestMass w.c first.s ∧ q.bitternMass = bitternMass (harvestMass w.c first.s) ∧
        q.validCount = first.valid ∧ q.list = list ∧ q.listCount = list.length ∧
        (bitOf q.flags 3 = true ↔ 1 < w.passes) ∧ (bitOf q.flags 4 = true ↔ ended = .capped))) ∧
    (r.slots = [sl] → mode = some .ledger → pass = 1 → o.stats.valid = 0 → masked 1) ∧
    (∀ ctl, r.slots = [sl] → mode = some .ledger →
      (pass = 1 ∧ 0 < o.stats.valid ∧ ctl = { sl.ctl with
          pass := 2, kw := 1, theta := f32PosInf, level := 2, ref := some o.stats.m, hist := true, fromBuffer := true, first := false }) ∨
        (pass = 2 ∧ ctl = { sl.ctl with
          pass := 3, kw := max 1 (max r.snap.listLen (raceKw r.snap)), theta := f32NegInf, level := 0, ref := none, hist := false
          fromBuffer := true, first := false }) →
      ((∃ j q, j ≠ i ∧ x.rows[j]? = some q ∧ ledgerPast pass q = false) → ends fun _ r' => r'.phase = .ledgerWait) ∧
      ((∀ j q, j ≠ i → x.rows[j]? = some q → ledgerPast pass q = true) → ends fun _ r' => passes r' ctl)) ∧
    (∀ e es, r.slots = [sl] → mode = some .ledger → 3 ≤ pass → r.snap.temp = 0#32 → o.wind = e :: es →
      decides [e.tok] 1 fun q => q.token = e.tok ∧ q.harvestCount = 1 ∧ q.validCount = first.valid ∧
        q.list = (r.list ++ o.wind.map (ledgerItem f first.m first.s)).take r.snap.listLen) ∧
    (mode = some .verify → r.slots.head? = some sl → (∀ y ∈ r.slots, y.head.isSome = true) →
      let v := verifyCtx r
      let w := verifyRow f v
      (w.emitted = [] → masked 0) ∧
      ∀ e es, w.emitted = e :: es → decides (w.emitted.map Emitted.tok) w.emitted.length fun q =>
        q.token = e.tok ∧ q.accepted = w.accepted ∧ q.validCount = o.stats.valid ∧ q.list = w.emitted.map (verifyItem f v) ∧
        q.listCount = w.emitted.length ∧ q.logprob = fSub e.g (lseOf f o.stats.m o.stats.s) ∧
        (bitOf q.flags 1 = true ↔ w.accepted = 0 ∧ w.emitted.length = 1)) ∧
    (r.slots = [sl] → mode = some .score →
      let st := o.stats
      let gt := reportOf o.reports (rowTarget r.bytes)
      let fw := scoreForward f st.m st.s gt (if rowHasRef r.bytes then some (rowRefLp r.bytes) else none)
      let ex := exportList f st (kappaOf (rowCl r.bytes) sl.params.invT) (rowExportK r.bytes) (rowTarget r.bytes) gt o.wind
      let reports (q : ResultRec) : Prop :=
        q.token = (if st.valid = 0 then 0xFFFFFFFF else rowTarget r.bytes) ∧ q.logprob = fw.logprob ∧ q.logratio = fw.logratio ∧
        q.sqLogratio = fw.sqLogratio ∧ q.value = fAdd o.value c.valueBias ∧ q.rmsScale = r.rms ∧ q.list = ex.1 ∧
        q.listCount = ex.1.length ∧ (bitOf q.flags 6 = true ↔ gt = f32Masked) ∧ (bitOf q.flags 7 = true ↔ ex.2 = true)
      let back := isGrad r.bytes = true ∧ gt ≠ f32Masked
      let tokens := if rowAppend r.bytes then [rowTarget r.bytes] else []
      (¬back → decides tokens 0 reports) ∧
      (back → (∃ j q, j ≠ i ∧ x.rows[j]? = some q ∧ q.grad = true ∧ q.phase = .running) →
        ends fun _ r' => r'.phase = .gradWait ∧ r'.tokens = tokens ∧ r'.steps = 0 ∧ ∃ q, r'.result = some q ∧ reports q) ∧
      (back → (∀ j q, j ≠ i → x.rows[j]? = some q → q.grad = false ∨ q.phase ≠ .running) →
        ends fun _ r' => r'.phase = .backward ∧ r'.tokens = tokens ∧ r'.steps = 0 ∧ ∃ q, r'.result = some q ∧ reports q))) ∧
  ∀ (s : State) (seq i : Nat) (x : Sheet), flightSheet s seq = some x → x.parentLink.isSome = true → exec (.headPassEnd seq i) s = .next s

/-- R161 to R163: during the backward pass a position sends the chunks of a slot in ascending order, one packet each, when it is the slot's
turn at the position's array (log entry 135) and its overflow groups are there. R267: for a parent's sheet the packet with which the head's
sum of a chunk is complete sends that sum up the link to the parent as a VECTOR of the slot's pass; no other packet does. -/
def Obligations.GradientChunkSent : Prop :=
  ∀ (s : State) (c : ImageCfg) (seq leaf slot ch i p : Nat) (x : Sheet) (r : Row) (sl : Slot), s.power.logicOn = true →
    s.image.cfg = some c → leaf < s.part.leaves → mergeSheet s seq = some x → located s seq slot = some (x, i, p, r, sl) →
    r.phase = .backward → leafWorks s leaf = true → takesTurn c s x r p leaf sl = true → groupsIn c x (workAt c r p leaf sl) leaf = true →
    ch < c.hchunks → seqsDiffer s →
    let up := leafParent (fanout s) leaf
    let dy := leafDy s c x r sl leaf ch (coefsAt s c x r sl leaf ch)
    let sum := (raiseGrad (fanout s) (remoteCount s) (looseOn s) ch (fanout s).length up.1 up.2 dy
      { sl with gradSent := sl.gradSent ++ [(leaf, ch)] }).2.1
    (chunksSent sl leaf = ch →
      ∃ u sl', exec (.gradientPacket seq leaf slot ch) s = .next u ∧ OnlyChanges [.pipe, .cb, .brine, .ports, .reach] s u ∧
        u.ports.out = s.ports.out ∧ (x.parentLink = none ∨ sum = none → u.reach = s.reach) ∧
        (∀ v l, x.parentLink.isSome = true → sum = some v → parentLink s = some l →
          ∃ xs, u.reach.sent = s.reach.sent ++ xs ∧
            ((l, .vector (r.slot0 + p) sl.ctl.pass (.gradient ch v)) ∈ xs ∨
              .vector (r.slot0 + p) sl.ctl.pass (.gradient ch v) ∈ (linkAt u l).queue)) ∧
        slotOf u seq i p = some sl' ∧ chunksSent sl' leaf = ch + 1 ∧ u.pipe.ctxs = s.pipe.ctxs ∧ u.brine.live = s.brine.live) ∧
    (chunksSent sl leaf ≠ ch → exec (.gradientPacket seq leaf slot ch) s = .next s)

/-- R17, R19, R145, R155, R165, R198 to R205: the first sheet in flight commits as one event when every row has ended and its packet fits
the egress buffer: one RESULT packet with a record for each row in sheet order, SEQ and TAG of the sheet; each context that a row that
did not fail names rises by 1 in EPOCH, and no other context changes. A decided row, alone of its sheet to name its context, applies its
tokens to it in order and raises STEP by the decision's steps, and its record reports what they did: COUNT_FULL, blocks hashed, hash,
position, STEP, EPOCH and the highest status that applies; one token counts once, and takes its place behind the window. A failed row's
record carries NO_TOKEN and its status. -/
def Obligations.SheetCommits : Prop :=
  ∀ (s : State) (x : Sheet), s.power.logicOn = true → (s.pipe.flight.find? fun y => y.parentLink.isNone) = some x → x.stage = 6 →
    childrenDone s x = true → readsBefore s x = false → egressFits (resultLen x s) s = true → s.pipe.closings = [] →
    s.adapters.moves = [] → seqsDiffer s → (∀ (j : Nat) (r : Row) (q : ResultRec), x.rows[j]? = some r → r.result = some q → q.row = j) →
    ∃ u recs, exec .sheetCommit s = .next u ∧
      u.ports.out = s.ports.out ++ [⟨x.port, x.tag, BitVec.ofNat 64 x.seq, s.tide.count, 0, .result recs⟩] ∧
      recs.length = x.rows.length ∧ (∀ j (q : ResultRec), recs[j]? = some q → q.row = j) ∧
      flightSheet u x.seq = none ∧ u.pipe.lastSeq = BitVec.ofNat 32 x.seq ∧ u.pipe.waiting = s.pipe.waiting ∧
      u.brine = s.brine ∧ u.weights = s.weights ∧ u.image = s.image ∧ u.masks = s.masks ∧ u.fn = s.fn ∧
      (∀ k, (∀ r ∈ x.rows, rowCtx r.bytes ≠ k ∨ r.fail.any = true) → ctxAt u k = ctxAt s k) ∧
      (∀ k, (∃ r ∈ x.rows, rowCtx r.bytes = k ∧ r.fail.any = false) → (ctxAt u k).epoch = (ctxAt s k).epoch + 1) ∧
      (∀ (j : Nat) (r : Row), x.rows[j]? = some r → r.fail.any = true →
        ∃ q, recs[j]? = some q ∧ q.token = 0xFFFFFFFF ∧ q.status = failStatus r.fail ∧ q.flags = failBits r.fail) ∧
      ∀ (j : Nat) (r : Row) (q : ResultRec), x.rows[j]? = some r → r.fail.any = false → r.result = some q →
        (∀ (k : Nat) (t : Row), x.rows[k]? = some t → k ≠ j → rowCtx t.bytes ≠ rowCtx r.bytes ∨ t.fail.any = true) →
        let old := ctxAt s (rowCtx r.bytes)
        let new := ctxAt u (rowCtx r.bytes)
        let e := applyTokens ⟨old, 0, 0, 0⟩ r.tokens
        let flags := q.flags + (if 0 < e.drops then 512 else 0)
        new = { e.ctx with rngStep := old.rngStep + BitVec.ofNat 64 r.steps, epoch := old.epoch + 1 } ∧
        recs[j]? = some { q with
          flags := flags, status := okStatus flags, hashBlocks := e.blocks, hash := e.hash, rngStep := new.rngStep, hashPos := new.hashPos
          epoch := if q.ctx ≤ 511 ∧ (ctxAt u q.ctx).phase = .opened then (ctxAt u q.ctx).epoch else 0 } ∧
        ∀ t, r.tokens = [t] → t ≠ 0 → old.histLen < 4096 → (spGet 0 old.counts t ≠ 0 ∨ old.counts.length ≠ 8192) →
          spGet 0 new.counts t = min 0xFFFFFFFF (spGet 0 old.counts t + 1) ∧
          (∀ k, k ≠ t → spGet 0 new.counts k = spGet 0 old.counts k) ∧ new.histLen = old.histLen + 1 ∧ new.histHead = old.histHead ∧
          spGet 0 new.ring ((old.histHead + old.histLen) % 4096) = t ∧ new.countDrops = old.countDrops

/-! ### Images (16_image.md) -/

/-- R326, R328 and Table 11.4: a GO while an image is applied only reports BUSY; any other begins phase 1 and ends every patch, SEAL, adapter
load, generation load and mask load, and every flip that is not FIRING. The image in force stays until the reset. What ends at the GO
itself is log entry 69's reading. -/
def Obligations.ImageGo : Prop :=
  ∀ (s : State) (v : Word), s.power.logicOn = true → v.getLsbD 31 = true →
    (s.image.phase ≠ 0 →
      exec (.imgLoad v) s = .next { s with
        resp := some ⟨false, 0#32, false⟩, image := { s.image with err := true, kind := 0xE } }) ∧
    (s.image.phase = 0 →
      ∃ u, exec (.imgLoad v) s = .next u ∧
        OnlyChanges [.image, .weights, .adapters, .fn, .masks, .ports, .events, .reach, .resp] s u ∧
        u.image.phase = 1 ∧ u.image.err = false ∧ u.image.cfg = s.image.cfg ∧ u.image.src = s.soft.imgSrcHi ++ s.soft.imgSrcLo ∧
        u.weights.pkts = [] ∧ u.weights.seals = [] ∧ u.weights.journal = [] ∧ u.adapters.loads = [] ∧ u.fn.phase = .idle ∧
        u.masks.phase = .idle ∧ u.weights.wLive = s.weights.wLive ∧ u.weights.wSealed = s.weights.wSealed ∧
        (s.weights.flip ≠ .firing → u.weights.flip = .idle) ∧
        (s.weights.flip = .firing → u.weights.flip = .firing ∧ u.weights.arm = s.weights.arm))

/-- R315 to R330 and Table 16.6: once the engine is quiet, phase 2 frees the contexts, clears the brine store, the steps and the adapters,
puts every bed at INTACT on its default pans and requests the header; a halted engine whose head-tile test fails stays halted and reports
ABANDONED. Of the bytes read in phase 3, a bad header is refused as HEADER, what the bytes show early or the whole image breaks with its
kind and section, an older version than the floor as VERSION, and a read error or timeout as READ; a good image goes to the security
block. A PASS begins parity and a FAIL, or 10 ms of silence, refuses the image with AUTH. None changes the floor. The last part states the
kinds of Table 16.5 in their order and what the boundary cases of each report. When a check is made as the bytes stream is log entry 73's
reading, which section a fault names log entry 81's, what quiet means log entry 70's, that phase 2 is one command, after which phase 3
begins at once, log entry 71's, what a directory entry, STRUCTURE and REACH must obey log entries 79, 78 and 80's, the section of a
feature that the configuration lacks log entry 165's choice. -/
def Obligations.ImageResetAndVerdict : Prop :=
  ∀ s : State, s.power.logicOn = true →
    let refusedWith (u : State) (kind sec : Nat) : Prop :=
      u.image.cfg = none ∧ u.image.phase = 0 ∧ u.image.err = true ∧ u.image.kind = kind ∧ u.image.section_ = sec ∧
        u.power.imgFloor = s.power.imgFloor
    (s.image.phase = 1 → quiet s = true → s.fabric.halted = false → ∀ headPass,
      ∃ u, exec (.imgReset headPass) s = .next u ∧ u.image.cfg = none ∧ u.image.phase = 3 ∧ u.pipe.ctxs = [] ∧ u.brine.mem = [] ∧
        u.brine.live = 0 ∧ u.weights.wLive = 0 ∧ u.weights.wSealed = 0 ∧ u.adapters = adaptersReset ∧ u.masks.zeros = [] ∧
        u.fn.buf0 = .builtin ∧ u.fn.inForce = 0 ∧ (∀ b, bedAt u b = bedReset) ∧ u.fabric.unplaced = [] ∧ u.reach.dom = domainReset ∧
        u.pipe.waiting = s.pipe.waiting ∧ u.power = { s.power with paceAt := u.power.paceAt } ∧
        ∃ r ∈ u.ports.reads, r.kind = .image ∧ r.addr = s.image.src.toNat ∧ r.len = 64) ∧
    (s.image.phase = 1 → quiet s = true → s.fabric.halted = true →
      ∃ u, exec (.imgReset false) s = .next u ∧ refusedWith u 0xD 31 ∧ u.brine = s.brine ∧ u.fabric.halted = true ∧
        u.power.headFail = true) ∧
    (∀ r data, s.image.phase = 3 → s.power.st = .on → readOf .image s = some r → readOpen r s = true →
      let d := s.image.data ++ data
      let a := d.toArray
      let w := (d.take (imgTotal a)).toArray
      (d.length < 64 → ∃ u, exec (.readResponse .image data false) s = .next u ∧ OnlyChanges [.image, .ports] s u ∧
        u.image = { s.image with data := d }) ∧
      (64 ≤ d.length → imgHeaderOk a = false →
        ∃ u, exec (.readResponse .image data false) s = .next u ∧ refusedWith u 1 31 ∧ u.brine = s.brine) ∧
      (64 ≤ d.length → imgHeaderOk a = true → d.length < imgTotal a →
        (∀ f, earlyFault s.part a d.length = some f →
          ∃ u, exec (.readResponse .image data false) s = .next u ∧ refusedWith u f.1 f.2 ∧ u.brine = s.brine) ∧
        (earlyFault s.part a d.length = none →
          ∃ u, exec (.readResponse .image data false) s = .next u ∧ OnlyChanges [.image, .ports, .brine] s u ∧
            u.image = { s.image with data := d })) ∧
      (64 ≤ d.length → imgHeaderOk a = true → imgTotal a ≤ d.length →
        (∀ f, imageFault s.part w = some f → ∃ u, exec (.readResponse .image data false) s = .next u ∧ refusedWith u f.1 f.2) ∧
        (imageFault s.part w = none → imgVersion w < s.power.imgFloor →
          ∃ u, exec (.readResponse .image data false) s = .next u ∧ refusedWith u 0xC 31) ∧
        (imageFault s.part w = none → ¬imgVersion w < s.power.imgFloor →
          ∃ u, exec (.readResponse .image data false) s = .next u ∧ OnlyChanges [.image, .ports, .brine] s u ∧ u.image.phase = 4 ∧
            u.image.cfg = s.image.cfg ∧ u.image.checked = some (goodCfg s.part w) ∧ u.image.lastByte = s.tide.osc ∧
            readOf .image u = none ∧ u.image.authReq = some ⟨sha384 ((d.take (imgTotal a)).take (secOff w 0xFFFF)),
              arrBytes w (secOff w 0xFFFF) (secLen w 0xFFFF), s.part.variant, imgVersion w, s.reach.device⟩))) ∧
    (∀ r data, s.image.phase = 3 → s.power.st = .on → readOf .image s = some r → readOpen r s = true →
      ∃ u, exec (.readResponse .image data true) s = .next u ∧ u.brine = s.brine ∧
        refusedWith u 0 (sectionAt s.image.data.toArray s.image.data.length)) ∧
    (∀ c, s.image.phase = 4 → s.image.checked = some c →
      ∃ u, exec (.authVerdict true) s = .next u ∧ OnlyChanges [.image, .brine, .fabric, .bb, .events] s u ∧
        u.image = { s.image with phase := 5 } ∧ u.brine.live = s.brine.live ∧
        ∀ b, b < s.part.beds → (bedAt s b).phase = .intact → (bedAt u b).phase = .parityBuild) ∧
    (∀ c, s.image.phase = 4 → s.image.checked = some c →
      ∃ u, exec (.authVerdict false) s = .next u ∧ u.brine = s.brine ∧ refusedWith u 0xB (secIdx s.image.data.toArray 0xFFFF)) ∧
    (s.image.phase = 4 → s.image.lastByte + 10000000 ≤ s.tide.osc →
      ∃ u, exec .authTimeout s = .next u ∧ u.brine = s.brine ∧ refusedWith u 0xB (secIdx s.image.data.toArray 0xFFFF)) ∧
    (∀ (p : Part) (a : Array Byte),
      let checks := [dirFault a, presenceFault p a, crcFault a, targetFault p a, structFault p a, capacityFault p a, partitionFault p a,
        dataFault p a, fnFault a, reachFault a]
      let crcGood (e : DirEnt) : Prop := crc32c (arrBytes a e.off e.len) = e.crc
      imageFault p a = (checks.filterMap id).head? ∧
      (∀ q ∈ checks.zip [2, 2, 3, 4, 5, 6, 7, 8, 9, 10], ∀ f, q.1 = some f → f.1 = q.2) ∧
      (∀ t, hasSec a t = false → secIdx a t = 31) ∧
      (dirEnd a ≤ imgTotal a → arrZero a (64 + 24 * imgSections a) (dirEnd a - (64 + 24 * imgSections a)) = true →
        ∀ i e, (imgDir a)[i]? = some e → dirEntryOk a (imgDir a) i e = false →
          (∀ j x, j < i → (imgDir a)[j]? = some x → dirEntryOk a (imgDir a) j x = true) → dirFault a = some (2, i)) ∧
      (∀ q, secOf a 1 = some q → crcGood q.2 → structOk p a = true → vellOk p a = true → secLe a 1 2 1 ≤ 1 → hasSec a 4 = false →
        presenceFault p a = some (2, 31)) ∧
      (∀ i e, (imgDir a)[i]? = some e → ¬crcGood e → (∀ j x, j < i → (imgDir a)[j]? = some x → crcGood x) →
        crcFault a = some (3, i)) ∧
      ((∀ e ∈ imgDir a, crcGood e) → crcFault a = none) ∧
      (arrLe a 6 1 ≠ p.variant ∨ 1 < arrLe a 7 1 → targetFault p a = some (4, 31)) ∧
      (arrLe a 6 1 = p.variant → arrLe a 7 1 ≤ 1 → targetFault p a = none) ∧
      (secLe a 1 4 2 = 0 ∨ 128 < secLe a 1 4 2 → structFault p a = some (5, secIdx a 1)) ∧
      (structOk p a = true → hasSec a 7 = true → secLe a 7 0 4 < 50 ∨ 10000 < secLe a 7 0 4 →
        structFault p a = some (5, secIdx a 7)) ∧
      (structOk p a = true → (hasSec a 7 = true → limitsOk a = true) → hasSec a 9 = true → secLe a 9 1 1 = 1 → p.vell = false →
        structFault p a = some (5, secIdx a 9)) ∧
      (badCount a (secOff a 2 + secLen a 2) p.leaves (secOff a 2) = true → capacityFault p a = some (6, secIdx a 2)) ∧
      (∀ ws, badCount a (secOff a 2 + secLen a 2) p.leaves (secOff a 2) = false → imgPartition p a = some ws →
        arrangementOk (imgCfg a ws) = true → secLen a 3 ≠ weightsLen (imgCfg a ws) → capacityFault p a = some (6, secIdx a 3)) ∧
      (imgPartition p a = none → partitionFault p a = some (7, secIdx a 2)) ∧
      (∀ ws, imgPartition p a = some ws → imgRole a = 0 → (ws.map List.length).sum ≠ secLe a 1 20 4 →
        partitionFault p a = some (7, secIdx a 2)) ∧
      (hasSec a 6 = false → 8 < secLe a 1 34 1 → fnFault a = some (9, 31)) ∧
      (hasSec a 8 = true → 2 < secLe a 8 0 1 → reachFault a = some (10, secIdx a 8)) ∧
      (hasSec a 8 = false → reachFault a = if secLe a 1 18 1 = 0 then none else some (10, 31)) ∧
      ∀ n,
        (n < dirEnd a → earlyFault p a n = none) ∧
        (dirEnd a ≤ n → ∀ f, dirFault a = some f → earlyFault p a n = some f) ∧
        (dirEnd a ≤ n → dirFault a = none → (∀ e ∈ imgDir a, e.type = 1 ∨ e.type = 9 → e.off + e.len ≤ n) →
          (∀ f, presenceFault p a = some f → earlyFault p a n = some f) ∧
          (presenceFault p a = none → ∀ i e, (imgDir a)[i]? = some e → e.off + e.len ≤ n → ¬crcGood e →
            (∀ j x, j < i → (imgDir a)[j]? = some x → x.off + x.len ≤ n → crcGood x) → earlyFault p a n = some (3, i))))

/-- R288 and R328: in phases 6 and 7 the image comes into force with its generation and tree signature, it is counted, and phase 6 probes
every fenced pan and merge cell: one that passes is in service again, one that fails stays fenced with LASTING set and, a pan, with the
phase that failed. Buffer 1 is empty (R181); that a function-table load started in phases 3 to 5 then ends ABANDONED is log entry 142's
choice. Which units are probed, and in which order, is log entry 74's reading. -/
def Obligations.ImageApplies : Prop :=
  ∀ (s : State) (c : ImageCfg) (failing : List (UnitId × Nat)), s.power.logicOn = true → s.image.phase = 5 →
    s.image.checked = some c →
    ∃ u, exec (.imageApplied failing) s = .next u ∧ u.part = s.part ∧ u.pending = s.pending ∧ u.image.cfg = some c ∧ u.image.phase = 0 ∧
      u.image.err = s.image.err ∧ u.image.treeSig = s.image.checkedSig ∧ u.fn.buf0 = s.image.checkedGen ∧ u.fn.buf1 = .empty ∧
      u.fn.inForce = 0 ∧ u.fn.phase = .idle ∧ (s.fn.phase ≠ .idle → u.fn.err = true ∧ u.fn.kind = 4) ∧
      u.cb.imgDone = s.cb.imgDone + 1 ∧ u.weights.wLive = s.weights.wLive ∧ u.power = { s.power with paceAt := u.power.paceAt } ∧
      u.reach.widths = c.links ∧ u.reach.dom.children.length = c.remote ∧ u.tide.follower = (c.tide == 1) ∧
      (∀ p, p < s.part.pans → (panAt s p).fenced = true → (∀ k, (.pan p, k) ∉ failing) →
        (panAt u p).fenced = false ∧ (panAt u p).lasting = false ∧ probeOf u (.pan p) = none) ∧
      (∀ p k, p < s.part.pans → (panAt s p).fenced = true → failing.find? (fun q => q.1 == .pan p) = some (.pan p, k) →
        (panAt u p).fenced = true ∧ (panAt u p).lasting = true ∧ (panAt u p).failPhase = k) ∧
      (∀ p, p < s.part.pans → unitFenced s (.cell p) = true → (∀ k, (.cell p, k) ∉ failing) → unitFenced u (.cell p) = false) ∧
      (∀ p k, p < s.part.pans → unitFenced s (.cell p) = true → (.cell p, k) ∈ failing → (cellAt u p).phase = .lasting)

/-! ### Faults, probes and service (14_faults.md, 02_pans_and_tree.md) -/

/-- R24, R279, R280, R287, R290 and Table 2.5: an uncorrectable word of a member of an INTACT bed is counted, fences the pan, begins its
probe and puts the bed in REBUILDING; a fault of the head tile halts the engine; a watchdog's expiry on a merge cell moves its composite
to a free cell, and one before the limit, one of a request that stands behind a wait at a boundary port, and one of a request that waited on
a fenced unit do nothing; a detection in a fenced pan only leaves its record, and while its probe runs only marks the probe; faults of one
handshake, time-outs and scrubbed words among them, are taken by UNITTYPE and UNIT in whatever order they are told. No fault changes a
context or a bank. That a fence is in force with the command that detects the fault is log entry 52's choice; what a fenced unit counts log
entry 57's reading; that a halt ends pending patches, SEALs and loads at once log entry 62's; that the command names the wait at a
boundary port that a request stands behind, and which waits these are, log entry 148's choice. -/
def Obligations.FaultFencesUnit : Prop :=
  ∀ (s : State) (p : Nat), s.power.logicOn = true → s.image.phase = 0 → s.fabric.halted = false → p < s.part.pans →
    let keeps (u : State) : Prop :=
      OnlyChanges [.fabric, .bb, .events, .brine, .ca, .cb, .pipe, .ports, .reach, .image] s u ∧ u.pipe.ctxs = s.pipe.ctxs ∧
        u.pipe.waiting = s.pipe.waiting ∧ u.brine.live = s.brine.live ∧ u.image.cfg = s.image.cfg ∧ u.ports.out = s.ports.out
    (∀ line, (panAt s p).fenced = false → probeOf s (.pan p) = none → p % 17 ≠ 16 → (bedAt s (p / 17)).phase = .intact →
      ∃ u, exec (.fault (.pan p) ⟨.brineWord line, []⟩) s = .next u ∧ keeps u ∧ u.brine.mem = s.brine.mem ∧
        u.ca.eccUe = min 0xFF (s.ca.eccUe + 1) ∧ (panAt u p).fenced = true ∧ (panAt u p).lastKind = 1 ∧
        (bedAt u (p / 17)).phase = .rebuilding ∧ (bedAt u (p / 17)).subst = some (p % 17) ∧ (bedAt u (p / 17)).switched = false ∧
        (∃ x ∈ u.fabric.probes, x.unit = .pan p ∧ x.start = s.tide.osc ∧ x.cause = 1 ∧ x.hit = false) ∧
        ∀ b, b ≠ p / 17 → bedAt u b = bedAt s b) ∧
    (∀ line, (panAt s p).fenced = true → probeOf s (.pan p) = none →
      ∃ u, exec (.fault (.pan p) ⟨.brineWord line, []⟩) s = .next u ∧ OnlyChanges [.fabric, .bb, .events] s u ∧
        u.fabric.pans = s.fabric.pans ∧ u.fabric.beds = s.fabric.beds ∧ u.fabric.probes = s.fabric.probes) ∧
    (∀ line x, (panAt s p).fenced = true → probeOf s (.pan p) = some x →
      ∃ u, exec (.fault (.pan p) ⟨.brineWord line, []⟩) s = .next u ∧ OnlyChanges [.fabric] s u ∧
        u.fabric.pans = s.fabric.pans ∧ u.fabric.beds = s.fabric.beds ∧ probeOf u (.pan p) = some { x with hit := true }) ∧
    (∀ row, ∃ u, exec (.fault .head ⟨.headMismatch true row, []⟩) s = .next u ∧
      OnlyChanges [.fabric, .bb, .events, .ca, .cb, .pipe, .ports, .reach, .weights, .adapters] s u ∧ u.pipe.ctxs = s.pipe.ctxs ∧
      u.pipe.waiting = s.pipe.waiting ∧ u.weights.wLive = s.weights.wLive ∧ u.weights.wSealed = s.weights.wSealed ∧
      u.weights.pkts = [] ∧ u.weights.seals = [] ∧ u.adapters.loads = [] ∧ u.fabric.halted = true ∧ u.fabric.probes = [] ∧ u.events.pending.getLsbD 62 = true ∧
      ∀ seq i q, rowOf u seq i = some q → q.fail.partnerLost = true ∧ q.phase = .done) ∧
    (∀ n nb q, (cellAt s p).phase = .inUse n → probeOf s (.cell p) = none → freeCells s ≠ [] → unitThere s nb = true → q.channel ≤ 4 →
      let since := q.since
      let limit := 10 * (match s.image.cfg with | some c => c.wdog | none => 200)
      (since + limit ≤ s.tide.osc → boundaryWait s q = false → unitFenced s nb = false →
        ∃ u c, exec (.watchdogExpiry (.cell p) q nb) s = .next u ∧ keeps u ∧ (cellAt u p).phase = .fenced ∧
          c ∈ freeCells s ∧ (cellAt u c).phase = .inUse n ∧ u.fabric.unplaced = s.fabric.unplaced) ∧
      (s.tide.osc < since + limit ∨ unitFenced s nb = true ∨ boundaryWait s q = true →
        exec (.watchdogExpiry (.cell p) q nb) s = .next s)) ∧
    (∀ q : Request, boundaryWait s q = true ↔ ∃ w, q.behind = some w ∧
      match w with
      | .egress => egressWaits s = true
      | .groups l => ∃ r ∈ s.ports.reads, ∃ ch, r.kind = .overflow l ch ∨ r.kind = .windowPatch l ch ∨ r.kind = .windowReplay l ch
      | .child k => ∃ x ∈ s.pipe.flight, ∃ r ∈ x.rows, r.phase ≠ .done ∧ ∃ sl ∈ r.slots, 0 < spGet 0 sl.due k
      | .link l => linkOpen s l = true ∧ (linkAt s l).queue ≠ []
      | .load k => (readOf k s).isSome = true) ∧
    (∀ a b d e, detectThere s (a, d) = true → detectThere s (b, e) = true → mayDetect s (a, d) = true →
      unitType a * 65536 + unitNum a < unitType b * 65536 + unitNum b →
      (mayDetect s (b, e) = true → exec (.fault a ⟨d, [(b, e)]⟩) s = .next (pushMirror (detect b e (detect a d s)))) ∧
        (mayDetect s (b, e) = false → exec (.fault a ⟨d, [(b, e)]⟩) s = exec (.fault a ⟨d, []⟩) s) ∧
        exec (.fault b ⟨e, [(a, d)]⟩) s = exec (.fault a ⟨d, [(b, e)]⟩) s) ∧
    ∀ u, (∀ d, (∀ q nb, d ≠ .timeout q nb) → (∀ found, d ≠ .scrub found) → mayDetect s (u, d) = true) ∧
      ∀ q nb, mayDetect s (u, .timeout q nb) = true →
        q.since + watchdogLimit s ≤ s.tide.osc ∧ unitFenced s nb = false ∧ ∀ x, u = .pan x → (panAt s x).fenced = false

/-- R41, R283, R285 and Tables 2.5 and 2.6: the steps of a takeover and of the way back. The rebuilt spare serves the position, its bed
DEGRADED where the lost pan's fault is lasting by then (log entry 58's reading); the shadow bank follows; a returning pan gets every byte
that parity covers and then its position; and in every RESTORING bed the spare's parity is formed again. That the buffer entries of rows
that go on are formed anew where a position moves is log entry 154's choice. -/
def Obligations.TakeoverAndReturn : Prop :=
  ∀ (s : State) (b m : Nat), s.power.logicOn = true → b < s.part.beds → m < 16 →
    let served := (bedAt s b).subst = some m
    let pos := 16 * b + m
    let same (u : State) : Prop := u.weights.wLive = s.weights.wLive ∧ u.pipe.ctxs = s.pipe.ctxs ∧ u.brine.live = s.brine.live ∧
      u.image = s.image ∧ ∀ k, k ≠ b → bedAt u k = bedAt s k
    (served → (bedAt s b).phase = .rebuilding →
      ∃ u, exec (.rebuildDone b) s = .next u ∧ same u ∧ panOf u pos = 17 * b + 16 ∧ (∀ k, k ≠ pos → panOf u k = panOf s k) ∧
        ((panAt s (17 * b + m)).lasting = false → (bedAt u b).phase = .substituted) ∧
        ((panAt s (17 * b + m)).lasting = true → (bedAt u b).phase = .degraded ∧ u.events.pending.getLsbD 61 = true)) ∧
    (served → (bedAt s b).shadowLeft = true → (bedAt s b).switched = true →
      ∃ u, exec (.shadowRebuildDone b) s = .next u ∧ OnlyChanges [.fabric, .weights, .brine] s u ∧ same u ∧
        bedAt u b = { bedAt s b with shadowLeft := false } ∧ u.weights = { s.weights with recheck := true }) ∧
    (served → (bedAt s b).copying = true →
      ∃ u, exec (.returnCopyDone b) s = .next u ∧ OnlyChanges [.fabric, .brine] s u ∧ same u ∧
        bedAt u b = { bedAt s b with copying := false, copied := true }) ∧
    (served → (bedAt s b).copied = true → atBoundary s = true →
      ∃ u, exec (.leafMoveBack b) s = .next u ∧ OnlyChanges [.fabric, .bb, .events, .brine, .ca, .cb] s u ∧ same u ∧
        ((∀ x ∈ s.pipe.flight, x.stage < 4 ∨ ∀ r ∈ x.rows, r.phase = .done) → u.brine = s.brine ∧ u.ca = s.ca ∧ u.cb = s.cb) ∧
        (bedAt u b).phase = .restoring ∧ (bedAt u b).subst = none ∧ panOf u pos = 17 * b + m) ∧
    ((bedAt s b).phase = .restoring →
      ∃ u, exec (.parityDone b) s = .next u ∧ OnlyChanges [.fabric, .brine, .bb, .events] s u ∧ same u ∧
        (bedAt u b).phase = .intact)

/-- R40, R41, R73, R78 and Table 2.5: where a bed kept parity, the spare that takes a position over holds, in the live bank, the bytes the
lost pan held, and each version field of the position's directory is what the spare's and the other 15 members' fields give; a returning
pan's copy holds the spare's bytes wherever parity covers; and after PARITY_DONE the bed keeps parity at every offset that parity covers.
No other pan's byte changes. -/
def Obligations.RebuildRestoresBytes : Prop :=
  ∀ (s u : State) (b m : Nat), b < s.part.beds → m < 16 → spWf 0 s.brine.mem = true → s.brine.live ≤ 1 →
    ((bedAt s b).subst = some m → (bedAt s b).phase = .rebuilding → s.power.logicOn = true → exec (.rebuildDone b) s = .next u →
      (∀ off, off < 0x100000 → parityAt s b (s.brine.live * 0x100000 + off) →
        isSingle s = false →
        brineByte u (17 * b + 16) (s.brine.live * 0x100000 + off) = brineByte s (17 * b + m) (s.brine.live * 0x100000 + off)) ∧
      (∀ c field j, s.image.cfg = some c → field ≤ 1 → j < c.rmax → dirVersion u.weights field (16 * b + m) j =
        ((List.range 16).filter (· ≠ m)).foldl (fun x i => x ^^^ dirVersion s.weights field (16 * b + i) j) (spareVersion s.weights field b j)) ∧
      ∀ q off, off < regionSize → q ≠ 17 * b + 16 → brineByte u q off = brineByte s q off) ∧
    ((bedAt s b).subst = some m → (bedAt s b).copying = true → s.power.logicOn = true → exec (.returnCopyDone b) s = .next u →
      (∀ off, off < regionSize → brineByte u (17 * b + m) off =
        (if off < scoreBase ∨ adapterBase ≤ off then brineByte s (17 * b + 16) off else brineByte s (17 * b + m) off)) ∧
      ∀ q off, off < regionSize → q ≠ 17 * b + m → brineByte u q off = brineByte s q off) ∧
    ((bedAt s b).phase = .restoring → s.power.logicOn = true → exec (.parityDone b) s = .next u →
      (∀ off, off < regionSize → (off < scoreBase ∨ adapterBase ≤ off) → parityAt u b off) ∧
      ∀ q off, off < regionSize → q ≠ 17 * b + 16 → brineByte u q off = brineByte s q off)

/-- R282, R283, R285, R286 and R289: a probe that fails, or that takes 40 µs of the oscillator, makes its unit's fault lasting and raises
PAN_LASTING; a merge cell whose probe passes is free again and counts a transient, unless LIMIT transients then lie within the window,
which makes its fault lasting; a pan whose probe passes counts one and is out of its fence where its bed lets it: the member that the
spare serves begins its copy back, and the spare of a DEGRADED bed none of whose members is fenced puts the bed in RESTORING, whatever a
merge cell has left unplaced; LIMIT transients within the window make a pan's fault lasting too; a software probe is refused for the first
reason of R289's list that applies, reports its kind and raises PROBE_END; one that is accepted fences its unit and sets BUSY; its pass
ends BUSY and returns the unit, whatever the flap limit, and counts no transient. The oscillator as the probe's clock is log entry 147's
reading, that a pass comes after the takeover log entry 59's, when a pan returns log entry 60's, what the march leaves in its block log
entries 61's and 164's. -/
def Obligations.ProbesJudge : Prop :=
  ∀ (s : State) (p : Nat) (x : Probe), s.power.logicOn = true → p < s.part.pans →
    let marched (s u : State) (p : Nat) : Prop :=
      u.brine.live = s.brine.live ∧ ∀ q off, off < regionSize → q ≠ p → brineByte u q off = brineByte s q off
    let returned (s u : State) (p : Nat) : Prop :=
      let b := p / 17
      let bed := bedAt s b
      marched s u p ∧ (∀ k, k ≠ b → bedAt u k = bedAt s k) ∧
      (p % 17 ≠ 16 → bed.phase = .substituted → bed.subst = some (p % 17) →
        (panAt u p).fenced = false ∧ bedAt u b = { bed with copying := true }) ∧
      (p % 17 ≠ 16 → ¬(bed.phase = .substituted ∧ bed.subst = some (p % 17)) →
        (panAt u p).fenced = (panAt s p).fenced ∧ bedAt u b = bed) ∧
      (p % 17 = 16 → bed.spareProbe = true → bed.phase = .degraded → (∀ m, m < 16 → (panAt s (17 * b + m)).fenced = false) →
        (panAt u p).fenced = false ∧ (bedAt u b).phase = .restoring) ∧
      (p % 17 = 16 → ¬(bed.spareProbe = true ∧ bed.phase = .degraded ∧ ∀ m, m < 16 → (panAt s (17 * b + m)).fenced = false) →
        (panAt u p).fenced = (panAt s p).fenced ∧ (bedAt u b).phase = bed.phase)
    (∀ k v, probeOf s (.pan p) = some x → v.failPhase = some k → 1 ≤ k → k ≤ 7 →
      ∃ u, exec (.probeEnd (.pan p) v) s = .next u ∧ OnlyChanges [.fabric, .bb, .events, .cb] s u ∧ (panAt u p).lasting = true ∧
        (panAt u p).failPhase = k ∧ (panAt u p).fenced = (panAt s p).fenced ∧ u.events.pending.getLsbD 60 = true ∧
        u.cb = { s.cb with fltLasting := min 0xFF (s.cb.fltLasting + 1) } ∧ ∀ q, q ≠ p → panAt u q = panAt s q) ∧
    (probeOf s (.cell p) = some x → x.start + 40000 ≤ s.tide.osc →
      ∃ u, exec (.probeTimeout (.cell p)) s = .next u ∧ OnlyChanges [.fabric, .bb, .events, .cb] s u ∧
        (cellAt u p).phase = .lasting ∧ u.events.pending.getLsbD 60 = true) ∧
    (∀ v, probeOf s (.cell p) = some x → v.failPhase = none → crossedTo x v = none → x.cause ≠ 6 → x.hit = false →
      s.tide.osc < x.start + 40000 →
      let recent := ((cellAt s p).recent.filter fun t => decide ((s.tide.count.toNat : Int) < t + 1000000 * (s.soft.flapWindow : Int))).length
      ((s.soft.flapLimit = 0 ∨ recent + 1 < s.soft.flapLimit) →
        ∃ u, exec (.probeEnd (.cell p) v) s = .next u ∧ OnlyChanges [.fabric, .bb, .events, .cb] s u ∧ (cellAt u p).phase = .free ∧
          (cellAt u p).transient = min 0xFFFF ((cellAt s p).transient + 1) ∧
          u.cb = { s.cb with fltTransient := min 0xFFF (s.cb.fltTransient + 1) }) ∧
      (s.soft.flapLimit ≠ 0 → s.soft.flapLimit ≤ recent + 1 →
        ∃ u, exec (.probeEnd (.cell p) v) s = .next u ∧ OnlyChanges [.fabric, .bb, .events, .cb] s u ∧ (cellAt u p).phase = .lasting ∧
          u.events.pending.getLsbD 60 = true)) ∧
    (∀ v, probeOf s (.pan p) = some x → v.failPhase = none → crossedTo x v = none → x.cause ≠ 6 → x.hit = false →
      s.tide.osc < x.start + 40000 →
      let b := p / 17
      let bed := bedAt s b
      let recent := ((panAt s p).recent.filter fun t => decide ((s.tide.count.toNat : Int) < t + 1000000 * (s.soft.flapWindow : Int))).length
      ¬(bed.subst = some (p % 17) ∧ (bed.phase = .rebuilding ∨ bed.shadowLeft = true)) →
      ((s.soft.flapLimit = 0 ∨ recent + 1 < s.soft.flapLimit) →
        ∃ u, exec (.probeEnd (.pan p) v) s = .next u ∧ OnlyChanges [.brine, .fabric, .bb, .events, .cb] s u ∧
          (panAt u p).transient = min 0xFFFF ((panAt s p).transient + 1) ∧ (panAt u p).lasting = (panAt s p).lasting ∧
          u.cb = { s.cb with fltTransient := min 0xFFF (s.cb.fltTransient + 1) } ∧ returned s u p) ∧
      (s.soft.flapLimit ≠ 0 → s.soft.flapLimit ≤ recent + 1 →
        ∃ u, exec (.probeEnd (.pan p) v) s = .next u ∧ OnlyChanges [.brine, .fabric, .bb, .events, .cb] s u ∧
          (panAt u p).lasting = true ∧ (panAt u p).failPhase = (panAt s p).failPhase ∧ (panAt u p).fenced = (panAt s p).fenced ∧
          u.events.pending.getLsbD 60 = true ∧ u.cb = { s.cb with fltLasting := min 0xFF (s.cb.fltLasting + 1) } ∧ marched s u p ∧
          (∀ k, k ≠ b → bedAt u k = bedAt s k) ∧
          (p % 17 ≠ 16 → bed.phase = .substituted → bed.subst = some (p % 17) →
            (bedAt u b).phase = .degraded ∧ u.events.pending.getLsbD 61 = true))) ∧
    (∀ v u, probeOf s u = some x → v.failPhase = none → x.cause = 6 → x.hit = false → s.tide.osc < x.start + 40000 →
      (u = .pan p → ¬((bedAt s (p / 17)).subst = some (p % 17) ∧
        ((bedAt s (p / 17)).phase = .rebuilding ∨ (bedAt s (p / 17)).shadowLeft = true))) → (u = .pan p ∨ u = .cell p) →
      ∃ t, exec (.probeEnd u v) s = .next t ∧ OnlyChanges [.brine, .fabric, .bb, .events] s t ∧ t.fabric.stBusy = false ∧
        t.fabric.stResult = 1 ∧ t.fabric.stPhase = 0 ∧ t.events.pending.getLsbD 69 = true ∧
        (panAt t p).transient = (panAt s p).transient ∧ (panAt t p).recent = (panAt s p).recent ∧
        (panAt t p).lastKind = (panAt s p).lastKind ∧ (panAt t p).lasting = (panAt s p).lasting ∧
        (cellAt t p).transient = (cellAt s p).transient ∧
        (u = .pan p → returned s t p) ∧ (u = .cell p → (cellAt t p).phase = .free ∧ t.brine = s.brine)) ∧
    (∀ (v : Word) (k : Nat), v.getLsbD 31 = true →
      stRefusal s (v.getLsbD 30) (bitsOf v.toNat 14 11) (v.toNat % 2048) = some k →
      ∃ u, exec (.stProbe v) s = .next u ∧ OnlyChanges [.fabric, .events, .resp] s u ∧ u.fabric.stErr = true ∧ u.fabric.stKind = k ∧
        u.fabric.stBusy = s.fabric.stBusy ∧ u.fabric.probes = s.fabric.probes ∧ u.events.pending.getLsbD 69 = true) ∧
    (∀ v : Word, v.getLsbD 31 = true → v.getLsbD 30 = true → v.toNat % 2048 = p →
      stRefusal s true (bitsOf v.toNat 14 11) p = none →
      ∃ u, exec (.stProbe v) s = .next u ∧ u.fabric.stBusy = true ∧ u.fabric.stErr = false ∧ (cellAt u p).phase = .fenced ∧
        u.pipe.ctxs = s.pipe.ctxs ∧ u.brine = s.brine ∧ u.weights = s.weights ∧
        ∃ y ∈ u.fabric.probes, y.unit = .cell p ∧ y.cause = 6) ∧
    (∀ v : Word, v.getLsbD 31 = true → v.getLsbD 30 = false → v.toNat % 2048 = p → s.image.phase = 0 →
      stRefusal s false (bitsOf v.toNat 14 11) p = none →
      ∃ u, exec (.stProbe v) s = .next u ∧ u.fabric.stBusy = true ∧ u.fabric.stErr = false ∧ (panAt u p).fenced = true ∧
        (panAt u p).lastKind = 6 ∧ (panAt u p).transient = (panAt s p).transient ∧ u.pipe.ctxs = s.pipe.ctxs ∧ u.brine = s.brine ∧
        u.weights = s.weights ∧ (∃ y ∈ u.fabric.probes, y.unit = .pan p ∧ y.cause = 6 ∧ y.block = bitsOf v.toNat 14 11) ∧
        (p % 17 ≠ 16 → (bedAt u (p / 17)).phase = .rebuilding ∧ (bedAt u (p / 17)).subst = some (p % 17)) ∧
        (p % 17 = 16 → (bedAt u (p / 17)).phase = .degraded ∧ (bedAt u (p / 17)).spareProbe = true)) ∧
    ∀ (cell : Bool) (block : Nat),
      let busy := s.fabric.stBusy = true
      let halted := s.fabric.halted = true
      let full := cell = true ∧ ∀ q, q < s.part.pans → (cellAt s q).phase ≠ .free
      let bad (q : Nat) : Prop := s.part.pans ≤ q ∨ 9 < block ∨
        (cell = true ∧ ((cellAt s q).phase = .fenced ∨ (cellAt s q).phase = .lasting)) ∨
        (cell = false ∧ ((bedAt s (q / 17)).phase ≠ .intact ∨ (panAt s q).fenced = true))
      ∀ q, (busy → stRefusal s cell block q = some 1) ∧ (¬busy → halted → stRefusal s cell block q = some 3) ∧
        (¬busy → ¬halted → full → stRefusal s cell block q = some 2) ∧
        (¬busy → ¬halted → ¬full → (bad q → stRefusal s cell block q = some 0) ∧ (¬bad q → stRefusal s cell block q = none))

/-- R75 to R77, R279 and R291: a scrub that finds nothing moves to the next line; one that finds a correctable word counts it, in a halted
engine too, and changes no byte; a command that changes neither CTL_FLT_STATUS nor a bed's status pushes nothing, so that a damaged mirror
word stays for the checker; the mirror's checker reports every word, the summary's and each bed's, that differs from its source, with the
event, a record each and COUNT and LAST of MG_DIVERGE, and rewrites it. When a scrub is due is log entry 67's choice, and that a word
corrected before in the same pass is uncorrectable log entry 68's. -/
def Obligations.ScrubAndMirror : Prop :=
  ∀ (s : State) (p : Nat), s.power.logicOn = true → p < s.part.pans →
    let due := s.soft.scrubEn = true ∧ (panAt s p).fenced = false ∧
      spGet 0 s.brine.scrubTide p + 16 * s.soft.scrubInterval ≤ s.tide.count.toNat
    let line := spGet 0 s.brine.scrubAt p
    let next := if line = 5119 then 0 else line + 1
    (due → ∃ u, exec (.scrubRead p []) s = .next u ∧ OnlyChanges [.brine, .fabric] s u ∧ u.brine.mem = s.brine.mem ∧
      u.brine.live = s.brine.live ∧ spGet 0 u.brine.scrubAt p = next ∧ spGet 0 u.brine.scrubTide p = s.tide.count.toNat ∧
      u.fabric.pans = s.fabric.pans ∧
      (∀ q, s.fabric.mgStale = false → s.fabric.mgHeld = some q → q.1 = fltStatus s →
        (∀ b, b < s.part.beds → spGet 0 q.2 b = bedStatus s b) →
        u.fabric.mgSummary = s.fabric.mgSummary ∧ ∀ b, spGet 0 u.fabric.mgBeds b = spGet 0 s.fabric.mgBeds b)) ∧
    (∀ w, due → (p, 16 * line + w) ∉ s.brine.corrected →
      ∃ u, exec (.scrubRead p [.corrected w]) s = .next u ∧ OnlyChanges [.brine, .fabric, .ca, .bb, .events] s u ∧
        u.brine.mem = s.brine.mem ∧ spGet 0 u.brine.scrubAt p = next ∧ u.ca.eccCe = min 0xFFFFFF (s.ca.eccCe + 1) ∧
        u.fabric.pans = s.fabric.pans ∧ u.fabric.beds = s.fabric.beds) ∧
    (s.power.aoUp = true → s.fabric.mgStale = false → s.fabric.mirrorAt + 65536 ≤ s.tide.count.toNat →
      ∃ u, exec .mirrorCheck s = .next u ∧ OnlyChanges [.fabric, .bb, .events] s u ∧ u.fabric.mgSummary = fltStatus s ∧
        (∀ b, b < s.part.beds → spGet 0 u.fabric.mgBeds b = bedStatus s b) ∧ u.fabric.mirrorAt = s.tide.count.toNat ∧
        u.fabric.pans = s.fabric.pans ∧ u.fabric.beds = s.fabric.beds ∧
        let differ := (List.range (s.part.beds + 1)).filter fun i =>
          if i = 0 then s.fabric.mgSummary != fltStatus s else spGet 0 s.fabric.mgBeds (i - 1) != bedStatus s (i - 1)
        let told := differ.foldl (fun t i =>
          bbRecord 0x40 0 0 noSeq (word i) (if i = 0 then fltStatus s else bedStatus s (i - 1)) (raise srcMgmtDiverge t)) s
        (differ ≠ [] → u.events.pending.getLsbD 64 = true) ∧ u.bb = told.bb ∧ u.events = told.events ∧
          (s.fabric.divergeCount ≤ 0xFFFF → u.fabric.divergeCount = min 0xFFFF (s.fabric.divergeCount + differ.length)) ∧
          u.fabric.divergeLast = differ.getLastD s.fabric.divergeLast)

/-! ### Registers (00_scope.md R9 to R11, 18_registers.md) -/

/-- R9, R335, R336 and R346: an access that is not 32 bits wide, not aligned or outside the window ends with an error response and changes
nothing else, and so does any chip-port access while the logic domain is not up; every other read gives the register's value, 0 at every
offset that Tables 18.3 to 18.8 give no register that reads (R347: the arrays end with the part's beds, positions and pans); a register
that only holds what software wrote reads back its writable bits; a write at any offset of either port that is not a writable register's
changes nothing (Table 0.10). Of the registers with field rules: a field that must be at least 1 takes a written 0 as 1 (log entry 19's
reading), PATCH_SHARE takes a value above 8 as 8; EV_SRC_CFG sets TARGETS and PRIO of every source, of source 0 PRIO alone (R302), and a
changed TARGETS withdraws the source's offer (Table 15.2; what a withdrawn offer is, log entry 149); EV_WAKE, EV_EXT_CFG and the W1C
EV_AO_RAW change only their own bits; an input whose level a write of EV_EXT_INV inverts makes that transition, as if its raw level had
changed; RCH_LINK_CAL and RCH_MCAST_CFG set their fields, and the reports of links that leave DOWN are forgotten (log entry 16). -/
def Obligations.RegisterWrites : Prop :=
  ∀ (s : State) (v : Word),
    (∀ o n, (n ≠ 4 ∨ o % 4 ≠ 0 ∨ 0x100000 ≤ o) →
      exec (.registerWrite false o n v) s = .next { s with resp := some ⟨false, 0#32, true⟩ }) ∧
    (∀ o n, s.power.aoUp = true → (n ≠ 4 ∨ o % 4 ≠ 0 ∨ 0x1000 ≤ o) →
      exec (.registerWrite true o n v) s = .next { s with resp := some ⟨true, 0#32, true⟩ }) ∧
    (∀ o, s.power.logicOn = false → o % 4 = 0 → o < 0x100000 →
      exec (.registerWrite false o 4 v) s = .next { s with resp := some ⟨false, 0#32, true⟩ }) ∧
    (∀ mg o n, readAccess mg o n s =
      if mg = true ∧ s.power.aoUp = false then none
      else if n ≠ 4 ∨ o % 4 ≠ 0 ∨ (if mg then 0x1000 else 0x100000) ≤ o ∨ (mg = false ∧ s.power.logicOn = false) then some ⟨mg, 0#32, true⟩
      else some ⟨mg, if mg then mgValue s o else chipValue s o, false⟩) ∧
    (∀ o, ¬entryIn o (chipWrites ++ chipReads s.part) → chipValue s o = 0#32) ∧
    (∀ o, ¬entryIn o (mgWrites ++ mgReads s.part) → mgValue s o = 0#32) ∧
    (∀ o ∈ [0x32C, 0xA08, 0x10804, 0x108E4, 0x40028, 0x60108, 0x88000], chipValue s o = 0#32) ∧ mgValue s 0x10C = 0#32 ∧
    (∀ q ∈ [(0x220, 0xFFFFFFC0#32), (0x224, 0xFFFFFFFF#32), (0x228, 0xFFFFFFC0#32), (0x22C, 0xFFFFFFFF#32), (0x324, 0xFFFFFFC0#32),
        (0x328, 0xFFFFFFFF#32), (0x724, 0xFFFFFFFF#32), (0xA00, 0xFFFFFFC0#32), (0xA04, 0xFFFFFFFF#32), (0x40020, 0xFFFFFFC0#32),
        (0x40024, 0xFFFFFFFF#32), (0x60010, 0xFFFFFFFF#32), (0x60014, 0xFFFFFFFF#32)],
      s.power.logicOn = true →
      ∃ u, exec (.registerWrite false q.1 4 v) s = .next u ∧ OnlyChanges [.soft, .resp] s u ∧ chipValue u q.1 = v &&& q.2) ∧
    (∀ o, s.power.logicOn = true → o % 4 = 0 → o < 0x100000 → ¬entryIn o chipWrites →
      exec (.registerWrite false o 4 v) s = .next { s with resp := some ⟨false, 0#32, false⟩ }) ∧
    (∀ o, s.power.aoUp = true → o % 4 = 0 → o < 0x1000 → ¬entryIn o mgWrites →
      exec (.registerWrite true o 4 v) s = .next { s with resp := some ⟨true, 0#32, false⟩ }) ∧
    (s.power.logicOn = true →
      let n := v.toNat
      let wrote (o : Nat) (gs : List Group) (p : State → Prop) : Prop :=
        ∃ u, exec (.registerWrite false o 4 v) s = .next u ∧ OnlyChanges gs s u ∧ u.resp = some ⟨false, 0#32, false⟩ ∧ p u
      (∀ q ∈ [(0x218, flag 31 (bitOf n 31) + max 1 (bitsOf n 15 0)), (0x728, min 8 (bitsOf n 3 0)),
          (0x90C, fld 16 (max 1 (bitsOf n 31 16)) + bitsOf n 3 0), (0xB08, max 1 (bitsOf n 15 0)),
          (0x7010C, fld 16 (max 1 (bitsOf n 31 16)) + fld 8 (max 1 (bitsOf n 15 8)))],
        wrote q.1 [.soft, .resp] fun u => chipValue u q.1 = word q.2) ∧
      (∀ k, k < 256 → wrote (0x10400 + 4 * k) [.events, .resp] fun u =>
        let ts := if k = 0 then 0 else bitsOf n 15 8
        srcCfg u.events k = (ts, bitsOf n 3 0) ∧ (∀ j, j ≠ k → srcCfg u.events j = srcCfg s.events j) ∧
        (∀ j, j < 256 → u.events.withdrawn.getLsbD j =
          (s.events.withdrawn.getLsbD j || decide (j = k ∧ (srcCfg s.events k).1 ≠ ts))) ∧
        { u.events with cfg := s.events.cfg, withdrawn := s.events.withdrawn } = s.events) ∧
      (∀ w, w < 8 → wrote (0x100E0 + 4 * w) [.events, .resp] fun u =>
        (∀ k, k < 256 → u.events.wake.getLsbD k =
          (decide (0 < k) && if k / 32 = w then v.getLsbD (k % 32) else s.events.wake.getLsbD k)) ∧
        { u.events with wake := s.events.wake } = s.events) ∧
      wrote 0x10900 [.events, .resp] (fun u => u.events = { s.events with
        stuckMs := max 1 (bitsOf n 31 24), chatLimit := bitsOf n 23 16, holdoff := bitsOf n 15 8, minPulse := max 1 (bitsOf n 7 0) }) ∧
      wrote 0x10918 [.events, .resp] (fun u => u.events = { s.events with aoRaw := s.events.aoRaw &&& ~~~v }) ∧
      (v = s.events.inv → wrote 0x10904 [.resp] fun _ => True) ∧
      (∀ i t, i < 32 → s.events.inputs.length = 32 → s.power.st = .on → s.power.aoUp = true → v = s.events.inv ^^^ (1#32 <<< i) →
        exec (.extInputChange i (!(extInput s.events i).raw)) s = .next t →
        wrote 0x10904 [.events, .resp] fun u =>
          u.events.inv = v ∧ { u.events with inv := t.events.inv, inputs := t.events.inputs } = t.events ∧
          ∀ j, j < 32 → extInput u.events j = { extInput t.events j with raw := (extInput s.events j).raw }) ∧
      (∀ l, l < 8 → s.reach.links.length = 8 → wrote (0x70018 + 16 * l) [.reach, .resp] fun u =>
        linkAt u l = { linkAt s l with calTx := bitsOf n 31 16, calRx := bitsOf n 15 0 } ∧ ∀ m, m ≠ l → linkAt u m = linkAt s m) ∧
      (∀ g, g < 16 → s.reach.groups.length = 16 →
        ∃ u, exec (.registerWrite false (0x70200 + 8 * g) 4 v) s = .next u ∧ u.resp = some ⟨false, 0#32, false⟩ ∧
          u.part = s.part ∧ u.pending = s.pending ∧ u.power = s.power ∧ u.image = s.image ∧ u.weights = s.weights ∧
          (let x := mcastAt u g
           x.join = bitOf n 31 ∧ x.source = bitOf n 30 ∧ x.upLink = bitsOf n 26 24 ∧ x.down = bitsOf n 23 16 ∧
           x.reports = (mcastAt s g).reports.filter fun p => bitOf (bitsOf n 23 16) p.1) ∧
          ∀ j, j ≠ g → mcastCfg u j = mcastCfg s j))

/-- What the spec states of registers at reset, read as register views of the state after reset of each configuration: CTL_ID, CTL_PACE,
CTL_TREE_LIST0 and other chip-port registers, some of which read 0, and the management port's. -/
def Obligations.ResetValues : Prop :=
  (∀ p : Part,
    let s := State.resetOf p
    (∀ q ∈ [(0x040, 0x01000000#32), (0x104, 0#32), (0x180, 0x00000090#32), (0x184, 0x35800000#32), (0x200, 0#32), (0x218, 0x80000010#32),
        (0x330, 0#32), (0x60C, 0xFFFFFFFF#32), (0x600, 0x00001000#32), (0x604, 0x00001800#32), (0x700, 0#32), (0x708, 0#32),
        (0x724, 0x000F4240#32), (0x728, 1#32), (0x800, 0x01000000#32), (0x804, 1#32), (0x818, 0#32), (0x900, 0#32), (0x90C, 0x03E80003#32),
        (0x910, 0x002800C8#32), (0xA0C, 0#32), (0xB00, 0#32), (0xB08, 0x64#32)], chipValue s q.1 = q.2) ∧
    (∀ q ∈ [(0x40010, 1#32), (0x40014, 0#32), (0x60000, 0#32), (0x60008, 0x70000000#32), (0x60104, 0x00200003#32), (0x70000, 0x0000FFFF#32),
        (0x70004, 4#32), (0x7001C, 1#32), (0x7010C, 0x00140800#32), (0x10060, 0xFFFFFFFF#32), (0x10000, 0#32), (0x10404, 0x100#32),
        (0x10400, 0#32), (0x1080C, 0x00080000#32), (0x10900, 0x01403208#32)], chipValue s q.1 = q.2) ∧
    (∀ q ∈ [(0x004, 0x41000000#32), (0x100, 5#32), (0x104, 0#32), (0x108, 2#32), (0x120, 0#32), (0x300, 0x800#32), (0x304, 0#32),
        (0x500, 0#32), (0x504, 0x00200003#32), (0x508, 0#32)], mgValue s q.1 = q.2)) ∧
  [Part.d1024, .d256, .d64].map (fun p => (chipValue (State.resetOf p) 0, chipValue (State.resetOf p) 0x100, chipValue (State.resetOf p) 0x810)) =
    [(0xDB110002#32, 0x40003377#32, 0x01000040#32), (0xDB110001#32, 0x30000377#32, 0x01000010#32),
      (0xDB110000#32, 0x20000077#32, 0x01000004#32)]

/-! ### Reach links (13_reach_fabric.md) -/

/-- R251, R252, R258 to R260 and Table 13.4: how a link trains and falls. Three good codewords on each lane, with its LANE and consecutive
GSEQ, and a skew of at most 32 ns lead from LOCK to HAIL with a stage 1 hail frame, sent again every 10 µs; a stage 1 is answered with a
stage 2, a stage 2 leads to CHECK, which fails for the first reason of R260 that applies. Symbols and codewords are counted in LOCK as
after it. A flit that fills a group leaves as one codeword on each lane. When a lane is locked is log entry 146's reading, the form of a
codeword log entry 145's, that a group leaves only when the engine's own flits fill it, and the order of its bits, log entry 155's, the
credit a flit returns log entry 93's, PHY_READY log entry 94's, what a DETACH written before UP does log entry 159's. -/
def Obligations.LinkTraining : Prop :=
  ∀ (s : State) (l : Nat), s.power.logicOn = true → s.reach.links.length = 8 → s.reach.phy.length = 8 → l < 8 →
    let k := linkAt s l
    let g := [Group.reach, .events, .bb, .tide, .pipe, .ports, .ca, .cb, .weights, .adapters, .brine]
    let downFor (u : State) (reason : Nat) : Prop :=
      (linkAt u l).phase = .down ∧ (linkAt u l).reason = reason ∧ (linkAt u l).wait = true ∧ (linkAt u l).queue = [] ∧
        (linkAt u l).replay = [] ∧ (linkAt u l).credits = [64, 1024, 1024, 1024]
    let ready (t : State) : Prop :=
      (linkAt t l).queue = [] ∧ 0 < (linkAt t l).credits.getD 0 0 ∧ (linkAt t l).replay.length < 1024
    (s.reach.phy.getD l false = false → linkOfLane s l = some l → k.phase = .down → k.en = true → k.wait = false →
      (∀ i, i < k.width → i ≠ 0 → s.reach.phy.getD (l + i) false = true) →
      ∃ u, exec (.phyReadyRise l) s = .next u ∧ OnlyChanges [.reach] s u ∧ (linkAt u l).phase = .lock ∧
        u.reach.phy = s.reach.phy.set l true) ∧
    (s.reach.phy.getD l false = true → linkOfLane s l = some l → k.phase = .up →
      ∃ u, exec (.phyReadyFall l) s = .next u ∧ OnlyChanges g s u ∧ (linkAt u l).phase = .down ∧ (linkAt u l).wait = false ∧
        (linkAt u l).reason = k.reason ∧ u.events.pending.getLsbD (33 + l) = true ∧ u.reach.phy = s.reach.phy.set l false) ∧
    (∀ (lanes : List LaneSync) (gseq : Nat), k.phase = .lock → lanes.length = k.width → gseq < 65536 →
      (∀ i (x : LaneSync), lanes[i]? = some x → ∃ e1 e2 e3, e1 ≤ 15 ∧ e2 ≤ 15 ∧ e3 ≤ 15 ∧
        x.words = [(e1, i, gseq), (e2, i, (gseq + 1) % 65536), (e3, i, (gseq + 2) % 65536)]) →
      laneSkew lanes ≤ 32 →
      ∃ u, exec (.laneLock l lanes) s = .next u ∧ OnlyChanges [.reach] s u ∧ (linkAt u l).phase = .hail ∧
        (linkAt u l).skew = laneSkew lanes ∧ (linkAt u l).hailAt = s.tide.osc ∧
        (ready s → u.reach.sent = s.reach.sent ++ [(l, .hail (hailFrame s l 1))])) ∧
    (∀ lanes : List LaneSync, k.phase = .lock →
      let es := lanes.flatMap fun x => x.words.map Prod.fst
      ∃ u, exec (.laneLock l lanes) s = .next u ∧ OnlyChanges [.reach] s u ∧
        (linkAt u l).corr = min 1048575 (k.corr + (es.filter fun n => decide (n ≤ 15)).sum) ∧
        (linkAt u l).uncorr = min 0xFF (k.uncorr + (es.filter fun n => decide (15 < n)).length) ∧
        (32 < laneSkew lanes ∨ lanes.length ≠ k.width → (linkAt u l).phase = .lock ∧ u.reach.sent = s.reach.sent)) ∧
    (k.phase = .lock → k.since + 100000 ≤ s.tide.osc →
      ∃ u, exec (.linkStateTimeout l) s = .next u ∧ OnlyChanges g s u ∧ downFor u 1) ∧
    (k.phase = .hail → k.since + 1000000 ≤ s.tide.osc →
      ∃ u, exec (.linkStateTimeout l) s = .next u ∧ OnlyChanges g s u ∧ downFor u 2) ∧
    (k.phase = .up → k.lastGood + 1000 * s.soft.linkTimeout ≤ s.tide.osc →
      ∃ u, exec (.linkTimeout l) s = .next u ∧ OnlyChanges g s u ∧ downFor u 7 ∧ u.events.pending.getLsbD (33 + l) = true) ∧
    (k.phase = .hail → k.hailAt + 10000 ≤ s.tide.osc →
      ∃ u, exec (.hailResend l) s = .next u ∧ OnlyChanges [.reach] s u ∧ (linkAt u l).phase = .hail ∧
        (linkAt u l).hailAt = s.tide.osc ∧
        (ready s →
          let bytes := flitBytes (flitHead 1 0 k.txSeq k.ack false true k.credit.1 k.credit.2) (hailFrame s l 1)
          u.reach.sent = s.reach.sent ++ [(l, .hail (hailFrame s l 1))] ∧ u.reach.flits = s.reach.flits ++ [(l, bytes)] ∧
          u.reach.codewords = s.reach.codewords ++
            (if 0 < k.width ∧ 640 * k.width ≤ (k.group ++ bytes).length then
              (codeGroup k.gseq k.width (scramblersOf k) (k.group ++ bytes)).zipIdx.map fun w => (l, w.2, w.1.1)
             else []))) ∧
    (k.phase = .check → checkReason s l = 0 →
      ∃ u, exec (.hailCheck l) s = .next u ∧ OnlyChanges g s u ∧ u.events.pending.getLsbD (41 + l) = true ∧
        (k.detach = false → (linkAt u l).phase = .up) ∧ (k.detach = true → (linkAt u l).phase ≠ .up)) ∧
    (k.phase = .check → checkReason s l ≠ 0 →
      exec (.hailCheck l) s = .next { s with reach := { s.reach with
        links := s.reach.links.set l { k with phase := .failed, reason := checkReason s l, since := s.tide.osc } } }) ∧
    (let f (off n : Nat) : Nat := leAt k.peerFrame off n
     let own := s.reach.addr.getD 0xFFFF
     (f 1 1 ≠ 1 → checkReason s l = 3) ∧
     (f 1 1 = 1 → f 4 1 ≠ k.width → checkReason s l = 4) ∧
     (f 1 1 = 1 → f 4 1 = k.width → f 24 8 = s.reach.device.toNat → checkReason s l = 5) ∧
     (f 1 1 = 1 → f 4 1 = k.width → f 24 8 ≠ s.reach.device.toNat →
       (f 2 2 = own → own ≠ 0xFFFF → checkReason s l = 6) ∧ (f 2 2 ≠ own ∨ own = 0xFFFF → checkReason s l = 0))) ∧
    (∀ h frame, flitIn s l 1 0 true h → h.payload = padTo 244 frame →
      let a := accepted s l 0 h
      (linkAt a l).phase = .hail →
      (leAt frame 0 1 = 2 →
        ∃ u, exec (.hail l h frame) s = .next u ∧ OnlyChanges [.reach] a u ∧ (linkAt u l).phase = .check ∧
          (linkAt u l).peerFrame = frame ∧ (linkAt u l).peer = leAt frame 2 2) ∧
      (leAt frame 0 1 = 1 → ready a →
        ∃ u, exec (.hail l h frame) s = .next u ∧ OnlyChanges [.reach] a u ∧ (linkAt u l).phase = .hail ∧
          u.reach.sent = a.reach.sent ++ [(l, .hail (hailFrame a l 2))]))

/-- R258 and R261: EN = 0 takes a link down, TX_EN with it, and keeps a RETRAIN written with it; RETRAIN takes a link to DOWN or LOCK, to
train again; DETACH takes an UP link out of UP, and remembers it while the link drains, and in any other state is set until the link comes
to DOWN; a write of MG_RCH_ADDR assigns the block address, or none, and keeps the field written. The order of EN, RETRAIN and DETACH in one
write is log entry 18's reading, what DETACH does before UP log entry 159's; what an address outside the range of R261 does is log entry
15's choice, and that an engine whose address changes leaves its routes and its domain is log entry 161's. -/
def Obligations.LinkCommands : Prop :=
  ∀ (s : State) (l : Nat) (v : Word), s.reach.links.length = 8 → l < 8 →
    (s.power.logicOn = true → v.getLsbD 0 = false →
      ∃ u, exec (.linkEn l v) s = .next u ∧ (linkAt u l).phase = .down ∧ (linkAt u l).en = false ∧ (linkAt u l).txEn = false ∧
        (linkAt u l).retrain = ((linkAt s l).retrain || v.getLsbD 1) ∧ u.part = s.part ∧
        u.weights.wLive = s.weights.wLive ∧ u.image = s.image) ∧
    (s.power.logicOn = true → v.getLsbD 0 = true → v.getLsbD 1 = true →
      ∃ u, exec (.retrain l v) s = .next u ∧ (linkAt u l).en = true ∧ (linkAt u l).txEn = true ∧
        (((linkAt u l).phase = .down ∧ (linkAt u l).retrain = true) ∨ ((linkAt u l).phase = .lock ∧ (linkAt u l).retrain = false)) ∧
        u.part = s.part ∧ u.weights.wLive = s.weights.wLive ∧ u.image = s.image) ∧
    (s.power.logicOn = true → v.getLsbD 0 = true → v.getLsbD 1 = false → v.getLsbD 2 = true → (linkAt s l).phase = .up →
      ∃ u, exec (.detach l v) s = .next u ∧ (linkAt u l).phase ≠ .up ∧ u.part = s.part ∧ u.weights.wLive = s.weights.wLive ∧
        u.image = s.image ∧ ((linkAt u l).phase = .drain → (linkAt u l).detach = true)) ∧
    (s.power.logicOn = true → v.getLsbD 0 = true → v.getLsbD 1 = false → v.getLsbD 2 = true → (linkAt s l).phase ≠ .up →
      ∃ u, exec (.detach l v) s = .next u ∧ OnlyChanges [.reach, .resp] s u ∧ (linkAt u l).detach = true ∧
        ((linkAt s l).phase ≠ .down → (linkAt u l).phase = (linkAt s l).phase)) ∧
    (s.power.aoUp = true →
      let new := if v.getLsbD 16 = true ∧ 1 ≤ v.toNat % 65536 ∧ v.toNat % 65536 ≤ 0xFEFF then some (v.toNat % 65536) else none
      ∃ u, exec (.addrAssign v) s = .next u ∧ u.reach.addrField = v.toNat % 65536 ∧ u.reach.addr = new ∧ u.part = s.part ∧
        u.weights.wLive = s.weights.wLive ∧ u.image = s.image ∧
        (s.power.logicOn = false ∨ s.reach.addrTold = none ∨ s.reach.addrTold = new → OnlyChanges [.reach, .resp] s u) ∧
        (s.power.logicOn = true → u.reach.addrTold = new ∧
          (s.reach.addrTold ≠ none → s.reach.addrTold ≠ new → u.reach.routes = [] ∧
            ∀ k, childIn s k = true → (childSt u k).phase = .lost)))

/-- R252, R254 to R257: a bad flit is answered with a NAK and has no effect on what it names; a flit of another type, or a record of
another kind or length, is counted and discarded; an IDLE acknowledges what its ACK names, returns its credits and, with NAK, has
everything still unacknowledged sent again in order; a bad IDLE is answered with a NAK and names nothing; GOODBYE takes an UP link out of
UP. A link in HAIL or CHECK discards every flit but HAIL and IDLE with a NAK; in FAILED it takes none and only counts the symbols and
codewords. That every discarded flit is answered at once, and which credits a flit returns, is log entry 93's reading; how a record's end
is found in a stream is log entry 92's choice; what becomes of a flit that the link's state takes none of is log entry 192's reading. -/
def Obligations.FlitReception : Prop :=
  ∀ (s : State) (l : Nat) (h : FlitHdr) (r : RecHdr) (stp : Word) (ref : Nat), l < 8 → s.reach.links.length = 8 →
    let k := linkAt s l
    let quietQueue := k.queue = [] ∧ s.reach.mcastAcks = [] ∧ ∀ x ∈ s.reach.groups, x.holding = 0
    (listens s l false = true → flitGood h = false → (∀ v, k.stream.getD v [] = []) →
      ∀ c ∈ [Instr.fire l h stp, .admitChild l h, .depart l h, .sealed l h stp, .goodbye l h ref, .mask l [h] r ref, .progress l [h] r ref],
        ∃ u, exec c s = .next u ∧ OnlyChanges [.reach] s u ∧ u.reach.dom = s.reach.dom ∧ (linkAt u l).rxSeq = k.rxSeq ∧
          (linkAt u l).lastGood = k.lastGood ∧ ∃ n v, u.reach.sent = s.reach.sent ++ [(l, .idle k.ack true n v)]) ∧
    (∀ ty vc, flitIn s l ty vc false h → (ty ≠ 6 ∨ vc ≠ 0) → vc < 3 →
      ∃ u, exec (.fire l h stp) s = .next u ∧ OnlyChanges [.reach] (accepted s l vc h) u ∧
        u.reach.dom = (accepted s l vc h).reach.dom ∧ (linkAt u l).proto = min 0xF ((linkAt (accepted s l vc h) l).proto + 1)) ∧
    (∀ hs, recordReady s l 1 r.kind r.len hs r none → (r.kind ≠ 5 ∨ r.len ≠ 2) →
      ∃ u, exec (.mask l hs r ref) s = .next u ∧ OnlyChanges [.reach] (taken s l 1 hs r) u ∧
        u.reach.dom = (taken s l 1 hs r).reach.dom ∧ (linkAt u l).proto = min 0xF ((linkAt (taken s l 1 hs r) l).proto + 1)) ∧
    (listens s l true = true → flitGood h = true → h.type = 0 → h.nak = false → quietQueue →
      ∃ u, exec (.idle l h) s = .next u ∧ OnlyChanges [.reach, .ports] s u ∧ (linkAt u l).lastGood = s.tide.osc ∧
        (linkAt u l).replay = (if h.ackValid then ackedReplay k.replay h.ack else k.replay) ∧
        (linkAt u l).credits = (k.credits.mapIdx fun v n => if v = h.cvc then min ([64, 1024, 1024, 1024].getD v 0) (n + h.credit) else n) ∧
        (linkAt u l).rxSeq = k.rxSeq ∧ u.reach.sent = s.reach.sent ∧ u.reach.flits = s.reach.flits) ∧
    (∀ e q, listens s l true = true → flitGood h = true → h.type = 0 → h.nak = true → h.ackValid = true → quietQueue →
      k.owed = [0, 0, 0, 0] → ackedReplay k.replay h.ack = e :: q → (∀ x ∈ e :: q, x.2 < 7) →
      ∃ u, exec (.idle l h) s = .next u ∧ OnlyChanges [.reach, .ports] s u ∧ (linkAt u l).phase = k.phase ∧
        (linkAt u l).replay = (e :: q).map (fun x => (x.1, x.2 + 1)) ∧ u.reach.sent = s.reach.sent ∧
        u.reach.flits = s.reach.flits ++
          (e :: q).map fun x => (l, flitBytes (flitHead x.1.type x.1.vc x.1.seq k.ack false true 0 0) x.1.payload)) ∧
    (listens s l true = true → flitGood h = false →
      ∃ u, exec (.idle l h) s = .next u ∧ OnlyChanges [.reach] s u ∧ (linkAt u l).rxSeq = k.rxSeq ∧ (linkAt u l).lastGood = k.lastGood ∧
        (linkAt u l).replay = k.replay ∧ (linkAt u l).credits = k.credits ∧ ∃ n v, u.reach.sent = s.reach.sent ++ [(l, .idle k.ack true n v)]) ∧
    (∀ c ∈ [Instr.fire l h stp, .admitChild l h, .depart l h, .sealed l h stp, .mask l [h] r ref, .progress l [h] r ref],
      s.power.logicOn = true → (∀ v, k.stream.getD v [] = []) →
      (k.phase = .failed → exec c s = .next (countCoding l h s)) ∧
      (k.phase = .hail ∨ k.phase = .check → flitGood h = false ∨ (h.nak = false ∧ quietQueue) →
        ∃ u n v, exec c s = .next u ∧ OnlyChanges [.reach, .ports] s u ∧ u.reach.dom = s.reach.dom ∧ (linkAt u l).phase = k.phase ∧
          (linkAt u l).rxSeq = k.rxSeq ∧ (linkAt u l).corr = (linkAt (countCoding l h s) l).corr ∧
          (linkAt u l).uncorr = (linkAt (countCoding l h s) l).uncorr ∧ u.reach.sent = s.reach.sent ++ [(l, .idle k.ack true n v)])) ∧
    (∀ addr, flitIn s l 2 0 false h → h.payload = padTo 244 (leBytes 2 addr) → (linkAt (accepted s l 0 h) l).phase = .up →
      ∃ u, exec (.goodbye l h addr) s = .next u ∧ u.part = s.part ∧ (linkAt u l).phase ≠ .up)

/-- R262, R276 and R277: a ROUTE flit offers its entry at one hop more; the table is advertised every 100 µs, its ROUTE flits handed to
every UP link; an entry not offered again within 400 µs goes; a segment of a group's packet from the direction of its source goes on to
the DOWN links and is kept until the packet is whole; a whole packet of a joined group is applied as one of the switch port, a SEAL
waiting for its turn, and one that breaks a rule of the packet does nothing and is not answered; a report of a DOWN link is kept and the
group's lowest step formed again, and reported where UP_LINK carries messages, or when it comes UP (log entry 190's reading). That a
packet which comes while an image is applied is held with those of the ports, and how a packet is cut into flits, is log entry 108's
reading, that a copy waits on a DOWN link that is not open log entry 160's choice. -/
def Obligations.RoutesAndMulticast : Prop :=
  ∀ (s : State) (l : Nat) (h : FlitHdr), s.reach.links.length = 8 →
    let handed (xs : List (Nat × OutFlit)) (u : State) (m : Nat) (f : OutFlit) : Prop := (m, f) ∈ xs ∨ f ∈ (linkAt u m).queue
    (∀ e own, flitIn s l 3 0 false h → h.payload = padTo 244 (routeBytes [e]) → (accepted s l 0 h).reach.addr = some own → e.2 + 1 < 16 →
      (accepted s l 0 h).reach.routes.length < 1024 → (∀ x ∈ (accepted s l 0 h).reach.routes, x.addr ≠ e.1) →
      ∃ u, exec (.route l h [e]) s = .next u ∧ OnlyChanges [.reach] (accepted s l 0 h) u ∧
        ∃ x ∈ u.reach.routes, x.addr = e.1 ∧ x.link = l ∧ x.hops = e.2 + 1) ∧
    (∀ own, s.power.logicOn = true → s.reach.addr = some own → s.reach.advertisedAt + 100000 ≤ s.tide.osc →
      ∃ u xs, exec .routeAdvertise s = .next u ∧ OnlyChanges [.reach] s u ∧ u.reach.advertisedAt = s.tide.osc ∧
        u.reach.routes = (s.reach.routes.filter fun x => decide (x.hops < 16)) ∧ u.reach.sent = s.reach.sent ++ xs ∧
        let es := (own, 0) :: s.reach.routes.map fun e => (e.addr, e.hops)
        ∀ m i, m < 8 → (linkAt s m).phase = .up → (linkAt s m).queue = [] → 60 * i < es.length →
          handed xs u m (.route ((es.drop (60 * i)).take 60))) ∧
    (∀ x ∈ s.reach.routes, s.power.logicOn = true → x.at_ + 400000 ≤ s.tide.osc →
      ∃ u, exec (.routeAge x.addr) s = .next u ∧ OnlyChanges [.reach] s u ∧ (∀ y ∈ u.reach.routes, y.addr ≠ x.addr) ∧
        ∀ y ∈ s.reach.routes, y.addr ≠ x.addr → y.hops < 16 → y ∈ u.reach.routes) ∧
    (∀ g seg, flitIn s l 0x20 3 false h → h.payload = padTo 244 (leBytes 2 g ++ seg) → g < 16 →
      let a := accepted s l 3 h
      let x := a.reach.groups.getD g mcastReset
      let forwarded (u : State) : Prop := ∃ xs, u.reach.sent = a.reach.sent ++ xs ∧
        ∀ m, m < 8 → bitOf x.down m = true → (linkAt a m).width ≠ 0 → handed xs u m (.mcast g seg)
      a.reach.addr.isSome = true → a.reach.groups.length = 16 → x.source = false → x.upLink = l →
      (packetWhole (x.partialPkt ++ seg) = false →
        ∃ u, exec (.mcast l h g seg) s = .next u ∧ OnlyChanges [.reach, .ports] a u ∧ forwarded u ∧
          (u.reach.groups.getD g mcastReset).partialPkt = x.partialPkt ++ seg) ∧
      (packetWhole (x.partialPkt ++ seg) = true → x.join = true → classifyPkt (x.partialPkt ++ seg) = .patchPkt → a.image.phase ≠ 0 →
        ∃ u, exec (.mcast l h g seg) s = .next u ∧ OnlyChanges [.reach, .ports] a u ∧ forwarded u ∧
          (u.reach.groups.getD g mcastReset).partialPkt = [] ∧ u.ports.held = a.ports.held ++ [(2, x.partialPkt ++ seg)]) ∧
      (packetWhole (x.partialPkt ++ seg) = true → x.join = true → classifyPkt (x.partialPkt ++ seg) = .patchPkt → a.image.phase = 0 →
        let bs := x.partialPkt ++ seg
        let b := patchBlock bs
        let code := patchAckCode a.fabric.halted (noImage a) ((a.image.cfg.map ImageCfg.b).getD 0) bs
        ∃ u, exec (.mcast l h g seg) s = .next u ∧ forwarded u ∧ (u.reach.groups.getD g mcastReset).partialPkt = [] ∧
          (code ≠ 0 → OnlyChanges [.reach, .ports] a u) ∧
          (code = 0 → b.op = 2 → sealOk a b.stp = true →
            OnlyChanges [.reach, .ports, .weights] a u ∧ u.weights = { a.weights with
              seals := a.weights.seals ++ [⟨2, BitVec.ofNat 64 (leAt bs 8 8), b, a.weights.nextPkt, false⟩] }) ∧
          (code = 0 → b.op = 2 → sealOk a b.stp = false → OnlyChanges [.reach, .ports] a u))) ∧
    (∀ g (stp : Word), flitIn s l 0x21 0 false h → h.payload = padTo 244 (leBytes 2 g ++ leBytes 4 stp.toNat) → g < 16 →
      let a := accepted s l 0 h
      a.reach.addr.isSome = true → a.reach.groups.length = 16 → bitOf (a.reach.groups.getD g mcastReset).down l = true →
      ∃ u, exec (.mcastReport l h g stp) s = .next u ∧ OnlyChanges [.reach] a u ∧
        (l, stp) ∈ (u.reach.groups.getD g mcastReset).reports ∧
        let x := a.reach.groups.getD g mcastReset
        let y := u.reach.groups.getD g mcastReset
        mcastLowest u y = some y.sealedMin ∧
        (x.source = true ∨ linkOpen a x.upLink = true → y.reported = some y.sealedMin) ∧
        (x.source = false → linkOpen a x.upLink = false → y.reported = x.reported) ∧
        (x.source = false → linkOpen a x.upLink = true → x.reported ≠ some y.sealedMin →
          ∃ xs, u.reach.sent = a.reach.sent ++ xs ∧
            ((x.upLink, .mcastReport g y.sealedMin) ∈ xs ∨ .mcastReport g y.sealedMin ∈ (linkAt u x.upLink).queue)))

/-- R245, R246, R263 and Table 12.5: a follower asks its upstream neighbour every 65,536 ticks, and at once before its first measurement,
with a stamp in sixteenths of a tick; the neighbour answers with its corrected stamps; the first θ is loaded and later ones start or end a
slew, or step the tide. How stamps are corrected is log entry 88's reading, when an exchange begins log entry 87's; the
sixteenth at which a request leaves is a free value (log entry 157). -/
def Obligations.TideExchange : Prop :=
  ∀ (s : State) (l : Nat) (h : FlitHdr),
    (s.power.logicOn = true → upstream s = some l → clearToSend s l → s.tide.follower = true →
      (s.tide.measured = true → s.tide.exchangeAt + 65536 ≤ s.tide.count.toNat) →
      ∃ u, exec .tideExchange s = .next u ∧ OnlyChanges [.reach, .tide] s u ∧
        u.tide = { s.tide with exchangeAt := s.tide.count.toNat } ∧
        u.reach.sent = s.reach.sent ++ [(l, .tideReq (s.tide.count * 16 + BitVec.ofNat 64 (Config.sendFrac s.tide.osc).val).toNat)]) ∧
    (∀ (t1 : Nat) (frac : Fin 16), flitIn s l 4 0 false h → h.payload = padTo 244 (leBytes 8 t1) → clearToSend (accepted s l 0 h) l →
      let a := accepted s l 0 h
      let now := a.tide.count * 16 + BitVec.ofNat 64 frac.val
      ∃ u, exec (.tideReq l h t1 frac) s = .next u ∧ OnlyChanges [.reach] a u ∧
        u.reach.sent = a.reach.sent ++ [(l, .tideRsp t1 (rxStamp (linkAt a l) now).toNat (txStamp (linkAt a l) now).toNat)]) ∧
    (∀ (t1 t2 t3 : Nat) (frac : Fin 16), flitIn s l 5 0 false h → h.payload = padTo 244 (leBytes 8 t1 ++ leBytes 8 t2 ++ leBytes 8 t3) →
      let a := accepted s l 0 h
      let th := theta (linkAt a l) (BitVec.ofNat 64 t1) (BitVec.ofNat 64 t2) (BitVec.ofNat 64 t3)
        (a.tide.count * 16 + BitVec.ofNat 64 frac.val)
      a.tide.follower = true → upstream a = some l → a.tide.phase ≠ .holdover →
      ∃ u, exec (.tideRsp l h t1 t2 t3 frac) s = .next u ∧ OnlyChanges [.tide, .events, .bb] a u ∧
        u.tide.theta = BitVec.ofInt 32 th ∧
        (a.tide.measured = false → u.tide.measured = true ∧ u.tide.phase = .locked ∧
          u.tide.count = a.tide.count + BitVec.ofInt 64 (max 0 th)) ∧
        (a.tide.measured = true →
          (64 < th → u.tide.count = a.tide.count + BitVec.ofInt 64 th ∧ u.tide.phase = .locked ∧ u.events.pending.getLsbD 58 = true) ∧
          (3 ≤ th → th ≤ 64 → u.tide.slew = .extra ∧ u.tide.slewLeft = th ∧ u.tide.phase = .slewing ∧ u.tide.count = a.tide.count) ∧
          (-3 < th → th < 3 → u.tide.slew = .none ∧ u.tide.phase = .locked ∧ u.tide.count = a.tide.count) ∧
          (-64 ≤ th → th ≤ -3 → u.tide.slew = .withhold ∧ u.tide.slewLeft = th ∧ u.tide.count = a.tide.count) ∧
          (th < -64 → u.tide.slew = .half ∧ u.tide.slewLeft = th ∧ u.events.pending.getLsbD 58 = true ∧
            u.tide.count = a.tide.count)))

/-! ### Merge domains (13_reach_fabric.md) -/

/-- R264 to R266, R270, R271, R273, R274 and Table 13.7: what each domain message does once its flit has been accepted, and what a
boundary and the time limits do: a JOIN is answered at once with REFUSE, or with ADMIT at the next boundary; a filled slot takes no JOIN;
a child that a flip has left one step behind is sent FIRE before its ADMIT, or refused; a member admitted again starts with an empty
adapter table; a held sheet's PROGRESS goes to the parent; SEALED has the sealed steps looked at again, and ARM and DISARM go on to the
children. A child that is admitted is sent its share of every version for which its answer is still awaited. The last part states the
reasons of a REFUSE and their order. That a JOIN to an unlisted address joins nothing, and the order of the reasons, is log entry 98's
reading, that a child one step behind is admitted after a FIRE, and that its step is held against the parent's once more at the boundary,
log entry 99's, the boundary log entry 100's, what a loss ends log entry 101's, when PROGRESS is due, and what is known here of a sheet
whose work has gone up, log entries 109 and 188. -/
def Obligations.DomainMessages : Prop :=
  ∀ (s : State) (l : Nat) (h : FlitHdr),
    let g := [Group.reach, .weights, .ports, .pipe, .events, .bb, .cb, .ca, .adapters, .brine]
    let handed (t u : State) (m : Nat) (f : OutFlit) : Prop :=
      ∃ xs, u.reach.sent = t.reach.sent ++ xs ∧ ((m, f) ∈ xs ∨ f ∈ (linkAt u m).queue)
    (flitIn s l 6 0 false h →
      let a := accepted s l 0 h
      let up := parentLink a = some l
      let passed (u : State) (f : OutFlit) : Prop := ∀ k, k < a.reach.dom.children.length → childIn a k = true →
        linkOpen a (childSt a k).link = true → handed a u (childSt a k).link f
      (∀ addr sig live sld k, childSlotOf a addr = some k → a.reach.addr.isSome = true → k < a.reach.dom.children.length →
        (childSt a k).phase ≠ .admitted → (childSt a k).joinsNext = false →
        ∃ u, exec (.join l h addr sig live sld) s = .next u ∧ OnlyChanges [.reach] a u ∧
          (childSt u k).joining = some (addr, sig, live, sld) ∧ (childSt u k).link = l ∧ ∀ j, j ≠ k → childSt u j = childSt a j) ∧
      (∀ addr sig live sld k, childSlotOf a addr = some k → ((childSt a k).phase = .admitted ∨ (childSt a k).joinsNext = true) →
        exec (.join l h addr sig live sld) s = .next a) ∧
      (up → a.reach.dom.joined = true →
        ∃ u, exec (.admitChild l h) s = .next u ∧ OnlyChanges [.reach, .adapters] a u ∧ u.reach.dom.admitted = true ∧
          u.reach.dom.children = a.reach.dom.children ∧
          (a.reach.dom.left = true → u.adapters.table = List.replicate 16 adReset) ∧
          (a.reach.dom.left = false → u.adapters = a.adapters)) ∧
      (∀ why, up →
        exec (.refuse l h why) s = .next { a with reach := { a.reach with dom := { a.reach.dom with joined := false, reason := why } } }) ∧
      (∀ stp k, childHeard a l = some k →
        ∃ u, exec (.sealed l h stp) s = .next u ∧ OnlyChanges g a u ∧ u.weights.wSealed = a.weights.wSealed ∧
          u.weights.recheck = true ∧ ((childSt a k).joining = none → (childSt u k).sealed = some stp) ∧
          ∀ addr sig live sld, (childSt a k).joining = some (addr, sig, live, sld) →
            (childSt u k).joining = some (addr, sig, live, stp) ∧ (childSt u k).sealed = (childSt a k).sealed) ∧
      (∀ stp tide, up → a.reach.dom.admitted = true →
        ∃ u, exec (.domainArm l h stp tide) s = .next u ∧ OnlyChanges [.reach, .weights, .ports] a u ∧ passed u (.arm stp tide) ∧
          u.weights.flip = .armed ∧ u.weights.flipTarget = stp ∧ u.weights.flipTide = tide ∧ u.weights.wLive = a.weights.wLive) ∧
      (∀ stp tide, up → a.reach.dom.admitted = true → (a.weights.flip = .armed ∨ a.weights.flip = .window) →
        ∃ u, exec (.domainDisarm l h stp tide) s = .next u ∧ OnlyChanges [.reach, .weights, .ports] a u ∧ passed u (.disarm stp tide) ∧
          u.weights.flip = .idle ∧
          u.weights.wLive = a.weights.wLive) ∧
      (∀ stp, up → a.weights.wLive.toNat < stp.toNat →
        exec (.fire l h stp) s = .next { a with reach := { a.reach with dom := { a.reach.dom with fire := some stp } } }) ∧
      (∀ addr k, childOn a l = some k →
        ∃ u, exec (.lost l h addr) s = .next u ∧ OnlyChanges g a u ∧ lostChild a u k) ∧
      (∀ k, childOn a l = some k →
        ∃ u, exec (.depart l h) s = .next u ∧ OnlyChanges [.reach] a u ∧ (childSt u k).departing = true ∧
          (childSt u k).phase = .admitted ∧ ∀ j, j ≠ k → childSt u j = childSt a j)) ∧
    (∀ hs r bytes c k addr sig live sld, recordReady s l 2 0x86 bytes.length hs r (some bytes) →
      let a := taken s l 2 hs r
      a.image.cfg = some c → joiningOn a l = some k → (childSt a k).joining = some (addr, sig, live, sld) →
      ∃ u, exec (.placement l hs r bytes) s = .next u ∧ OnlyChanges [.reach, .events] a u ∧
        let why := refusal a c k sig live sld (bitmapTokens c.vocab bytes)
        (why = 0 → (childSt u k).joinsNext = true ∧ (childSt u k).tokens = bitmapTokens c.vocab bytes ∧
          (childSt u k).phase = (childSt a k).phase ∧ (childSt u k).live = a.weights.wLive ∧ (childSt u k).sealed = some sld ∧
          (live = a.weights.wLive → u.reach.sent = a.reach.sent) ∧
          (live ≠ a.weights.wLive → clearToSend a l → u.reach.sent = a.reach.sent ++ [(l, .fire a.weights.wLive)])) ∧
        (why ≠ 0 → (childSt u k).phase = .refused ∧ (childSt u k).joinsNext = false ∧ u.reach.dom.reason = why ∧
          (clearToSend a l → u.reach.sent = a.reach.sent ++ [(l, .refuse why)]))) ∧
    (s.power.logicOn = true → domBoundary s = true → changeWaits s = true →
      ∃ u, exec .domainChange s = .next u ∧ OnlyChanges g s u ∧
        ∀ k, k < s.reach.dom.children.length →
          ((childSt s k).departing = true → (childSt u k).phase = .departed) ∧
          let x := childSt s k
          let level := x.live = s.weights.wLive
          let behind := x.live < s.weights.wLive ∧ x.sealed = some s.weights.wLive
          let free := linkOpen s x.link = true ∧ (linkAt s x.link).queue = []
          (x.departing = false → x.joinsNext = true →
            (level ∨ behind → (childSt u k).phase = .admitted ∧ (free → handed s u x.link .admission) ∧
              ∀ c y q, s.image.cfg = some c → y ∈ s.adapters.relays → k ∈ y.await → q ∈ shareParts s c y.rank → q.1 = k → free →
                handed s u x.link (.adapter y.ver y.handle y.rank (sliceBytes y.bytes q.2.1 q.2.2))) ∧
            (behind → free → handed s u x.link (.fire s.weights.wLive)) ∧
            (¬level → ¬behind → (childSt u k).phase = .refused ∧ u.reach.dom.reason = 3 ∧
              (free → handed s u x.link (.refuse 3))))) ∧
    (∀ k x t, s.power.logicOn = true → k < 14 → childIn s k = true → x ∈ s.pipe.flight → heldBelow s k x = true → (k, t) ∈ x.upAt →
      t + 1000 * s.soft.stepTimeout ≤ s.tide.osc →
      ∃ u, exec (.stepTimeout k) s = .next u ∧ OnlyChanges g s u ∧ lostChild s u k) ∧
    (∀ x ∈ s.pipe.flight, s.power.logicOn = true → seqsDiffer s → progressDue s x = true →
      ∃ u y, exec .progressSend s = .next u ∧ OnlyChanges [.pipe, .reach] s u ∧ flightSheet u x.seq = some y ∧
        y.progressAt = s.tide.osc ∧ y.rows = x.rows ∧
        ∀ m, parentLink s = some m → (linkAt s m).queue = [] → handed s u m (.progress (outerSeq x))) ∧
    (∀ (c : ImageCfg) k sig (live sld : Word) toks x, c.children[k]? = some x →
      let f := (linkAt s (childSt s k).link).peerFrame
      let why := refusal s c k sig live sld toks
      let signed := leAt sig 0 4 = (sigWord0 s).toNat ∧ leAt f 16 8 = x.sig.toNat
      let sized := leAt f 32 2 = c.hchunks ∧ leAt f 36 4 = c.vocab
      let stepped := live = s.weights.wLive ∨ live < s.weights.wLive ∧ sld = s.weights.wLive
      let shared := ∃ t ∈ toks, (c.place t).isSome = true ∨ ∃ j, j < s.reach.dom.children.length ∧ j ≠ k ∧
        ((childSt s j).phase = .admitted ∨ (childSt s j).joinsNext = true) ∧ t ∈ (childSt s j).tokens
      (¬signed → why = 1) ∧ (signed → ¬sized → why = 2) ∧ (signed → sized → ¬stepped → why = 3) ∧
      (signed → sized → stepped → c.allowOverlap = false → shared → why = 4) ∧
      (signed → sized → stepped → (c.allowOverlap = true ∨ ¬shared) → why = 0))

/-- R42, R266 to R271 and Table 13.6: what each record from the parent does at an admitted member once its last flit has come and the
record has been taken from its stream. How a record's end is found is log entry 92's choice; of which sheet a slot's records are, and that a
row of a parent names no context here, is log entry 103's reading; that two sheets of a parent are kept, and whose entries are counted,
log entry 104's; in which order adapters are written log entry 106's; the stage of a sheet that opens, and when a row latches its bitmap,
log entry 107's; that a control word announces the lists of its slot, which the slot awaits, log entry 187's choice; that a list which was
not announced and comes while its slot is scored starts the slot's first pass again log entry 163's; that a row which opens while a position
is unplaced, or while the sheet is not open at every remote child, ends with PARTNER_LOST and that the parent is told nothing, log entries
175 and 186. -/
def Obligations.ParentRecords : Prop :=
  ∀ (s : State) (l : Nat) (hs : List FlitHdr) (r : RecHdr),
    let a := taken s l 1 hs r
    let ready (kind len : Nat) (content : Option (List Byte)) : Prop := recordReady s l 1 kind len hs r content
    let slotIs (u : State) (x : Sheet) (i p : Nat) (f : Slot → Slot) : Prop := ∀ sl, slotOf a x.seq i p = some sl → slotOf u x.seq i p = some (f sl)
    let listed (sl : Slot) : Slot :=
      if sl.ctl.first && sl.head.isNone then { sl with leaves := [], nodes := sl.rerunNodes ((fanout a).getD 0 0) } else sl
    let handed (t u : State) (m : Nat) (f : OutFlit) : Prop :=
      ∃ xs, u.reach.sent = t.reach.sent ++ xs ∧ ((m, f) ∈ xs ∨ f ∈ (linkAt u m).queue)
    fromParent a l = true → seqsDiffer a →
    (∀ seq live gen slots order, ready 1 24 (some (sheetOpenBytes seq live gen slots order)) →
      ∃ u x, exec (.sheetOpen l hs r seq live gen slots order) s = .next u ∧
        (changeWaits a = false → OnlyChanges [.reach, .pipe, .ports] a u) ∧
        x ∈ u.pipe.flight ∧ x.seq = innerSeq seq ∧ x.parentLink = some l ∧ x.live = live ∧ x.stage = 3 ∧ x.rows = [] ∧
        x.gen = bufferFor a gen ∧ u.reach.dom.cur = innerSeq seq ∧
        (a.weights.wLive.toNat < live.toNat → u.reach.dom.fire = some live)) ∧
    (∀ c x, ready 2 64 none → flightSheet a (innerSeq c.tag) = some x →
      ∃ u y q, exec (.rowCtl l hs r c) s = .next u ∧ OnlyChanges [.reach, .pipe] a u ∧ flightSheet u (innerSeq c.tag) = some y ∧
        y.rows = x.rows ++ [q] ∧ q.slot0 = r.slot ∧ q.dom = some c ∧ q.slots.map Slot.awaits = [c.lists] ∧
        q.fail.partnerLost = (anyUnplaced a || decide (((x.upAt.map Prod.fst).filter (childIn a)).length ≠ remoteCount a)) ∧
        (q.fail.any = true ↔ rowReason a x c ≠ 0 ∨ q.fail.partnerLost = true) ∧ (q.fail.any = true → q.phase = .done)) ∧
    (∀ bs x i p, ready 3 264 (some bs) → memberSlot a r.slot = some (x, i, p) →
      ∃ u, exec (.brine l hs r bs) s = .next u ∧ OnlyChanges [.reach, .pipe] a u ∧
        slotIs u x i p fun sl => { sl with brine := sl.brine ++ brineChunkOf bs }) ∧
    (∀ bs c x i p, ready 4 (12 * (bs.length / 12)) (some bs) → a.image.cfg = some c → memberSlot a r.slot = some (x, i, p) →
      let own := (domGraderOf bs).filterMap (graderPlace c)
      let held := addEntries (heldEntries x) own
      ∀ q, rowOf a x.seq i = some q →
        (q.fail.any = true → ∃ u, exec (.grader l hs r bs) s = .next u ∧ OnlyChanges [.reach, .pipe] a u ∧
          slotIs u x i p fun sl => { sl with awaits := { sl.awaits with grader := false } }) ∧
        (q.fail.any = false → (∀ n ∈ held, n.2 ≤ 65536) →
          ∃ u, exec (.grader l hs r bs) s = .next u ∧ OnlyChanges [.reach, .pipe, .ports, .ca] a u ∧
            slotIs u x i p fun sl => listed { sl with grader := sl.grader ++ own, awaits := { sl.awaits with grader := false } }) ∧
        (q.fail.any = false → (∃ n ∈ held, 65536 < n.2) →
          ∃ u q', exec (.grader l hs r bs) s = .next u ∧ OnlyChanges [.reach, .pipe, .ca] a u ∧
            u.ca = { a.ca with graderOvf := a.ca.graderOvf + 1 } ∧ rowOf u x.seq i = some q' ∧ q'.fail.poisoned = true ∧ q'.phase = .done)) ∧
    (∀ ref x i p, ready 5 2 (some (leBytes 2 ref)) → memberSlot a r.slot = some (x, i, p) →
      ∃ u, exec (.mask l hs r ref) s = .next u ∧ OnlyChanges [.reach, .pipe, .ports] a u ∧
        slotIs u x i p (fun sl => listed { sl with awaits := { sl.awaits with mask := false } }) ∧
        ∀ q, rowOf a x.seq i = some q → ∃ q', rowOf u x.seq i = some q' ∧ q'.snap = { q.snap with maskRef := ref } ∧
          q'.mask = if 4 ≤ x.stage ∧ q.dom.isSome = true ∧ ref ≠ 0xFFFF then some (spGet [] a.masks.zeros ref) else q.mask) ∧
    (∀ toks x i p, ready 6 (4 * toks.length) (some (toks.flatMap (leBytes 4))) → memberSlot a r.slot = some (x, i, p) →
      ∃ u, exec (.watch l hs r toks) s = .next u ∧ OnlyChanges [.reach, .pipe, .ports] a u ∧
        slotIs u x i p fun sl => listed { sl with watch := sl.watch ++ toks, awaits := { sl.awaits with watch := false } }) ∧
    (∀ c x i p q, ready 7 64 none → flightSheet a (innerSeq c.tag) = some x → x.slotAt r.slot = some (i, p) →
      x.rows[i]? = some q → q.fail.any = false →
      ∃ u q', exec (.pass l hs r c) s = .next u ∧ OnlyChanges [.reach, .pipe, .ports] a u ∧ rowOf u (innerSeq c.tag) i = some q' ∧
        q'.dom = some c ∧ q'.phase = if c.backward then .backward else .running) ∧
    (∀ seq, ready 8 8 (some (leBytes 8 seq)) →
      ∃ u, exec (.abort l hs r seq) s = .next u ∧ OnlyChanges [.reach, .pipe, .ports] a u ∧ flightSheet u (innerSeq seq) = none ∧
        u.pipe.ctxs = a.pipe.ctxs) ∧
    (∀ v handle rank bs c first, ready 9 (8 + bs.length) (some (adapterRecBytes v handle rank bs)) → a.image.cfg = some c → a.adapters.records = [] →
      v < a.adapters.table.length → (adEntry a v).phase = .free → freeRun a (slotsNeeded c a.part.leaves rank) = some first →
      sourceOk c a.part.leaves rank bs = true → slotsWritable a = true →
      ∃ u, exec (.adapter l hs r v handle rank bs) s = .next u ∧ OnlyChanges [.reach, .adapters, .brine] a u ∧
        adEntry u v = ⟨.current, handle, rank, first, slotsNeeded c a.part.leaves rank, false⟩ ∧ u.adapters.records = [] ∧
        (a.reach.dom.children ≠ [] → (⟨v, handle, rank, bs, childIdx a⟩ : Relay) ∈ u.adapters.relays) ∧
        (a.reach.dom.children = [] → handed a u l (.adapterDone v 0)) ∧
        ∀ k, k ≠ v → adEntry u k = adEntry a k) ∧
    (∀ v handle rank bs c, ready 9 (8 + bs.length) (some (adapterRecBytes v handle rank bs)) → a.image.cfg = some c → a.adapters.records = [] →
      (adEntry a v).phase ≠ .free →
      ∃ u, exec (.adapter l hs r v handle rank bs) s = .next u ∧ OnlyChanges [.adapters, .events] a u ∧
        u.adapters.records = [(v, handle, rank, bs)] ∧ u.events.pending.getLsbD 52 = true) ∧
    (∀ v, ready 10 2 (some (leBytes 2 v)) →
      ∃ u, exec (.adapterFree l hs r v) s = .next u ∧ OnlyChanges [.reach, .adapters, .brine] a u ∧ adEntry u v = adReset)

/-- R267, R269, R270 and R273, for records from an admitted child: a record of an output that the child owes joins what has come of it, and
the whole output reaches the head merge; a REJECT ends the row, with GEN_MISMATCH at the root for reason 2; PROGRESS renews the
child's time for the sheet; ADAPTER_DONE ends the load's wait for the child, or the load with BAD_FIELD, and at a member the wait of its
relay, with the answer to its own parent once no child is awaited or one has refused. R237: an output's statistics take their place in the
order in which the statistics came. Of which output a record is, where
a rerun has replaced one, is log entry 102's reading; how a record's end is found log entry 92's choice; which bytes of a VECTOR are
stated log entry 144's. -/
def Obligations.ChildRecords : Prop :=
  ∀ (s : State) (l k : Nat) (hs : List FlitHdr) (r : RecHdr),
    let a := taken s l 2 hs r
    let ready (kind len : Nat) (content : Option (List Byte)) : Prop := recordReady s l 2 kind len hs r content
    childOn a l = some k → seqsDiffer a →
    (∀ x i p q sl, owedAt a k r.slot r.pass = some (x, i, p, q, sl) →
      let part := partOf (sl.nodeAt 0) k
      let becomes (c : Instr) (y : Slot) : Prop :=
        ∃ u, exec c s = .next u ∧ OnlyChanges [.pipe] a u ∧ slotOf u x.seq i p = some y ∧ u.pipe.ctxs = a.pipe.ctxs
      (∀ es, ready 0x81 (4 + 8 * es.length) (some (windrowBytes es)) → part.wind = none →
        becomes (.windrow l hs r es)
          (takePart a k q (sl.putNode 0 ((sl.nodeAt 0).forget (remoteIndex a k))) ⟨some (es.map fun e => ⟨e.1, e.2⟩), none, none, none⟩)) ∧
      (∀ bs, ready 0x82 160 (some bs) →
        becomes (.stats l hs r bs) (takePart a k q sl { part with stats := some (statsOf bs) })) ∧
      (∀ bs w, ready 0x82 160 (some bs) → part.wind = some w → q.phase = .running → q.score = false → sl.watch = [] →
        owes sl k = 1 →
        ∃ u y, exec (.stats l hs r bs) s = .next u ∧ slotOf u x.seq i p = some y ∧ owes y k = 0 ∧
          (remoteIndex a k ∉ (sl.nodeAt 0).statsOrder → (y.nodeAt 0).statsOrder = (sl.nodeAt 0).statsOrder ++ [remoteIndex a k]) ∧
          ∃ o, (y.nodeAt 0).arrived = (sl.nodeAt 0).arrived ++ [(remoteIndex a k, o)] ∧ o.wind = w ∧ o.stats = statsOf bs) ∧
      (∀ v, ready 0x83 4 (some (vectorTail (.value v))) → becomes (.vector l hs r (.value v)) (takePart a k q sl { part with value := some v })) ∧
      (∀ rs, ready 0x83 (8 * rs.length) (some (vectorTail (.reports rs))) →
        becomes (.vector l hs r (.reports rs)) (takePart a k q sl { part with reports := some rs }))) ∧
    (∀ why x i p, ready 0x84 r.len none →
      (a.pipe.flight.findSome? fun x =>
        (x.slotOf r.slot).bind fun q => if 0 < owes q.2.2.2 k then some (x, q.1, q.2.1) else none) = some (x, i, p) →
      ∃ u q, exec (.reject l hs r why) s = .next u ∧ OnlyChanges [.pipe, .reach, .events, .ports] a u ∧ rowOf u x.seq i = some q ∧
        q.fail.any = true ∧ q.phase = .done ∧
        (why = 2 → x.parentLink = none → u.events.pending.getLsbD 56 = true)) ∧
    (∀ x t, ready 0x85 8 (some (leBytes 8 (outerSeq x))) → x ∈ a.pipe.flight → (k, t) ∈ x.upAt →
      ∃ u y, exec (.progress l hs r (outerSeq x)) s = .next u ∧ OnlyChanges [.pipe] a u ∧ flightSheet u x.seq = some y ∧
        (k, a.tide.osc) ∈ y.upAt ∧ y.rows = x.rows) ∧
    (∀ v result y m, ready 0x87 3 (some (leBytes 2 v ++ leBytes 1 result)) → a.adapters.relays = [y] → y.ver = v → parentLink a = some m →
      let left := y.await.filter (· != k)
      let answered (u : State) : Prop := u.adapters = { a.adapters with relays := [] } ∧ ∃ xs, u.reach.sent = a.reach.sent ++ xs ∧
        ((m, .adapterDone v result) ∈ xs ∨ .adapterDone v result ∈ (linkAt u m).queue)
      ∃ u, exec (.adapterDone l hs r v result) s = .next u ∧ OnlyChanges [.adapters, .reach] a u ∧
        (result = 1 → answered u) ∧ (result = 0 → left = [] → answered u) ∧
        (result = 0 → left ≠ [] → u.reach = a.reach ∧ u.adapters = { a.adapters with relays := [{ y with await := left }] })) ∧
    (∀ v x rest result, ready 0x87 3 (some (leBytes 2 v ++ leBytes 1 result)) → (∀ y ∈ a.adapters.relays, y.ver ≠ v) →
      a.adapters.loads = x :: rest → x.ver = some v →
      (x.written = false → result = 0 →
        ∃ u, exec (.adapterDone l hs r v result) s = .next u ∧ OnlyChanges [.adapters] a u ∧
          u.adapters.loads = { x with await := x.await.filter (· != k) } :: rest) ∧
      (result = 1 →
        ∃ u, exec (.adapterDone l hs r v result) s = .next u ∧ OnlyChanges [.adapters, .ports, .reach, .events] a u ∧
          u.ports.out = a.ports.out ++ [⟨x.port, x.tag, 0, a.tide.count, 0, .patchAck { x.block with ack := 2, version := 0 }⟩]))

/-! ### Invariants -/

/-- The state after reset of every configuration meets the invariant. R307: under the invariant no target's stack is deeper than the 16
priorities. -/
def Obligations.InvariantAtResetAndDepth : Prop :=
  (∀ p : Part, Inv (State.resetOf p)) ∧
  (∀ (e : Events) (x : EvTarget), EventsOk e → x ∈ e.targets → x.stack.length ≤ 16)

/-- R301 and R306 to R308, over the whole machine: every step keeps the event controller's invariant and the canonical form of the brine
store, whatever the command. -/
def Obligations.StepKeepsInvariant : Prop := ∀ s u : State, Inv s → step s = .next u → Inv u

/-- R331: no step lowers the version floor, and none changes the configuration of the part. -/
def Obligations.FloorNeverFalls : Prop :=
  ∀ s u : State, step s = .next u → s.power.imgFloor.toNat ≤ u.power.imgFloor.toNat ∧ u.part = s.part
end

