-- ==== Sys2Proof/Laws/Bytes.lean ====
section
/-!
SUPPORT. Slices of byte strings: zeros at the end change none, a slice within a part is the part's, one past the end is zeros.
-/

set_option Elab.async false

namespace Sys2Proof.Laws

/-- Zeros at the end of a byte string change no slice of it. -/
theorem slice_zeros (bs : List Byte) (n off m : Nat) : sliceBytes (bs ++ List.replicate n 0) off m = sliceBytes bs off m := by
  unfold sliceBytes
  simp only [List.drop_append, List.take_append, List.drop_replicate, List.take_replicate, List.length_append,
    List.length_replicate, List.append_assoc, List.replicate_append_replicate]
  congr 2
  simp only [List.length_take, List.length_drop]
  omega

theorem leAt_zeros (bs : List Byte) (n off m : Nat) : leAt (bs ++ List.replicate n 0) off m = leAt bs off m := by
  rw [leAt, leAt, slice_zeros]

/-- A slice within a part of a byte string is a slice of the part. -/
theorem slice_part (a b c : List Byte) (n off m : Nat) (h : off + m ≤ b.length) (hn : n = a.length + off) :
    sliceBytes (a ++ (b ++ c)) n m = sliceBytes b off m := by
  subst hn
  have : ((a ++ (b ++ c)).drop (a.length + off)).take m = (b.drop off).take m := by
    rw [List.drop_append, List.drop_eq_nil_of_le (Nat.le_add_right ..), Nat.add_sub_cancel_left, List.nil_append,
      List.drop_append_of_le_length (by omega), List.take_append_of_le_length (by rw [List.length_drop]; omega)]
  rw [sliceBytes, sliceBytes, this]

/-- A slice past the end is zeros. -/
theorem slice_past (bs : List Byte) (off m : Nat) (h : bs.length ≤ off) : sliceBytes bs off m = List.replicate m 0 := by
  simp [sliceBytes, List.drop_eq_nil_of_le h]

end Sys2Proof.Laws
end

