-- ==== Sys2Proof/Laws/Sparse.lean ====
section
/-!
SUPPORT. Sparse arrays: a read after a write, and the canonical form that every operation on brine-store memory keeps.
-/

set_option Elab.async false

namespace Sys2Proof.Machine

variable {α : Type} [DecidableEq α]

/-- The first index of a list lies above `i`. -/
theorem spWf_cons_iff (d : α) (i : Nat) (v : α) (l : List (Nat × α)) :
    spWf d ((i, v) :: l) = true ↔ v ≠ d ∧ (∀ p ∈ l, i < p.1) ∧ spWf d l = true := by
  induction l generalizing i v with
  | nil => simp [spWf]
  | cons q l ih =>
    obtain ⟨j, w⟩ := q
    constructor
    · intro h
      simp only [spWf, Bool.and_eq_true, bne_iff_ne, ne_eq, decide_eq_true_eq] at h
      refine ⟨h.1.1, ?_, h.2⟩
      intro p hp
      rcases List.mem_cons.mp hp with rfl | hp
      · exact h.1.2
      · exact Nat.lt_trans h.1.2 (((ih j w).mp h.2).2.1 p hp)
    · rintro ⟨h1, h2, h3⟩
      simp only [spWf, Bool.and_eq_true, bne_iff_ne, ne_eq, decide_eq_true_eq]
      exact ⟨⟨h1, h2 (j, w) (by simp)⟩, h3⟩

/-- Filtering keeps the canonical form. -/
theorem spWf_filter (d : α) (f : Nat × α → Bool) (l : List (Nat × α)) (h : spWf d l = true) : spWf d (l.filter f) = true := by
  induction l with
  | nil => simp [spWf]
  | cons q l ih =>
    obtain ⟨i, v⟩ := q
    obtain ⟨h1, h2, h3⟩ := (spWf_cons_iff d i v l).mp h
    by_cases hf : f (i, v) = true
    · rw [List.filter_cons_of_pos hf]
      exact (spWf_cons_iff d i v _).mpr ⟨h1, fun p hp => h2 p (List.mem_filter.mp hp).1, ih h3⟩
    · rw [List.filter_cons_of_neg hf]
      exact ih h3

omit [DecidableEq α] in
/-- What `spPut` lists. -/
theorem mem_spPut {l : List (Nat × α)} {k : Nat} {v : α} {p : Nat × α} (h : p ∈ spPut l k v) : p = (k, v) ∨ p ∈ l := by
  induction l with
  | nil => simpa [spPut] using h
  | cons q l ih =>
    obtain ⟨i, w⟩ := q
    simp only [spPut] at h
    split at h
    · simpa using h
    · split at h
      · rcases List.mem_cons.mp h with h | h
        · exact .inl h
        · exact .inr (List.mem_cons_of_mem _ h)
      · rcases List.mem_cons.mp h with h | h
        · exact .inr (by simp [h])
        · exact (ih h).imp id (List.mem_cons_of_mem _)

/-- Putting a value other than the default keeps the canonical form. -/
theorem spWf_spPut (d : α) (l : List (Nat × α)) (k : Nat) (v : α) (hv : v ≠ d) (h : spWf d l = true) : spWf d (spPut l k v) = true := by
  induction l with
  | nil => simp [spPut, spWf, hv]
  | cons q l ih =>
    obtain ⟨i, w⟩ := q
    obtain ⟨h1, h2, h3⟩ := (spWf_cons_iff d i w l).mp h
    simp only [spPut]
    split
    · rename_i hk
      refine (spWf_cons_iff d k v _).mpr ⟨hv, ?_, h⟩
      intro p hp
      rcases List.mem_cons.mp hp with rfl | hp
      · exact hk
      · exact Nat.lt_trans hk (h2 p hp)
    · split
      · rename_i hik
        subst hik
        exact (spWf_cons_iff d _ v _).mpr ⟨hv, h2, h3⟩
      · rename_i hk hik
        refine (spWf_cons_iff d i w _).mpr ⟨h1, ?_, ih h3⟩
        intro p hp
        rcases mem_spPut hp with rfl | hp
        · simp only; omega
        · exact h2 p hp

/-- A write keeps the canonical form. -/
theorem spWf_spSet (d : α) (l : List (Nat × α)) (k : Nat) (v : α) (h : spWf d l = true) : spWf d (spSet d l k v) = true := by
  unfold spSet
  split
  · exact spWf_filter d _ l h
  · rename_i hv
    exact spWf_spPut d l k v hv h

/-- Writing a list keeps the canonical form. -/
theorem spWf_spWrite (d : α) (vs l) (k : Nat) (h : spWf d l = true) : spWf (α := α) d (spWrite d l k vs) = true := by
  induction vs generalizing l k with
  | nil => simpa [spWrite] using h
  | cons v vs ih => exact ih _ _ (spWf_spSet d l k v h)

/-- Laying sparse entries over a list keeps the canonical form. -/
theorem spWf_spOverlay (d : α) (es l) (off : Nat) (h : spWf d l = true) : spWf (α := α) d (spOverlay d l off es) = true := by
  induction es generalizing l with
  | nil => simpa [spOverlay] using h
  | cons e es ih => exact ih _ (spWf_spSet d l _ _ h)

/-- Clearing a range keeps the canonical form. -/
theorem spWf_spClear (d : α) (l : List (Nat × α)) (lo hi : Nat) (h : spWf d l = true) : spWf d (spClear l lo hi) = true :=
  spWf_filter d _ l h

omit [DecidableEq α] in
/-- A read at the index put gives the value. -/
theorem spGet_spPut_self (d : α) (l : List (Nat × α)) (k : Nat) (v : α) : spGet d (spPut l k v) k = v := by
  induction l with
  | nil => simp [spPut, spGet]
  | cons q l ih =>
    obtain ⟨i, w⟩ := q
    simp only [spPut]
    split
    · simp [spGet]
    · split
      · simp [spGet]
      · rename_i h; simp [spGet, h, ih]

omit [DecidableEq α] in
/-- Any other index reads as before. -/
theorem spGet_spPut_ne (d : α) (l : List (Nat × α)) (k j : Nat) (v : α) (hj : j ≠ k) : spGet d (spPut l k v) j = spGet d l j := by
  induction l with
  | nil => simp [spPut, spGet, Ne.symm hj]
  | cons q l ih =>
    obtain ⟨i, w⟩ := q
    simp only [spPut]
    split
    · simp [spGet, Ne.symm hj]
    · split
      · rename_i h; subst h; simp [spGet, Ne.symm hj]
      · simp [spGet, ih]

omit [DecidableEq α] in
/-- A removed index reads as the default. -/
theorem spGet_spDel_self (d : α) (l : List (Nat × α)) (k : Nat) : spGet d (spDel l k) k = d := by
  induction l with
  | nil => simp [spDel, spGet]
  | cons q l ih =>
    obtain ⟨i, w⟩ := q
    unfold spDel at ih ⊢
    by_cases h : i = k
    · rw [List.filter_cons_of_neg (by simp [h])]; exact ih
    · rw [List.filter_cons_of_pos (by simp [h])]; simp [spGet, h, ih]

omit [DecidableEq α] in
/-- Any other index reads as before. -/
theorem spGet_spDel_ne (d : α) (l : List (Nat × α)) (k j : Nat) (hj : j ≠ k) : spGet d (spDel l k) j = spGet d l j := by
  induction l with
  | nil => simp [spDel, spGet]
  | cons q l ih =>
    obtain ⟨i, w⟩ := q
    unfold spDel at ih ⊢
    by_cases h : i = k
    · subst h
      rw [List.filter_cons_of_neg (by simp)]; simp [spGet, Ne.symm hj, ih]
    · rw [List.filter_cons_of_pos (by simp [h])]; simp [spGet, ih]

/-- A read after a write to the same index gives the value written. -/
@[simp] theorem spGet_spSet_self (d : α) (l : List (Nat × α)) (k : Nat) (v : α) : spGet d (spSet d l k v) k = v := by
  unfold spSet
  split
  · rename_i h; rw [h]; exact spGet_spDel_self d l k
  · exact spGet_spPut_self d l k v

/-- A write leaves every other index alone. -/
theorem spGet_spSet_ne (d : α) (l : List (Nat × α)) (k j : Nat) (v : α) (hj : j ≠ k) : spGet d (spSet d l k v) j = spGet d l j := by
  unfold spSet
  split
  · exact spGet_spDel_ne d l k j hj
  · exact spGet_spPut_ne d l k j v hj

/-- Writing a list: the index `k + i` reads element `i`, every other one what it read before. -/
theorem spGet_spWrite (d : α) (vs : List α) (l : List (Nat × α)) (k j : Nat) :
    spGet d (spWrite d l k vs) j = if h : k ≤ j ∧ j < k + vs.length then vs[j - k]'(by omega) else spGet d l j := by
  induction vs generalizing l k with
  | nil => rw [spWrite, dif_neg (by simp only [List.length_nil]; omega)]
  | cons v vs ih =>
    rw [spWrite, ih]
    by_cases hj : j = k
    · subst hj
      have h1 : ¬(j + 1 ≤ j ∧ j < j + 1 + vs.length) := by omega
      rw [dif_neg h1, spGet_spSet_self, dif_pos ⟨Nat.le_refl _, by simp⟩]
      simp
    · rw [spGet_spSet_ne d l k j v hj]
      by_cases hr : k ≤ j ∧ j < k + (v :: vs).length
      · have h2 : k + 1 ≤ j ∧ j < k + 1 + vs.length := by simp at hr; omega
        rw [dif_pos hr, dif_pos h2]
        have e : j - k = (j - (k + 1)) + 1 := by omega
        simp [e]
      · have h2 : ¬(k + 1 ≤ j ∧ j < k + 1 + vs.length) := by simp at hr; omega
        rw [dif_neg hr, dif_neg h2]

omit [DecidableEq α] in
/-- A range read is the reads of its indices. -/
theorem spRead_eq (d : α) (l : List (Nat × α)) (k n : Nat) : spRead d l k n = (List.range n).map fun i => spGet d l (k + i) := by
  have key : ∀ (l : List (Nat × α)) (i : Nat), i < n →
      spGet d (l.filter fun p => decide (k ≤ p.1) && decide (p.1 < k + n)) (k + i) = spGet d l (k + i) := by
    intro l i hi
    induction l with
    | nil => rfl
    | cons q l ih =>
      obtain ⟨j, w⟩ := q
      by_cases hj : k ≤ j ∧ j < k + n
      · rw [List.filter_cons_of_pos (by simp [hj])]; simp [spGet, ih]
      · rw [List.filter_cons_of_neg (by simp; omega)]
        have : j ≠ k + i := by omega
        simp [spGet, this, ih]
  unfold spRead
  exact List.map_congr_left fun i hi => key l i (List.mem_range.mp hi)

/-- A byte of the store after a write of a pan's region: the bytes written, and every other byte as before. -/
theorem brineByte_brineWrite (s : State) (p off : Nat) (bs : List Byte) (q o : Nat) :
    brineByte (brineWrite p off bs s) q o =
      if h : p * regionSize + off ≤ q * regionSize + o ∧ q * regionSize + o < p * regionSize + off + bs.length then
        bs[q * regionSize + o - (p * regionSize + off)]'(by omega)
      else brineByte s q o := by
  simp only [brineByte, brineWrite, State.updBrine]
  exact spGet_spWrite 0 bs _ _ _

end Sys2Proof.Machine
end

