-- ==== Sys2Proof/Laws/State.lean ====
section
/-!
SUPPORT. One lemma per field of the state per update of a group: the group takes its new value and every other field is unchanged.
-/

set_option Elab.async false

namespace Sys2Proof.Machine

/-! ### State.updPower -/

@[simp] theorem State.updPower_part (s : State) (f : Power → Power) : (s.updPower f).part = s.part := rfl
@[simp] theorem State.updPower_power (s : State) (f : Power → Power) : (s.updPower f).power = f s.power := rfl
@[simp] theorem State.updPower_tide (s : State) (f : Power → Power) : (s.updPower f).tide = s.tide := rfl
@[simp] theorem State.updPower_soft (s : State) (f : Power → Power) : (s.updPower f).soft = s.soft := rfl
@[simp] theorem State.updPower_ca (s : State) (f : Power → Power) : (s.updPower f).ca = s.ca := rfl
@[simp] theorem State.updPower_cb (s : State) (f : Power → Power) : (s.updPower f).cb = s.cb := rfl
@[simp] theorem State.updPower_ports (s : State) (f : Power → Power) : (s.updPower f).ports = s.ports := rfl
@[simp] theorem State.updPower_pipe (s : State) (f : Power → Power) : (s.updPower f).pipe = s.pipe := rfl
@[simp] theorem State.updPower_masks (s : State) (f : Power → Power) : (s.updPower f).masks = s.masks := rfl
@[simp] theorem State.updPower_fn (s : State) (f : Power → Power) : (s.updPower f).fn = s.fn := rfl
@[simp] theorem State.updPower_brine (s : State) (f : Power → Power) : (s.updPower f).brine = s.brine := rfl
@[simp] theorem State.updPower_weights (s : State) (f : Power → Power) : (s.updPower f).weights = s.weights := rfl
@[simp] theorem State.updPower_adapters (s : State) (f : Power → Power) : (s.updPower f).adapters = s.adapters := rfl
@[simp] theorem State.updPower_image (s : State) (f : Power → Power) : (s.updPower f).image = s.image := rfl
@[simp] theorem State.updPower_fabric (s : State) (f : Power → Power) : (s.updPower f).fabric = s.fabric := rfl
@[simp] theorem State.updPower_bb (s : State) (f : Power → Power) : (s.updPower f).bb = s.bb := rfl
@[simp] theorem State.updPower_events (s : State) (f : Power → Power) : (s.updPower f).events = s.events := rfl
@[simp] theorem State.updPower_reach (s : State) (f : Power → Power) : (s.updPower f).reach = s.reach := rfl
@[simp] theorem State.updPower_resp (s : State) (f : Power → Power) : (s.updPower f).resp = s.resp := rfl
@[simp] theorem State.updPower_pending (s : State) (f : Power → Power) : (s.updPower f).pending = s.pending := rfl

/-! ### State.updTide -/

@[simp] theorem State.updTide_part (s : State) (f : TideSt → TideSt) : (s.updTide f).part = s.part := rfl
@[simp] theorem State.updTide_power (s : State) (f : TideSt → TideSt) : (s.updTide f).power = s.power := rfl
@[simp] theorem State.updTide_tide (s : State) (f : TideSt → TideSt) : (s.updTide f).tide = f s.tide := rfl
@[simp] theorem State.updTide_soft (s : State) (f : TideSt → TideSt) : (s.updTide f).soft = s.soft := rfl
@[simp] theorem State.updTide_ca (s : State) (f : TideSt → TideSt) : (s.updTide f).ca = s.ca := rfl
@[simp] theorem State.updTide_cb (s : State) (f : TideSt → TideSt) : (s.updTide f).cb = s.cb := rfl
@[simp] theorem State.updTide_ports (s : State) (f : TideSt → TideSt) : (s.updTide f).ports = s.ports := rfl
@[simp] theorem State.updTide_pipe (s : State) (f : TideSt → TideSt) : (s.updTide f).pipe = s.pipe := rfl
@[simp] theorem State.updTide_masks (s : State) (f : TideSt → TideSt) : (s.updTide f).masks = s.masks := rfl
@[simp] theorem State.updTide_fn (s : State) (f : TideSt → TideSt) : (s.updTide f).fn = s.fn := rfl
@[simp] theorem State.updTide_brine (s : State) (f : TideSt → TideSt) : (s.updTide f).brine = s.brine := rfl
@[simp] theorem State.updTide_weights (s : State) (f : TideSt → TideSt) : (s.updTide f).weights = s.weights := rfl
@[simp] theorem State.updTide_adapters (s : State) (f : TideSt → TideSt) : (s.updTide f).adapters = s.adapters := rfl
@[simp] theorem State.updTide_image (s : State) (f : TideSt → TideSt) : (s.updTide f).image = s.image := rfl
@[simp] theorem State.updTide_fabric (s : State) (f : TideSt → TideSt) : (s.updTide f).fabric = s.fabric := rfl
@[simp] theorem State.updTide_bb (s : State) (f : TideSt → TideSt) : (s.updTide f).bb = s.bb := rfl
@[simp] theorem State.updTide_events (s : State) (f : TideSt → TideSt) : (s.updTide f).events = s.events := rfl
@[simp] theorem State.updTide_reach (s : State) (f : TideSt → TideSt) : (s.updTide f).reach = s.reach := rfl
@[simp] theorem State.updTide_resp (s : State) (f : TideSt → TideSt) : (s.updTide f).resp = s.resp := rfl
@[simp] theorem State.updTide_pending (s : State) (f : TideSt → TideSt) : (s.updTide f).pending = s.pending := rfl

/-! ### State.updSoft -/

@[simp] theorem State.updSoft_part (s : State) (f : SoftRegs → SoftRegs) : (s.updSoft f).part = s.part := rfl
@[simp] theorem State.updSoft_power (s : State) (f : SoftRegs → SoftRegs) : (s.updSoft f).power = s.power := rfl
@[simp] theorem State.updSoft_tide (s : State) (f : SoftRegs → SoftRegs) : (s.updSoft f).tide = s.tide := rfl
@[simp] theorem State.updSoft_soft (s : State) (f : SoftRegs → SoftRegs) : (s.updSoft f).soft = f s.soft := rfl
@[simp] theorem State.updSoft_ca (s : State) (f : SoftRegs → SoftRegs) : (s.updSoft f).ca = s.ca := rfl
@[simp] theorem State.updSoft_cb (s : State) (f : SoftRegs → SoftRegs) : (s.updSoft f).cb = s.cb := rfl
@[simp] theorem State.updSoft_ports (s : State) (f : SoftRegs → SoftRegs) : (s.updSoft f).ports = s.ports := rfl
@[simp] theorem State.updSoft_pipe (s : State) (f : SoftRegs → SoftRegs) : (s.updSoft f).pipe = s.pipe := rfl
@[simp] theorem State.updSoft_masks (s : State) (f : SoftRegs → SoftRegs) : (s.updSoft f).masks = s.masks := rfl
@[simp] theorem State.updSoft_fn (s : State) (f : SoftRegs → SoftRegs) : (s.updSoft f).fn = s.fn := rfl
@[simp] theorem State.updSoft_brine (s : State) (f : SoftRegs → SoftRegs) : (s.updSoft f).brine = s.brine := rfl
@[simp] theorem State.updSoft_weights (s : State) (f : SoftRegs → SoftRegs) : (s.updSoft f).weights = s.weights := rfl
@[simp] theorem State.updSoft_adapters (s : State) (f : SoftRegs → SoftRegs) : (s.updSoft f).adapters = s.adapters := rfl
@[simp] theorem State.updSoft_image (s : State) (f : SoftRegs → SoftRegs) : (s.updSoft f).image = s.image := rfl
@[simp] theorem State.updSoft_fabric (s : State) (f : SoftRegs → SoftRegs) : (s.updSoft f).fabric = s.fabric := rfl
@[simp] theorem State.updSoft_bb (s : State) (f : SoftRegs → SoftRegs) : (s.updSoft f).bb = s.bb := rfl
@[simp] theorem State.updSoft_events (s : State) (f : SoftRegs → SoftRegs) : (s.updSoft f).events = s.events := rfl
@[simp] theorem State.updSoft_reach (s : State) (f : SoftRegs → SoftRegs) : (s.updSoft f).reach = s.reach := rfl
@[simp] theorem State.updSoft_resp (s : State) (f : SoftRegs → SoftRegs) : (s.updSoft f).resp = s.resp := rfl
@[simp] theorem State.updSoft_pending (s : State) (f : SoftRegs → SoftRegs) : (s.updSoft f).pending = s.pending := rfl

/-! ### State.updCa -/

@[simp] theorem State.updCa_part (s : State) (f : CountersA → CountersA) : (s.updCa f).part = s.part := rfl
@[simp] theorem State.updCa_power (s : State) (f : CountersA → CountersA) : (s.updCa f).power = s.power := rfl
@[simp] theorem State.updCa_tide (s : State) (f : CountersA → CountersA) : (s.updCa f).tide = s.tide := rfl
@[simp] theorem State.updCa_soft (s : State) (f : CountersA → CountersA) : (s.updCa f).soft = s.soft := rfl
@[simp] theorem State.updCa_ca (s : State) (f : CountersA → CountersA) : (s.updCa f).ca = f s.ca := rfl
@[simp] theorem State.updCa_cb (s : State) (f : CountersA → CountersA) : (s.updCa f).cb = s.cb := rfl
@[simp] theorem State.updCa_ports (s : State) (f : CountersA → CountersA) : (s.updCa f).ports = s.ports := rfl
@[simp] theorem State.updCa_pipe (s : State) (f : CountersA → CountersA) : (s.updCa f).pipe = s.pipe := rfl
@[simp] theorem State.updCa_masks (s : State) (f : CountersA → CountersA) : (s.updCa f).masks = s.masks := rfl
@[simp] theorem State.updCa_fn (s : State) (f : CountersA → CountersA) : (s.updCa f).fn = s.fn := rfl
@[simp] theorem State.updCa_brine (s : State) (f : CountersA → CountersA) : (s.updCa f).brine = s.brine := rfl
@[simp] theorem State.updCa_weights (s : State) (f : CountersA → CountersA) : (s.updCa f).weights = s.weights := rfl
@[simp] theorem State.updCa_adapters (s : State) (f : CountersA → CountersA) : (s.updCa f).adapters = s.adapters := rfl
@[simp] theorem State.updCa_image (s : State) (f : CountersA → CountersA) : (s.updCa f).image = s.image := rfl
@[simp] theorem State.updCa_fabric (s : State) (f : CountersA → CountersA) : (s.updCa f).fabric = s.fabric := rfl
@[simp] theorem State.updCa_bb (s : State) (f : CountersA → CountersA) : (s.updCa f).bb = s.bb := rfl
@[simp] theorem State.updCa_events (s : State) (f : CountersA → CountersA) : (s.updCa f).events = s.events := rfl
@[simp] theorem State.updCa_reach (s : State) (f : CountersA → CountersA) : (s.updCa f).reach = s.reach := rfl
@[simp] theorem State.updCa_resp (s : State) (f : CountersA → CountersA) : (s.updCa f).resp = s.resp := rfl
@[simp] theorem State.updCa_pending (s : State) (f : CountersA → CountersA) : (s.updCa f).pending = s.pending := rfl

/-! ### State.updCb -/

@[simp] theorem State.updCb_part (s : State) (f : CountersB → CountersB) : (s.updCb f).part = s.part := rfl
@[simp] theorem State.updCb_power (s : State) (f : CountersB → CountersB) : (s.updCb f).power = s.power := rfl
@[simp] theorem State.updCb_tide (s : State) (f : CountersB → CountersB) : (s.updCb f).tide = s.tide := rfl
@[simp] theorem State.updCb_soft (s : State) (f : CountersB → CountersB) : (s.updCb f).soft = s.soft := rfl
@[simp] theorem State.updCb_ca (s : State) (f : CountersB → CountersB) : (s.updCb f).ca = s.ca := rfl
@[simp] theorem State.updCb_cb (s : State) (f : CountersB → CountersB) : (s.updCb f).cb = f s.cb := rfl
@[simp] theorem State.updCb_ports (s : State) (f : CountersB → CountersB) : (s.updCb f).ports = s.ports := rfl
@[simp] theorem State.updCb_pipe (s : State) (f : CountersB → CountersB) : (s.updCb f).pipe = s.pipe := rfl
@[simp] theorem State.updCb_masks (s : State) (f : CountersB → CountersB) : (s.updCb f).masks = s.masks := rfl
@[simp] theorem State.updCb_fn (s : State) (f : CountersB → CountersB) : (s.updCb f).fn = s.fn := rfl
@[simp] theorem State.updCb_brine (s : State) (f : CountersB → CountersB) : (s.updCb f).brine = s.brine := rfl
@[simp] theorem State.updCb_weights (s : State) (f : CountersB → CountersB) : (s.updCb f).weights = s.weights := rfl
@[simp] theorem State.updCb_adapters (s : State) (f : CountersB → CountersB) : (s.updCb f).adapters = s.adapters := rfl
@[simp] theorem State.updCb_image (s : State) (f : CountersB → CountersB) : (s.updCb f).image = s.image := rfl
@[simp] theorem State.updCb_fabric (s : State) (f : CountersB → CountersB) : (s.updCb f).fabric = s.fabric := rfl
@[simp] theorem State.updCb_bb (s : State) (f : CountersB → CountersB) : (s.updCb f).bb = s.bb := rfl
@[simp] theorem State.updCb_events (s : State) (f : CountersB → CountersB) : (s.updCb f).events = s.events := rfl
@[simp] theorem State.updCb_reach (s : State) (f : CountersB → CountersB) : (s.updCb f).reach = s.reach := rfl
@[simp] theorem State.updCb_resp (s : State) (f : CountersB → CountersB) : (s.updCb f).resp = s.resp := rfl
@[simp] theorem State.updCb_pending (s : State) (f : CountersB → CountersB) : (s.updCb f).pending = s.pending := rfl

/-! ### State.updPorts -/

@[simp] theorem State.updPorts_part (s : State) (f : Ports → Ports) : (s.updPorts f).part = s.part := rfl
@[simp] theorem State.updPorts_power (s : State) (f : Ports → Ports) : (s.updPorts f).power = s.power := rfl
@[simp] theorem State.updPorts_tide (s : State) (f : Ports → Ports) : (s.updPorts f).tide = s.tide := rfl
@[simp] theorem State.updPorts_soft (s : State) (f : Ports → Ports) : (s.updPorts f).soft = s.soft := rfl
@[simp] theorem State.updPorts_ca (s : State) (f : Ports → Ports) : (s.updPorts f).ca = s.ca := rfl
@[simp] theorem State.updPorts_cb (s : State) (f : Ports → Ports) : (s.updPorts f).cb = s.cb := rfl
@[simp] theorem State.updPorts_ports (s : State) (f : Ports → Ports) : (s.updPorts f).ports = f s.ports := rfl
@[simp] theorem State.updPorts_pipe (s : State) (f : Ports → Ports) : (s.updPorts f).pipe = s.pipe := rfl
@[simp] theorem State.updPorts_masks (s : State) (f : Ports → Ports) : (s.updPorts f).masks = s.masks := rfl
@[simp] theorem State.updPorts_fn (s : State) (f : Ports → Ports) : (s.updPorts f).fn = s.fn := rfl
@[simp] theorem State.updPorts_brine (s : State) (f : Ports → Ports) : (s.updPorts f).brine = s.brine := rfl
@[simp] theorem State.updPorts_weights (s : State) (f : Ports → Ports) : (s.updPorts f).weights = s.weights := rfl
@[simp] theorem State.updPorts_adapters (s : State) (f : Ports → Ports) : (s.updPorts f).adapters = s.adapters := rfl
@[simp] theorem State.updPorts_image (s : State) (f : Ports → Ports) : (s.updPorts f).image = s.image := rfl
@[simp] theorem State.updPorts_fabric (s : State) (f : Ports → Ports) : (s.updPorts f).fabric = s.fabric := rfl
@[simp] theorem State.updPorts_bb (s : State) (f : Ports → Ports) : (s.updPorts f).bb = s.bb := rfl
@[simp] theorem State.updPorts_events (s : State) (f : Ports → Ports) : (s.updPorts f).events = s.events := rfl
@[simp] theorem State.updPorts_reach (s : State) (f : Ports → Ports) : (s.updPorts f).reach = s.reach := rfl
@[simp] theorem State.updPorts_resp (s : State) (f : Ports → Ports) : (s.updPorts f).resp = s.resp := rfl
@[simp] theorem State.updPorts_pending (s : State) (f : Ports → Ports) : (s.updPorts f).pending = s.pending := rfl

/-! ### State.updPipe -/

@[simp] theorem State.updPipe_part (s : State) (f : Pipe → Pipe) : (s.updPipe f).part = s.part := rfl
@[simp] theorem State.updPipe_power (s : State) (f : Pipe → Pipe) : (s.updPipe f).power = s.power := rfl
@[simp] theorem State.updPipe_tide (s : State) (f : Pipe → Pipe) : (s.updPipe f).tide = s.tide := rfl
@[simp] theorem State.updPipe_soft (s : State) (f : Pipe → Pipe) : (s.updPipe f).soft = s.soft := rfl
@[simp] theorem State.updPipe_ca (s : State) (f : Pipe → Pipe) : (s.updPipe f).ca = s.ca := rfl
@[simp] theorem State.updPipe_cb (s : State) (f : Pipe → Pipe) : (s.updPipe f).cb = s.cb := rfl
@[simp] theorem State.updPipe_ports (s : State) (f : Pipe → Pipe) : (s.updPipe f).ports = s.ports := rfl
@[simp] theorem State.updPipe_pipe (s : State) (f : Pipe → Pipe) : (s.updPipe f).pipe = f s.pipe := rfl
@[simp] theorem State.updPipe_masks (s : State) (f : Pipe → Pipe) : (s.updPipe f).masks = s.masks := rfl
@[simp] theorem State.updPipe_fn (s : State) (f : Pipe → Pipe) : (s.updPipe f).fn = s.fn := rfl
@[simp] theorem State.updPipe_brine (s : State) (f : Pipe → Pipe) : (s.updPipe f).brine = s.brine := rfl
@[simp] theorem State.updPipe_weights (s : State) (f : Pipe → Pipe) : (s.updPipe f).weights = s.weights := rfl
@[simp] theorem State.updPipe_adapters (s : State) (f : Pipe → Pipe) : (s.updPipe f).adapters = s.adapters := rfl
@[simp] theorem State.updPipe_image (s : State) (f : Pipe → Pipe) : (s.updPipe f).image = s.image := rfl
@[simp] theorem State.updPipe_fabric (s : State) (f : Pipe → Pipe) : (s.updPipe f).fabric = s.fabric := rfl
@[simp] theorem State.updPipe_bb (s : State) (f : Pipe → Pipe) : (s.updPipe f).bb = s.bb := rfl
@[simp] theorem State.updPipe_events (s : State) (f : Pipe → Pipe) : (s.updPipe f).events = s.events := rfl
@[simp] theorem State.updPipe_reach (s : State) (f : Pipe → Pipe) : (s.updPipe f).reach = s.reach := rfl
@[simp] theorem State.updPipe_resp (s : State) (f : Pipe → Pipe) : (s.updPipe f).resp = s.resp := rfl
@[simp] theorem State.updPipe_pending (s : State) (f : Pipe → Pipe) : (s.updPipe f).pending = s.pending := rfl

/-! ### State.updMasks -/

@[simp] theorem State.updMasks_part (s : State) (f : MaskSt → MaskSt) : (s.updMasks f).part = s.part := rfl
@[simp] theorem State.updMasks_power (s : State) (f : MaskSt → MaskSt) : (s.updMasks f).power = s.power := rfl
@[simp] theorem State.updMasks_tide (s : State) (f : MaskSt → MaskSt) : (s.updMasks f).tide = s.tide := rfl
@[simp] theorem State.updMasks_soft (s : State) (f : MaskSt → MaskSt) : (s.updMasks f).soft = s.soft := rfl
@[simp] theorem State.updMasks_ca (s : State) (f : MaskSt → MaskSt) : (s.updMasks f).ca = s.ca := rfl
@[simp] theorem State.updMasks_cb (s : State) (f : MaskSt → MaskSt) : (s.updMasks f).cb = s.cb := rfl
@[simp] theorem State.updMasks_ports (s : State) (f : MaskSt → MaskSt) : (s.updMasks f).ports = s.ports := rfl
@[simp] theorem State.updMasks_pipe (s : State) (f : MaskSt → MaskSt) : (s.updMasks f).pipe = s.pipe := rfl
@[simp] theorem State.updMasks_masks (s : State) (f : MaskSt → MaskSt) : (s.updMasks f).masks = f s.masks := rfl
@[simp] theorem State.updMasks_fn (s : State) (f : MaskSt → MaskSt) : (s.updMasks f).fn = s.fn := rfl
@[simp] theorem State.updMasks_brine (s : State) (f : MaskSt → MaskSt) : (s.updMasks f).brine = s.brine := rfl
@[simp] theorem State.updMasks_weights (s : State) (f : MaskSt → MaskSt) : (s.updMasks f).weights = s.weights := rfl
@[simp] theorem State.updMasks_adapters (s : State) (f : MaskSt → MaskSt) : (s.updMasks f).adapters = s.adapters := rfl
@[simp] theorem State.updMasks_image (s : State) (f : MaskSt → MaskSt) : (s.updMasks f).image = s.image := rfl
@[simp] theorem State.updMasks_fabric (s : State) (f : MaskSt → MaskSt) : (s.updMasks f).fabric = s.fabric := rfl
@[simp] theorem State.updMasks_bb (s : State) (f : MaskSt → MaskSt) : (s.updMasks f).bb = s.bb := rfl
@[simp] theorem State.updMasks_events (s : State) (f : MaskSt → MaskSt) : (s.updMasks f).events = s.events := rfl
@[simp] theorem State.updMasks_reach (s : State) (f : MaskSt → MaskSt) : (s.updMasks f).reach = s.reach := rfl
@[simp] theorem State.updMasks_resp (s : State) (f : MaskSt → MaskSt) : (s.updMasks f).resp = s.resp := rfl
@[simp] theorem State.updMasks_pending (s : State) (f : MaskSt → MaskSt) : (s.updMasks f).pending = s.pending := rfl

/-! ### State.updFn -/

@[simp] theorem State.updFn_part (s : State) (f : FnSt → FnSt) : (s.updFn f).part = s.part := rfl
@[simp] theorem State.updFn_power (s : State) (f : FnSt → FnSt) : (s.updFn f).power = s.power := rfl
@[simp] theorem State.updFn_tide (s : State) (f : FnSt → FnSt) : (s.updFn f).tide = s.tide := rfl
@[simp] theorem State.updFn_soft (s : State) (f : FnSt → FnSt) : (s.updFn f).soft = s.soft := rfl
@[simp] theorem State.updFn_ca (s : State) (f : FnSt → FnSt) : (s.updFn f).ca = s.ca := rfl
@[simp] theorem State.updFn_cb (s : State) (f : FnSt → FnSt) : (s.updFn f).cb = s.cb := rfl
@[simp] theorem State.updFn_ports (s : State) (f : FnSt → FnSt) : (s.updFn f).ports = s.ports := rfl
@[simp] theorem State.updFn_pipe (s : State) (f : FnSt → FnSt) : (s.updFn f).pipe = s.pipe := rfl
@[simp] theorem State.updFn_masks (s : State) (f : FnSt → FnSt) : (s.updFn f).masks = s.masks := rfl
@[simp] theorem State.updFn_fn (s : State) (f : FnSt → FnSt) : (s.updFn f).fn = f s.fn := rfl
@[simp] theorem State.updFn_brine (s : State) (f : FnSt → FnSt) : (s.updFn f).brine = s.brine := rfl
@[simp] theorem State.updFn_weights (s : State) (f : FnSt → FnSt) : (s.updFn f).weights = s.weights := rfl
@[simp] theorem State.updFn_adapters (s : State) (f : FnSt → FnSt) : (s.updFn f).adapters = s.adapters := rfl
@[simp] theorem State.updFn_image (s : State) (f : FnSt → FnSt) : (s.updFn f).image = s.image := rfl
@[simp] theorem State.updFn_fabric (s : State) (f : FnSt → FnSt) : (s.updFn f).fabric = s.fabric := rfl
@[simp] theorem State.updFn_bb (s : State) (f : FnSt → FnSt) : (s.updFn f).bb = s.bb := rfl
@[simp] theorem State.updFn_events (s : State) (f : FnSt → FnSt) : (s.updFn f).events = s.events := rfl
@[simp] theorem State.updFn_reach (s : State) (f : FnSt → FnSt) : (s.updFn f).reach = s.reach := rfl
@[simp] theorem State.updFn_resp (s : State) (f : FnSt → FnSt) : (s.updFn f).resp = s.resp := rfl
@[simp] theorem State.updFn_pending (s : State) (f : FnSt → FnSt) : (s.updFn f).pending = s.pending := rfl

/-! ### State.updBrine -/

@[simp] theorem State.updBrine_part (s : State) (f : BrineSt → BrineSt) : (s.updBrine f).part = s.part := rfl
@[simp] theorem State.updBrine_power (s : State) (f : BrineSt → BrineSt) : (s.updBrine f).power = s.power := rfl
@[simp] theorem State.updBrine_tide (s : State) (f : BrineSt → BrineSt) : (s.updBrine f).tide = s.tide := rfl
@[simp] theorem State.updBrine_soft (s : State) (f : BrineSt → BrineSt) : (s.updBrine f).soft = s.soft := rfl
@[simp] theorem State.updBrine_ca (s : State) (f : BrineSt → BrineSt) : (s.updBrine f).ca = s.ca := rfl
@[simp] theorem State.updBrine_cb (s : State) (f : BrineSt → BrineSt) : (s.updBrine f).cb = s.cb := rfl
@[simp] theorem State.updBrine_ports (s : State) (f : BrineSt → BrineSt) : (s.updBrine f).ports = s.ports := rfl
@[simp] theorem State.updBrine_pipe (s : State) (f : BrineSt → BrineSt) : (s.updBrine f).pipe = s.pipe := rfl
@[simp] theorem State.updBrine_masks (s : State) (f : BrineSt → BrineSt) : (s.updBrine f).masks = s.masks := rfl
@[simp] theorem State.updBrine_fn (s : State) (f : BrineSt → BrineSt) : (s.updBrine f).fn = s.fn := rfl
@[simp] theorem State.updBrine_brine (s : State) (f : BrineSt → BrineSt) : (s.updBrine f).brine = f s.brine := rfl
@[simp] theorem State.updBrine_weights (s : State) (f : BrineSt → BrineSt) : (s.updBrine f).weights = s.weights := rfl
@[simp] theorem State.updBrine_adapters (s : State) (f : BrineSt → BrineSt) : (s.updBrine f).adapters = s.adapters := rfl
@[simp] theorem State.updBrine_image (s : State) (f : BrineSt → BrineSt) : (s.updBrine f).image = s.image := rfl
@[simp] theorem State.updBrine_fabric (s : State) (f : BrineSt → BrineSt) : (s.updBrine f).fabric = s.fabric := rfl
@[simp] theorem State.updBrine_bb (s : State) (f : BrineSt → BrineSt) : (s.updBrine f).bb = s.bb := rfl
@[simp] theorem State.updBrine_events (s : State) (f : BrineSt → BrineSt) : (s.updBrine f).events = s.events := rfl
@[simp] theorem State.updBrine_reach (s : State) (f : BrineSt → BrineSt) : (s.updBrine f).reach = s.reach := rfl
@[simp] theorem State.updBrine_resp (s : State) (f : BrineSt → BrineSt) : (s.updBrine f).resp = s.resp := rfl
@[simp] theorem State.updBrine_pending (s : State) (f : BrineSt → BrineSt) : (s.updBrine f).pending = s.pending := rfl

/-! ### State.updWeights -/

@[simp] theorem State.updWeights_part (s : State) (f : Weights → Weights) : (s.updWeights f).part = s.part := rfl
@[simp] theorem State.updWeights_power (s : State) (f : Weights → Weights) : (s.updWeights f).power = s.power := rfl
@[simp] theorem State.updWeights_tide (s : State) (f : Weights → Weights) : (s.updWeights f).tide = s.tide := rfl
@[simp] theorem State.updWeights_soft (s : State) (f : Weights → Weights) : (s.updWeights f).soft = s.soft := rfl
@[simp] theorem State.updWeights_ca (s : State) (f : Weights → Weights) : (s.updWeights f).ca = s.ca := rfl
@[simp] theorem State.updWeights_cb (s : State) (f : Weights → Weights) : (s.updWeights f).cb = s.cb := rfl
@[simp] theorem State.updWeights_ports (s : State) (f : Weights → Weights) : (s.updWeights f).ports = s.ports := rfl
@[simp] theorem State.updWeights_pipe (s : State) (f : Weights → Weights) : (s.updWeights f).pipe = s.pipe := rfl
@[simp] theorem State.updWeights_masks (s : State) (f : Weights → Weights) : (s.updWeights f).masks = s.masks := rfl
@[simp] theorem State.updWeights_fn (s : State) (f : Weights → Weights) : (s.updWeights f).fn = s.fn := rfl
@[simp] theorem State.updWeights_brine (s : State) (f : Weights → Weights) : (s.updWeights f).brine = s.brine := rfl
@[simp] theorem State.updWeights_weights (s : State) (f : Weights → Weights) : (s.updWeights f).weights = f s.weights := rfl
@[simp] theorem State.updWeights_adapters (s : State) (f : Weights → Weights) : (s.updWeights f).adapters = s.adapters := rfl
@[simp] theorem State.updWeights_image (s : State) (f : Weights → Weights) : (s.updWeights f).image = s.image := rfl
@[simp] theorem State.updWeights_fabric (s : State) (f : Weights → Weights) : (s.updWeights f).fabric = s.fabric := rfl
@[simp] theorem State.updWeights_bb (s : State) (f : Weights → Weights) : (s.updWeights f).bb = s.bb := rfl
@[simp] theorem State.updWeights_events (s : State) (f : Weights → Weights) : (s.updWeights f).events = s.events := rfl
@[simp] theorem State.updWeights_reach (s : State) (f : Weights → Weights) : (s.updWeights f).reach = s.reach := rfl
@[simp] theorem State.updWeights_resp (s : State) (f : Weights → Weights) : (s.updWeights f).resp = s.resp := rfl
@[simp] theorem State.updWeights_pending (s : State) (f : Weights → Weights) : (s.updWeights f).pending = s.pending := rfl

/-! ### State.updAdapters -/

@[simp] theorem State.updAdapters_part (s : State) (f : Adapters → Adapters) : (s.updAdapters f).part = s.part := rfl
@[simp] theorem State.updAdapters_power (s : State) (f : Adapters → Adapters) : (s.updAdapters f).power = s.power := rfl
@[simp] theorem State.updAdapters_tide (s : State) (f : Adapters → Adapters) : (s.updAdapters f).tide = s.tide := rfl
@[simp] theorem State.updAdapters_soft (s : State) (f : Adapters → Adapters) : (s.updAdapters f).soft = s.soft := rfl
@[simp] theorem State.updAdapters_ca (s : State) (f : Adapters → Adapters) : (s.updAdapters f).ca = s.ca := rfl
@[simp] theorem State.updAdapters_cb (s : State) (f : Adapters → Adapters) : (s.updAdapters f).cb = s.cb := rfl
@[simp] theorem State.updAdapters_ports (s : State) (f : Adapters → Adapters) : (s.updAdapters f).ports = s.ports := rfl
@[simp] theorem State.updAdapters_pipe (s : State) (f : Adapters → Adapters) : (s.updAdapters f).pipe = s.pipe := rfl
@[simp] theorem State.updAdapters_masks (s : State) (f : Adapters → Adapters) : (s.updAdapters f).masks = s.masks := rfl
@[simp] theorem State.updAdapters_fn (s : State) (f : Adapters → Adapters) : (s.updAdapters f).fn = s.fn := rfl
@[simp] theorem State.updAdapters_brine (s : State) (f : Adapters → Adapters) : (s.updAdapters f).brine = s.brine := rfl
@[simp] theorem State.updAdapters_weights (s : State) (f : Adapters → Adapters) : (s.updAdapters f).weights = s.weights := rfl
@[simp] theorem State.updAdapters_adapters (s : State) (f : Adapters → Adapters) : (s.updAdapters f).adapters = f s.adapters := rfl
@[simp] theorem State.updAdapters_image (s : State) (f : Adapters → Adapters) : (s.updAdapters f).image = s.image := rfl
@[simp] theorem State.updAdapters_fabric (s : State) (f : Adapters → Adapters) : (s.updAdapters f).fabric = s.fabric := rfl
@[simp] theorem State.updAdapters_bb (s : State) (f : Adapters → Adapters) : (s.updAdapters f).bb = s.bb := rfl
@[simp] theorem State.updAdapters_events (s : State) (f : Adapters → Adapters) : (s.updAdapters f).events = s.events := rfl
@[simp] theorem State.updAdapters_reach (s : State) (f : Adapters → Adapters) : (s.updAdapters f).reach = s.reach := rfl
@[simp] theorem State.updAdapters_resp (s : State) (f : Adapters → Adapters) : (s.updAdapters f).resp = s.resp := rfl
@[simp] theorem State.updAdapters_pending (s : State) (f : Adapters → Adapters) : (s.updAdapters f).pending = s.pending := rfl

/-! ### State.updImage -/

@[simp] theorem State.updImage_part (s : State) (f : ImageSt → ImageSt) : (s.updImage f).part = s.part := rfl
@[simp] theorem State.updImage_power (s : State) (f : ImageSt → ImageSt) : (s.updImage f).power = s.power := rfl
@[simp] theorem State.updImage_tide (s : State) (f : ImageSt → ImageSt) : (s.updImage f).tide = s.tide := rfl
@[simp] theorem State.updImage_soft (s : State) (f : ImageSt → ImageSt) : (s.updImage f).soft = s.soft := rfl
@[simp] theorem State.updImage_ca (s : State) (f : ImageSt → ImageSt) : (s.updImage f).ca = s.ca := rfl
@[simp] theorem State.updImage_cb (s : State) (f : ImageSt → ImageSt) : (s.updImage f).cb = s.cb := rfl
@[simp] theorem State.updImage_ports (s : State) (f : ImageSt → ImageSt) : (s.updImage f).ports = s.ports := rfl
@[simp] theorem State.updImage_pipe (s : State) (f : ImageSt → ImageSt) : (s.updImage f).pipe = s.pipe := rfl
@[simp] theorem State.updImage_masks (s : State) (f : ImageSt → ImageSt) : (s.updImage f).masks = s.masks := rfl
@[simp] theorem State.updImage_fn (s : State) (f : ImageSt → ImageSt) : (s.updImage f).fn = s.fn := rfl
@[simp] theorem State.updImage_brine (s : State) (f : ImageSt → ImageSt) : (s.updImage f).brine = s.brine := rfl
@[simp] theorem State.updImage_weights (s : State) (f : ImageSt → ImageSt) : (s.updImage f).weights = s.weights := rfl
@[simp] theorem State.updImage_adapters (s : State) (f : ImageSt → ImageSt) : (s.updImage f).adapters = s.adapters := rfl
@[simp] theorem State.updImage_image (s : State) (f : ImageSt → ImageSt) : (s.updImage f).image = f s.image := rfl
@[simp] theorem State.updImage_fabric (s : State) (f : ImageSt → ImageSt) : (s.updImage f).fabric = s.fabric := rfl
@[simp] theorem State.updImage_bb (s : State) (f : ImageSt → ImageSt) : (s.updImage f).bb = s.bb := rfl
@[simp] theorem State.updImage_events (s : State) (f : ImageSt → ImageSt) : (s.updImage f).events = s.events := rfl
@[simp] theorem State.updImage_reach (s : State) (f : ImageSt → ImageSt) : (s.updImage f).reach = s.reach := rfl
@[simp] theorem State.updImage_resp (s : State) (f : ImageSt → ImageSt) : (s.updImage f).resp = s.resp := rfl
@[simp] theorem State.updImage_pending (s : State) (f : ImageSt → ImageSt) : (s.updImage f).pending = s.pending := rfl

/-! ### State.updFabric -/

@[simp] theorem State.updFabric_part (s : State) (f : Fabric → Fabric) : (s.updFabric f).part = s.part := rfl
@[simp] theorem State.updFabric_power (s : State) (f : Fabric → Fabric) : (s.updFabric f).power = s.power := rfl
@[simp] theorem State.updFabric_tide (s : State) (f : Fabric → Fabric) : (s.updFabric f).tide = s.tide := rfl
@[simp] theorem State.updFabric_soft (s : State) (f : Fabric → Fabric) : (s.updFabric f).soft = s.soft := rfl
@[simp] theorem State.updFabric_ca (s : State) (f : Fabric → Fabric) : (s.updFabric f).ca = s.ca := rfl
@[simp] theorem State.updFabric_cb (s : State) (f : Fabric → Fabric) : (s.updFabric f).cb = s.cb := rfl
@[simp] theorem State.updFabric_ports (s : State) (f : Fabric → Fabric) : (s.updFabric f).ports = s.ports := rfl
@[simp] theorem State.updFabric_pipe (s : State) (f : Fabric → Fabric) : (s.updFabric f).pipe = s.pipe := rfl
@[simp] theorem State.updFabric_masks (s : State) (f : Fabric → Fabric) : (s.updFabric f).masks = s.masks := rfl
@[simp] theorem State.updFabric_fn (s : State) (f : Fabric → Fabric) : (s.updFabric f).fn = s.fn := rfl
@[simp] theorem State.updFabric_brine (s : State) (f : Fabric → Fabric) : (s.updFabric f).brine = s.brine := rfl
@[simp] theorem State.updFabric_weights (s : State) (f : Fabric → Fabric) : (s.updFabric f).weights = s.weights := rfl
@[simp] theorem State.updFabric_adapters (s : State) (f : Fabric → Fabric) : (s.updFabric f).adapters = s.adapters := rfl
@[simp] theorem State.updFabric_image (s : State) (f : Fabric → Fabric) : (s.updFabric f).image = s.image := rfl
@[simp] theorem State.updFabric_fabric (s : State) (f : Fabric → Fabric) : (s.updFabric f).fabric = f s.fabric := rfl
@[simp] theorem State.updFabric_bb (s : State) (f : Fabric → Fabric) : (s.updFabric f).bb = s.bb := rfl
@[simp] theorem State.updFabric_events (s : State) (f : Fabric → Fabric) : (s.updFabric f).events = s.events := rfl
@[simp] theorem State.updFabric_reach (s : State) (f : Fabric → Fabric) : (s.updFabric f).reach = s.reach := rfl
@[simp] theorem State.updFabric_resp (s : State) (f : Fabric → Fabric) : (s.updFabric f).resp = s.resp := rfl
@[simp] theorem State.updFabric_pending (s : State) (f : Fabric → Fabric) : (s.updFabric f).pending = s.pending := rfl

/-! ### State.updBb -/

@[simp] theorem State.updBb_part (s : State) (f : BlackBox → BlackBox) : (s.updBb f).part = s.part := rfl
@[simp] theorem State.updBb_power (s : State) (f : BlackBox → BlackBox) : (s.updBb f).power = s.power := rfl
@[simp] theorem State.updBb_tide (s : State) (f : BlackBox → BlackBox) : (s.updBb f).tide = s.tide := rfl
@[simp] theorem State.updBb_soft (s : State) (f : BlackBox → BlackBox) : (s.updBb f).soft = s.soft := rfl
@[simp] theorem State.updBb_ca (s : State) (f : BlackBox → BlackBox) : (s.updBb f).ca = s.ca := rfl
@[simp] theorem State.updBb_cb (s : State) (f : BlackBox → BlackBox) : (s.updBb f).cb = s.cb := rfl
@[simp] theorem State.updBb_ports (s : State) (f : BlackBox → BlackBox) : (s.updBb f).ports = s.ports := rfl
@[simp] theorem State.updBb_pipe (s : State) (f : BlackBox → BlackBox) : (s.updBb f).pipe = s.pipe := rfl
@[simp] theorem State.updBb_masks (s : State) (f : BlackBox → BlackBox) : (s.updBb f).masks = s.masks := rfl
@[simp] theorem State.updBb_fn (s : State) (f : BlackBox → BlackBox) : (s.updBb f).fn = s.fn := rfl
@[simp] theorem State.updBb_brine (s : State) (f : BlackBox → BlackBox) : (s.updBb f).brine = s.brine := rfl
@[simp] theorem State.updBb_weights (s : State) (f : BlackBox → BlackBox) : (s.updBb f).weights = s.weights := rfl
@[simp] theorem State.updBb_adapters (s : State) (f : BlackBox → BlackBox) : (s.updBb f).adapters = s.adapters := rfl
@[simp] theorem State.updBb_image (s : State) (f : BlackBox → BlackBox) : (s.updBb f).image = s.image := rfl
@[simp] theorem State.updBb_fabric (s : State) (f : BlackBox → BlackBox) : (s.updBb f).fabric = s.fabric := rfl
@[simp] theorem State.updBb_bb (s : State) (f : BlackBox → BlackBox) : (s.updBb f).bb = f s.bb := rfl
@[simp] theorem State.updBb_events (s : State) (f : BlackBox → BlackBox) : (s.updBb f).events = s.events := rfl
@[simp] theorem State.updBb_reach (s : State) (f : BlackBox → BlackBox) : (s.updBb f).reach = s.reach := rfl
@[simp] theorem State.updBb_resp (s : State) (f : BlackBox → BlackBox) : (s.updBb f).resp = s.resp := rfl
@[simp] theorem State.updBb_pending (s : State) (f : BlackBox → BlackBox) : (s.updBb f).pending = s.pending := rfl

/-! ### State.updEvents -/

@[simp] theorem State.updEvents_part (s : State) (f : Events → Events) : (s.updEvents f).part = s.part := rfl
@[simp] theorem State.updEvents_power (s : State) (f : Events → Events) : (s.updEvents f).power = s.power := rfl
@[simp] theorem State.updEvents_tide (s : State) (f : Events → Events) : (s.updEvents f).tide = s.tide := rfl
@[simp] theorem State.updEvents_soft (s : State) (f : Events → Events) : (s.updEvents f).soft = s.soft := rfl
@[simp] theorem State.updEvents_ca (s : State) (f : Events → Events) : (s.updEvents f).ca = s.ca := rfl
@[simp] theorem State.updEvents_cb (s : State) (f : Events → Events) : (s.updEvents f).cb = s.cb := rfl
@[simp] theorem State.updEvents_ports (s : State) (f : Events → Events) : (s.updEvents f).ports = s.ports := rfl
@[simp] theorem State.updEvents_pipe (s : State) (f : Events → Events) : (s.updEvents f).pipe = s.pipe := rfl
@[simp] theorem State.updEvents_masks (s : State) (f : Events → Events) : (s.updEvents f).masks = s.masks := rfl
@[simp] theorem State.updEvents_fn (s : State) (f : Events → Events) : (s.updEvents f).fn = s.fn := rfl
@[simp] theorem State.updEvents_brine (s : State) (f : Events → Events) : (s.updEvents f).brine = s.brine := rfl
@[simp] theorem State.updEvents_weights (s : State) (f : Events → Events) : (s.updEvents f).weights = s.weights := rfl
@[simp] theorem State.updEvents_adapters (s : State) (f : Events → Events) : (s.updEvents f).adapters = s.adapters := rfl
@[simp] theorem State.updEvents_image (s : State) (f : Events → Events) : (s.updEvents f).image = s.image := rfl
@[simp] theorem State.updEvents_fabric (s : State) (f : Events → Events) : (s.updEvents f).fabric = s.fabric := rfl
@[simp] theorem State.updEvents_bb (s : State) (f : Events → Events) : (s.updEvents f).bb = s.bb := rfl
@[simp] theorem State.updEvents_events (s : State) (f : Events → Events) : (s.updEvents f).events = f s.events := rfl
@[simp] theorem State.updEvents_reach (s : State) (f : Events → Events) : (s.updEvents f).reach = s.reach := rfl
@[simp] theorem State.updEvents_resp (s : State) (f : Events → Events) : (s.updEvents f).resp = s.resp := rfl
@[simp] theorem State.updEvents_pending (s : State) (f : Events → Events) : (s.updEvents f).pending = s.pending := rfl

/-! ### State.updReach -/

@[simp] theorem State.updReach_part (s : State) (f : Reach → Reach) : (s.updReach f).part = s.part := rfl
@[simp] theorem State.updReach_power (s : State) (f : Reach → Reach) : (s.updReach f).power = s.power := rfl
@[simp] theorem State.updReach_tide (s : State) (f : Reach → Reach) : (s.updReach f).tide = s.tide := rfl
@[simp] theorem State.updReach_soft (s : State) (f : Reach → Reach) : (s.updReach f).soft = s.soft := rfl
@[simp] theorem State.updReach_ca (s : State) (f : Reach → Reach) : (s.updReach f).ca = s.ca := rfl
@[simp] theorem State.updReach_cb (s : State) (f : Reach → Reach) : (s.updReach f).cb = s.cb := rfl
@[simp] theorem State.updReach_ports (s : State) (f : Reach → Reach) : (s.updReach f).ports = s.ports := rfl
@[simp] theorem State.updReach_pipe (s : State) (f : Reach → Reach) : (s.updReach f).pipe = s.pipe := rfl
@[simp] theorem State.updReach_masks (s : State) (f : Reach → Reach) : (s.updReach f).masks = s.masks := rfl
@[simp] theorem State.updReach_fn (s : State) (f : Reach → Reach) : (s.updReach f).fn = s.fn := rfl
@[simp] theorem State.updReach_brine (s : State) (f : Reach → Reach) : (s.updReach f).brine = s.brine := rfl
@[simp] theorem State.updReach_weights (s : State) (f : Reach → Reach) : (s.updReach f).weights = s.weights := rfl
@[simp] theorem State.updReach_adapters (s : State) (f : Reach → Reach) : (s.updReach f).adapters = s.adapters := rfl
@[simp] theorem State.updReach_image (s : State) (f : Reach → Reach) : (s.updReach f).image = s.image := rfl
@[simp] theorem State.updReach_fabric (s : State) (f : Reach → Reach) : (s.updReach f).fabric = s.fabric := rfl
@[simp] theorem State.updReach_bb (s : State) (f : Reach → Reach) : (s.updReach f).bb = s.bb := rfl
@[simp] theorem State.updReach_events (s : State) (f : Reach → Reach) : (s.updReach f).events = s.events := rfl
@[simp] theorem State.updReach_reach (s : State) (f : Reach → Reach) : (s.updReach f).reach = f s.reach := rfl
@[simp] theorem State.updReach_resp (s : State) (f : Reach → Reach) : (s.updReach f).resp = s.resp := rfl
@[simp] theorem State.updReach_pending (s : State) (f : Reach → Reach) : (s.updReach f).pending = s.pending := rfl

/-! ### respond -/

@[simp] theorem respond_part (mg : Bool) (v : Word) (err : Bool) (s : State) : (respond mg v err s).part = s.part := rfl
@[simp] theorem respond_power (mg : Bool) (v : Word) (err : Bool) (s : State) : (respond mg v err s).power = s.power := rfl
@[simp] theorem respond_tide (mg : Bool) (v : Word) (err : Bool) (s : State) : (respond mg v err s).tide = s.tide := rfl
@[simp] theorem respond_soft (mg : Bool) (v : Word) (err : Bool) (s : State) : (respond mg v err s).soft = s.soft := rfl
@[simp] theorem respond_ca (mg : Bool) (v : Word) (err : Bool) (s : State) : (respond mg v err s).ca = s.ca := rfl
@[simp] theorem respond_cb (mg : Bool) (v : Word) (err : Bool) (s : State) : (respond mg v err s).cb = s.cb := rfl
@[simp] theorem respond_ports (mg : Bool) (v : Word) (err : Bool) (s : State) : (respond mg v err s).ports = s.ports := rfl
@[simp] theorem respond_pipe (mg : Bool) (v : Word) (err : Bool) (s : State) : (respond mg v err s).pipe = s.pipe := rfl
@[simp] theorem respond_masks (mg : Bool) (v : Word) (err : Bool) (s : State) : (respond mg v err s).masks = s.masks := rfl
@[simp] theorem respond_fn (mg : Bool) (v : Word) (err : Bool) (s : State) : (respond mg v err s).fn = s.fn := rfl
@[simp] theorem respond_brine (mg : Bool) (v : Word) (err : Bool) (s : State) : (respond mg v err s).brine = s.brine := rfl
@[simp] theorem respond_weights (mg : Bool) (v : Word) (err : Bool) (s : State) : (respond mg v err s).weights = s.weights := rfl
@[simp] theorem respond_adapters (mg : Bool) (v : Word) (err : Bool) (s : State) : (respond mg v err s).adapters = s.adapters := rfl
@[simp] theorem respond_image (mg : Bool) (v : Word) (err : Bool) (s : State) : (respond mg v err s).image = s.image := rfl
@[simp] theorem respond_fabric (mg : Bool) (v : Word) (err : Bool) (s : State) : (respond mg v err s).fabric = s.fabric := rfl
@[simp] theorem respond_bb (mg : Bool) (v : Word) (err : Bool) (s : State) : (respond mg v err s).bb = s.bb := rfl
@[simp] theorem respond_events (mg : Bool) (v : Word) (err : Bool) (s : State) : (respond mg v err s).events = s.events := rfl
@[simp] theorem respond_reach (mg : Bool) (v : Word) (err : Bool) (s : State) : (respond mg v err s).reach = s.reach := rfl
@[simp] theorem respond_resp (mg : Bool) (v : Word) (err : Bool) (s : State) : (respond mg v err s).resp = some ⟨mg, v, err⟩ := rfl
@[simp] theorem respond_pending (mg : Bool) (v : Word) (err : Bool) (s : State) : (respond mg v err s).pending = s.pending := rfl

end Sys2Proof.Machine
end

