-- ==== Sys2Proof/Laws/Kept.lean ====
section
/-!
SUPPORT. What an operation can do, said once: `Kept G s t` says that from `s` to `t` only the groups in `G` change, the version floor does
not fall, and the event controller's invariant and the canonical form of the brine store are kept. One lemma per operation follows,
in this file for the updates and in the other Kept files for the rest; each names the groups that its operation can change.
-/

set_option Elab.async false

namespace Sys2Proof.Laws

open Sys2Proof.Machine Sys2Proof.Safety

/-- From `s` to `t` only the groups in `G` change, and the invariants are kept. -/
def Kept (G : List Group) (s t : State) : Prop :=
  OnlyChanges G s t ∧ s.power.imgFloor.toNat ≤ t.power.imgFloor.toNat ∧ (EventsOk s.events → EventsOk t.events) ∧ (MemoryOk s → MemoryOk t)

variable {G : List Group} {s0 s : State}

/-- Nothing happens. -/
theorem Kept.refl (G : List Group) (s : State) : Kept G s s :=
  ⟨⟨rfl, rfl, fun g _ => by cases g <;> rfl⟩, Nat.le_refl _, id, id⟩

/-- One after the other. -/
theorem Kept.trans {s t u : State} (h1 : Kept G s t) (h2 : Kept G t u) : Kept G s u := by
  obtain ⟨⟨a1, a2, a3⟩, a4, a5, a6⟩ := h1
  obtain ⟨⟨b1, b2, b3⟩, b4, b5, b6⟩ := h2
  refine ⟨⟨b1.trans a1, b2.trans a2, fun g hg => ?_⟩, Nat.le_trans a4 b4, b5 ∘ a5, b6 ∘ a6⟩
  have x := a3 g hg
  have y := b3 g hg
  cases g <;> exact Eq.trans y x

/-- More groups may be named. -/
theorem Kept.mono {G' : List Group} {s t : State} (hG : ∀ g ∈ G, g ∈ G') (h : Kept G s t) : Kept G' s t :=
  ⟨⟨h.1.1, h.1.2.1, fun g hg => h.1.2.2 g fun hm => hg (hG g hm)⟩, h.2⟩

/-- Nothing more happens. -/
theorem kept_id {G : List Group} {w s : State} (h : Kept G w s) : Kept G w (id s) := h

/-- A choice of two. -/
theorem kept_ite {c : Prop} [Decidable c] {a b : State} (ha : c → Kept G s0 a) (hb : ¬c → Kept G s0 b) : Kept G s0 (if c then a else b) := by
  split
  · exact ha ‹_›
  · exact hb ‹_›

/-- A fold. -/
theorem kept_foldl {α : Type} {f : State → α → State} {l : List α} (hf : ∀ t a, Kept G s0 t → Kept G s0 (f t a)) (h : Kept G s0 s) :
    Kept G s0 (l.foldl f s) := by
  induction l generalizing s with
  | nil => exact h
  | cons a l ih => exact ih (hf s a h)

/-! ### The updates of the groups -/

/-- A change of the power group. -/
theorem updPower_kept (f : Power → Power) (g1 : Group.power ∈ G) (hf : s.power.imgFloor.toNat ≤ (f s.power).imgFloor.toNat) (h : Kept G s0 s) :
    Kept G s0 (s.updPower f) :=
  h.trans ⟨⟨rfl, rfl, fun g hg => by cases g <;> first | rfl | exact absurd g1 hg⟩, hf, id, id⟩

/-- A change of the tide group. -/
theorem updTide_kept (f : TideSt → TideSt) (g1 : Group.tide ∈ G) (h : Kept G s0 s) :
    Kept G s0 (s.updTide f) :=
  h.trans ⟨⟨rfl, rfl, fun g hg => by cases g <;> first | rfl | exact absurd g1 hg⟩, Nat.le_refl _, id, id⟩

/-- A change of the soft group. -/
theorem updSoft_kept (f : SoftRegs → SoftRegs) (g1 : Group.soft ∈ G) (h : Kept G s0 s) :
    Kept G s0 (s.updSoft f) :=
  h.trans ⟨⟨rfl, rfl, fun g hg => by cases g <;> first | rfl | exact absurd g1 hg⟩, Nat.le_refl _, id, id⟩

/-- A change of the ca group. -/
theorem updCa_kept (f : CountersA → CountersA) (g1 : Group.ca ∈ G) (h : Kept G s0 s) :
    Kept G s0 (s.updCa f) :=
  h.trans ⟨⟨rfl, rfl, fun g hg => by cases g <;> first | rfl | exact absurd g1 hg⟩, Nat.le_refl _, id, id⟩

/-- A change of the cb group. -/
theorem updCb_kept (f : CountersB → CountersB) (g1 : Group.cb ∈ G) (h : Kept G s0 s) :
    Kept G s0 (s.updCb f) :=
  h.trans ⟨⟨rfl, rfl, fun g hg => by cases g <;> first | rfl | exact absurd g1 hg⟩, Nat.le_refl _, id, id⟩

/-- A change of the ports group. -/
theorem updPorts_kept (f : Ports → Ports) (g1 : Group.ports ∈ G) (h : Kept G s0 s) :
    Kept G s0 (s.updPorts f) :=
  h.trans ⟨⟨rfl, rfl, fun g hg => by cases g <;> first | rfl | exact absurd g1 hg⟩, Nat.le_refl _, id, id⟩

/-- A change of the pipe group. -/
theorem updPipe_kept (f : Pipe → Pipe) (g1 : Group.pipe ∈ G) (h : Kept G s0 s) :
    Kept G s0 (s.updPipe f) :=
  h.trans ⟨⟨rfl, rfl, fun g hg => by cases g <;> first | rfl | exact absurd g1 hg⟩, Nat.le_refl _, id, id⟩

/-- A change of the masks group. -/
theorem updMasks_kept (f : MaskSt → MaskSt) (g1 : Group.masks ∈ G) (h : Kept G s0 s) :
    Kept G s0 (s.updMasks f) :=
  h.trans ⟨⟨rfl, rfl, fun g hg => by cases g <;> first | rfl | exact absurd g1 hg⟩, Nat.le_refl _, id, id⟩

/-- A change of the fn group. -/
theorem updFn_kept (f : FnSt → FnSt) (g1 : Group.fn ∈ G) (h : Kept G s0 s) :
    Kept G s0 (s.updFn f) :=
  h.trans ⟨⟨rfl, rfl, fun g hg => by cases g <;> first | rfl | exact absurd g1 hg⟩, Nat.le_refl _, id, id⟩

/-- A change of the brine group. -/
theorem updBrine_kept (f : BrineSt → BrineSt) (g1 : Group.brine ∈ G) (hf : spWf 0 s.brine.mem = true → spWf 0 (f s.brine).mem = true) (h : Kept G s0 s) :
    Kept G s0 (s.updBrine f) :=
  h.trans ⟨⟨rfl, rfl, fun g hg => by cases g <;> first | rfl | exact absurd g1 hg⟩, Nat.le_refl _, id, hf⟩

/-- A change of the weights group. -/
theorem updWeights_kept (f : Weights → Weights) (g1 : Group.weights ∈ G) (h : Kept G s0 s) :
    Kept G s0 (s.updWeights f) :=
  h.trans ⟨⟨rfl, rfl, fun g hg => by cases g <;> first | rfl | exact absurd g1 hg⟩, Nat.le_refl _, id, id⟩

/-- A change of the adapters group. -/
theorem updAdapters_kept (f : Adapters → Adapters) (g1 : Group.adapters ∈ G) (h : Kept G s0 s) :
    Kept G s0 (s.updAdapters f) :=
  h.trans ⟨⟨rfl, rfl, fun g hg => by cases g <;> first | rfl | exact absurd g1 hg⟩, Nat.le_refl _, id, id⟩

/-- A change of the image group. -/
theorem updImage_kept (f : ImageSt → ImageSt) (g1 : Group.image ∈ G) (h : Kept G s0 s) :
    Kept G s0 (s.updImage f) :=
  h.trans ⟨⟨rfl, rfl, fun g hg => by cases g <;> first | rfl | exact absurd g1 hg⟩, Nat.le_refl _, id, id⟩

/-- A change of the fabric group. -/
theorem updFabric_kept (f : Fabric → Fabric) (g1 : Group.fabric ∈ G) (h : Kept G s0 s) :
    Kept G s0 (s.updFabric f) :=
  h.trans ⟨⟨rfl, rfl, fun g hg => by cases g <;> first | rfl | exact absurd g1 hg⟩, Nat.le_refl _, id, id⟩

/-- A change of the bb group. -/
theorem updBb_kept (f : BlackBox → BlackBox) (g1 : Group.bb ∈ G) (h : Kept G s0 s) :
    Kept G s0 (s.updBb f) :=
  h.trans ⟨⟨rfl, rfl, fun g hg => by cases g <;> first | rfl | exact absurd g1 hg⟩, Nat.le_refl _, id, id⟩

/-- A change of the events group. -/
theorem updEvents_kept (f : Events → Events) (g1 : Group.events ∈ G) (hf : EventsOk s.events → EventsOk (f s.events)) (h : Kept G s0 s) :
    Kept G s0 (s.updEvents f) :=
  h.trans ⟨⟨rfl, rfl, fun g hg => by cases g <;> first | rfl | exact absurd g1 hg⟩, Nat.le_refl _, hf, id⟩

/-- A change of the reach group. -/
theorem updReach_kept (f : Reach → Reach) (g1 : Group.reach ∈ G) (h : Kept G s0 s) :
    Kept G s0 (s.updReach f) :=
  h.trans ⟨⟨rfl, rfl, fun g hg => by cases g <;> first | rfl | exact absurd g1 hg⟩, Nat.le_refl _, id, id⟩

/-- A response. -/
theorem respond_kept (mg : Bool) (v : Word) (err : Bool) (g1 : Group.resp ∈ G) (h : Kept G s0 s) : Kept G s0 (respond mg v err s) :=
  h.trans ⟨⟨rfl, rfl, fun g hg => by cases g <;> first | rfl | exact absurd g1 hg⟩, Nat.le_refl _, id, id⟩

end Sys2Proof.Laws
end

