-- ==== Sys2Proof/Laws/KeptEvents.lean ====
section
/-!
SUPPORT. What the operations on the event controller can do: each keeps the controller's invariant.
-/

set_option Elab.async false

namespace Sys2Proof.Laws

open Sys2Proof.Machine Sys2Proof.Safety

variable {G : List Group} {s0 s : State}

/-! ### Source sets -/

/-- A bit of a source set after one bit is written. -/
theorem getLsbD_setSrc (v : BitVec 256) (n : Nat) (b : Bool) (k : Nat) :
    (setSrc v n b).getLsbD k = if k = n ∧ n < 256 then b else v.getLsbD k := by
  unfold setSrc
  by_cases hk : k < 256
  · cases b <;> simp only [Bool.false_eq_true, if_false, if_true]
    · rw [BitVec.getLsbD_and, BitVec.getLsbD_not, BitVec.getLsbD_shiftLeft]
      by_cases h : k = n
      · subst h; simp [hk]
      · by_cases h2 : k < n
        · simp [hk, h, h2]
        · have : ¬(k - n = 0) := by omega
          simp [hk, h, h2, this]
    · rw [BitVec.getLsbD_or, BitVec.getLsbD_shiftLeft]
      by_cases h : k = n
      · subst h; simp [hk]
      · by_cases h2 : k < n
        · simp [hk, h, h2]
        · have : ¬(k - n = 0) := by omega
          simp [hk, h, h2, this]
  · have h1 : ¬(k = n ∧ n < 256) := by omega
    rw [if_neg h1, BitVec.getLsbD_of_ge _ _ (by omega), BitVec.getLsbD_of_ge _ _ (by omega)]

/-- Source 0 of a set cleared there. -/
theorem clearSrc0_zero (v : BitVec 256) : (clearSrc0 v).getLsbD 0 = false := by
  rw [clearSrc0, getLsbD_setSrc, if_pos ⟨rfl, by omega⟩]

/-- Source 0 of a mask set there. -/
theorem maskSrc0_zero (v : BitVec 256) : (maskSrc0 v).getLsbD 0 = true := by
  rw [maskSrc0, getLsbD_setSrc, if_pos ⟨rfl, by omega⟩]

/-- Setting sources other than 0 leaves source 0. -/
theorem foldl_setSrc_zero (l : List Nat) (v : BitVec 256) (h : v.getLsbD 0 = false) :
    (l.foldl (fun v n => setSrc v (n + 1) true) v).getLsbD 0 = false := by
  induction l generalizing v with
  | nil => exact h
  | cons a l ih => exact ih _ (by rw [getLsbD_setSrc, if_neg (by omega)]; exact h)

/-- Clearing a list of sources. -/
theorem getLsbD_foldl_clear (l : List (Nat × Nat)) (v : BitVec 256) (k : Nat) :
    (l.foldl (fun a p => setSrc a p.1 false) v).getLsbD k = (v.getLsbD k && !(l.map Prod.fst).contains k) := by
  induction l generalizing v with
  | nil => simp
  | cons p l ih =>
    rw [List.foldl_cons, ih, getLsbD_setSrc]
    by_cases h : k = p.1
    · subst h
      by_cases hp : p.1 < 256
      · simp [hp]
      · simp [BitVec.getLsbD_of_ge v p.1 (by omega)]
    · have : ¬(k = p.1 ∧ p.1 < 256) := fun x => h x.1
      have h' : (k == p.1) = false := by simpa using h
      rw [if_neg this, List.map_cons, List.contains_cons, h', Bool.false_or]

/-! ### The invariant -/

/-- What keeps the stacks, the active sources and the settings keeps the invariant. -/
theorem eventsOk_of_same {e e' : Events} (h : EventsOk e) (ht : e'.targets.map EvTarget.stack = e.targets.map EvTarget.stack)
    (hi : e'.inputs.length = e.inputs.length) (hp : e'.pending.getLsbD 0 = false) (hm : e'.mask.getLsbD 0 = true)
    (ha : e'.active = e.active) (hc : ∀ q ∈ e'.cfg, q.2.2 ≤ 15) : EventsOk e' := by
  obtain ⟨h1, h2, -, -, h5, h6, -, h8, h9⟩ := h
  have hs : stacked e' = stacked e := by simp only [stacked, List.flatMap_def, ht]
  have hl : e'.targets.length = e.targets.length := by simpa using congrArg List.length ht
  refine ⟨hl.trans h1, hi.trans h2, hp, hm, ha ▸ h5, ?_, hc, hs ▸ h8, fun k => ?_⟩
  · intro x hx
    have : x.stack ∈ e.targets.map EvTarget.stack := ht ▸ List.mem_map_of_mem hx
    obtain ⟨y, hy, hyx⟩ := List.mem_map.mp this
    exact hyx ▸ h6 y hy
  · rw [ha, hs]; exact h9 k

/-- A new set of pending sources. -/
theorem eventsOk_pending {e : Events} (h : EventsOk e) (p : BitVec 256) (hp : p.getLsbD 0 = false) : EventsOk { e with pending := p } :=
  eventsOk_of_same h rfl rfl hp h.2.2.2.1 rfl h.2.2.2.2.2.2.1

/-- The stacks after one target's change. -/
theorem flatMap_modify {α β : Type} (g : α → List β) (f : α → α) (l : List α) (t : Nat) (ht : t < l.length) :
    (l.modify t f).flatMap g = (l.take t).flatMap g ++ (g (f l[t]) ++ (l.drop (t + 1)).flatMap g) := by
  rw [List.modify_eq_take_cons_drop ht]
  simp

/-- The stacks, one target's apart. -/
theorem flatMap_split {α β : Type} (g : α → List β) (l : List α) (t : Nat) (ht : t < l.length) :
    l.flatMap g = (l.take t).flatMap g ++ (g l[t] ++ (l.drop (t + 1)).flatMap g) := by
  have e : l = l.take t ++ (l[t] :: l.drop (t + 1)) := by rw [← List.drop_eq_getElem_cons ht, List.take_append_drop]
  calc l.flatMap g = (l.take t ++ (l[t] :: l.drop (t + 1))).flatMap g := by rw [← e]
    _ = _ := by simp only [List.flatMap_append, List.flatMap_cons]

/-- A target by its number. -/
theorem evTarget_eq {e : Events} {t : Nat} (ht : t < e.targets.length) : evTarget e t = e.targets[t] := by
  simp [evTarget, ht]

/-- Targets after one target's change. -/
theorem mem_modify {α : Type} {f : α → α} {l : List α} {t : Nat} {x : α} (hx : x ∈ l.modify t f) :
    x ∈ l ∨ ∃ h : t < l.length, x = f l[t] := by
  by_cases ht : t < l.length
  · rw [List.modify_eq_take_cons_drop ht] at hx
    rcases List.mem_append.mp hx with hx | hx
    · exact .inl (List.mem_of_mem_take hx)
    · rcases List.mem_cons.mp hx with hx | hx
      · exact .inr ⟨ht, hx⟩
      · exact .inl (List.mem_of_mem_drop hx)
  · rw [List.modify_eq_self (by omega)] at hx
    exact .inl hx

/-- A target pushes a source that is not active, above its running priority. -/
theorem eventsOk_push {e : Events} (h : EventsOk e) (t n p : Nat) (f : EvTarget → EvTarget) (hf : ∀ x, (f x).stack = (n, p) :: x.stack)
    (ht : t < 8) (hn0 : n ≠ 0) (hn : n < 256) (ha : e.active.getLsbD n = false) (hp : p ≤ 15) (hr : runPrio (evTarget e t) < p + 1) :
    EventsOk { e with pending := setSrc e.pending n false, active := setSrc e.active n true, targets := e.targets.modify t f } := by
  obtain ⟨h1, h2, h3, h4, h5, h6, h7, h8, h9⟩ := h
  have htl : t < e.targets.length := by omega
  have hst : (stacked { e with pending := setSrc e.pending n false, active := setSrc e.active n true,
                                targets := e.targets.modify t f }).Perm (n :: stacked e) := by
    simp only [stacked]
    rw [flatMap_modify _ _ _ _ htl, flatMap_split EvTarget.stack e.targets t htl, hf]
    simp only [List.map_append, List.map_cons, List.cons_append]
    exact List.perm_middle
  have hnot : n ∉ stacked e := fun hm => by rw [(h9 n).mpr hm] at ha; exact Bool.noConfusion ha
  refine ⟨by simpa using h1, h2, ?_, h4, ?_, ?_, h7, ?_, fun k => ?_⟩
  · simp only [getLsbD_setSrc]; split
    · rfl
    · exact h3
  · simp only [getLsbD_setSrc]; split
    · omega
    · exact h5
  · intro x hx
    rcases mem_modify hx with hx | ⟨-, rfl⟩
    · exact h6 x hx
    · rw [hf]
      have hx := h6 _ (List.getElem_mem htl)
      refine ⟨List.pairwise_cons.mpr ⟨fun q hq => ?_, hx.1⟩, fun q hq => ?_⟩
      · rw [evTarget_eq htl] at hr
        cases hs : e.targets[t].stack with
        | nil => rw [hs] at hq; exact absurd hq (by simp)
        | cons a r =>
          rw [hs] at hq hx
          simp only [runPrio, hs] at hr
          rcases List.mem_cons.mp hq with rfl | hq
          · show q.2 < p; omega
          · have := (List.pairwise_cons.mp hx.1).1 q hq
            show q.2 < p; omega
      · rcases List.mem_cons.mp hq with rfl | hq
        · exact hp
        · exact hx.2 q hq
  · exact (hst.nodup_iff).mpr (List.nodup_cons.mpr ⟨hnot, h8⟩)
  · rw [hst.mem_iff, List.mem_cons]
    simp only [getLsbD_setSrc]
    split
    · simp_all
    · rename_i hk
      rw [h9 k]
      constructor
      · exact .inr
      · rintro (rfl | hk2)
        · exact absurd ⟨rfl, hn⟩ hk
        · exact hk2

/-- A target drops the sources at the top of its stack, and they are no longer active. -/
theorem eventsOk_drop {e : Events} (h : EventsOk e) (t : Nat) (gone rest : List (Nat × Nat)) (a : BitVec 256) (f : EvTarget → EvTarget)
    (ht : t < 8) (hs : (evTarget e t).stack = gone ++ rest) (hf : ∀ x, (f x).stack = if x.stack = (evTarget e t).stack then rest else x.stack)
    (ha : ∀ k, a.getLsbD k = (e.active.getLsbD k && !(gone.map Prod.fst).contains k)) :
    EventsOk { e with active := a, targets := e.targets.modify t f } := by
  obtain ⟨h1, h2, h3, h4, h5, h6, h7, h8, h9⟩ := h
  have htl : t < e.targets.length := by omega
  rw [evTarget_eq htl] at hs hf
  have hst : (stacked e).Perm (gone.map Prod.fst ++ stacked { e with active := a, targets := e.targets.modify t f }) := by
    simp only [stacked]
    rw [flatMap_modify _ _ _ _ htl, flatMap_split EvTarget.stack e.targets t htl, hf, if_pos rfl, hs]
    simp only [List.map_append, List.append_assoc]
    exact (List.perm_append_comm_assoc _ _ _)
  have hnd := (hst.nodup_iff).mp h8
  refine ⟨by simpa using h1, h2, h3, h4, ?_, ?_, h7, (List.nodup_append.mp hnd).2.1, fun k => ?_⟩
  · rw [ha, h5]; rfl
  · intro x hx
    rcases mem_modify hx with hx | ⟨-, rfl⟩
    · exact h6 x hx
    · rw [hf, if_pos rfl]
      have hx := h6 _ (List.getElem_mem htl)
      rw [hs] at hx
      exact ⟨(List.pairwise_append.mp hx.1).2.1, fun q hq => hx.2 q (List.mem_append_right _ hq)⟩
  · rw [ha, Bool.and_eq_true, h9 k, hst.mem_iff, List.mem_append]
    have hdis := (List.nodup_append.mp hnd).2.2
    constructor
    · rintro ⟨hk | hk, hn⟩
      · simp only [Bool.not_eq_true', List.contains_eq_mem, decide_eq_false_iff_not] at hn
        exact absurd hk hn
      · exact hk
    · intro hk
      refine ⟨.inr hk, ?_⟩
      simp only [Bool.not_eq_true', List.contains_eq_mem, decide_eq_false_iff_not]
      exact fun hg => hdis k hg k hk rfl

/-- A change of the events that keeps the invariant. -/
theorem events_kept (f : Events → Events) (g1 : Group.events ∈ G) (hf : EventsOk s.events → EventsOk (f s.events)) (h : Kept G s0 s) :
    Kept G s0 (s.updEvents f) := updEvents_kept f g1 hf h

/-- A change of a target that keeps its stack. -/
theorem updTarget_kept (t : Nat) (f : EvTarget → EvTarget) (g1 : Group.events ∈ G) (hf : ∀ x, (f x).stack = x.stack) (h : Kept G s0 s) :
    Kept G s0 (updTarget t f s) := by
  refine updEvents_kept _ g1 (fun he => eventsOk_of_same he ?_ rfl he.2.2.1 he.2.2.2.1 rfl he.2.2.2.2.2.2.1) h
  refine List.ext_getElem (by simp) fun i h1 h2 => ?_
  simp only [List.getElem_map, List.getElem_modify]
  split
  · exact hf _
  · rfl

/-- A change of an input. -/
theorem updInput_kept (n : Nat) (f : ExtInput → ExtInput) (g1 : Group.events ∈ G) (h : Kept G s0 s) : Kept G s0 (updInput n f s) :=
  updEvents_kept _ g1 (fun he => eventsOk_of_same he rfl (by simp) he.2.2.1 he.2.2.2.1 rfl he.2.2.2.2.2.2.1) h

/-! ### Raising an event and the recorder -/

/-- An occurrence of a source. -/
theorem raise_kept (n : Nat) (g1 : Group.events ∈ G) (h : Kept G s0 s) : Kept G s0 (raise n s) := by
  unfold raise
  refine kept_ite (fun hn => updEvents_kept _ g1 (fun he => eventsOk_pending he _ ?_) h) fun _ => h
  rw [getLsbD_setSrc, if_neg (by omega)]; exact he.2.2.1

/-! ### Arbitration, claims and completions -/

/-- One arbitration. -/
theorem arbitrate_kept (g1 : Group.events ∈ G) (h : Kept G s0 s) : Kept G s0 (arbitrate s) := by
  refine updEvents_kept _ g1 (fun he => eventsOk_of_same he ?_ rfl he.2.2.1 he.2.2.2.1 rfl he.2.2.2.2.2.2.1) h
  simp only [mapTargets, List.map_map]
  refine List.ext_getElem (by simp) fun i h1 h2 => ?_
  have hi : i < s.events.targets.length := by simpa using h2
  simp [arbitrateTarget, hi]

/-- A claim. -/
theorem claim_kept (t : Nat) (g1 : Group.events ∈ G) (ht : t < 8) (h : Kept G s0 s) : Kept G s0 (claim t s) := by
  unfold claim
  refine kept_ite (fun hc => ?_) fun _ => h
  refine h.trans ⟨⟨rfl, rfl, fun g hg => by cases g <;> first | rfl | exact absurd g1 hg⟩, Nat.le_refl _, fun he => ?_, id⟩
  simp only [claimable, eligible, Bool.and_eq_true, bne_iff_ne, ne_eq, Bool.not_eq_true', decide_eq_true_eq] at hc
  obtain ⟨⟨⟨⟨⟨⟨hn, ⟨hp, -⟩, ha⟩, -⟩, -⟩, hr⟩, -⟩, -⟩ := hc
  refine eventsOk_push he t _ _ _ (fun x => rfl) ht hn ?_ ha ?_ hr
  · by_contra hge
    rw [BitVec.getLsbD_of_ge _ _ (by omega)] at hp
    exact Bool.noConfusion hp
  · unfold srcCfg
    split
    · rename_i p hp
      exact he.2.2.2.2.2.2.1 p (List.mem_of_find?_eq_some hp)
    · unfold srcCfgReset; split <;> decide

/-- A completion. -/
theorem complete_kept (t n : Nat) (g1 : Group.events ∈ G) (ht : t < 8) (h : Kept G s0 s) : Kept G s0 (complete t n s) := by
  unfold complete
  dsimp only
  refine kept_ite (fun _ => h) fun hn => ?_
  split
  · rename_i m p r hs
    refine kept_ite (fun hm => ?_) fun _ => raise_kept _ g1 (updTarget_kept _ _ g1 (fun _ => rfl) h)
    subst hm
    refine h.trans ⟨⟨rfl, rfl, fun g hg => by cases g <;> first | rfl | exact absurd g1 hg⟩, Nat.le_refl _, fun he => ?_, id⟩
    have hk := eventsOk_drop he t [(m, p)] r (setSrc s.events.active m false)
      (fun x => if x.stack = (evTarget s.events t).stack then { x with stack := r } else x) ht (by simpa using hs)
      (fun x => by split <;> rfl) (fun k => by
        rw [getLsbD_setSrc]
        by_cases hkm : k = m
        · subst hkm
          by_cases hlt : k < 256
          · simp [hlt]
          · simp [BitVec.getLsbD_of_ge s.events.active k (by omega)]
        · have h' : (k == m) = false := by simpa using hkm
          rw [if_neg (fun x => hkm x.1), List.map_cons, List.contains_cons, h', Bool.false_or]
          simp)
    have htl : t < s.events.targets.length := by have := he.1; omega
    have hm : s.events.targets.modify t (fun x => if x.stack = (evTarget s.events t).stack then { x with stack := r } else x) =
        s.events.targets.modify t (fun x => { x with stack := r }) := by
      rw [List.modify_eq_take_cons_drop htl, List.modify_eq_take_cons_drop htl, evTarget_eq htl, if_pos rfl]
    rw [hm] at hk
    exact hk
  · exact raise_kept _ g1 (updTarget_kept _ _ g1 (fun _ => rfl) h)

/-- A flush. -/
theorem flushTarget_kept (t : Nat) (g1 : Group.events ∈ G) (ht : t < 8) (h : Kept G s0 s) : Kept G s0 (flushTarget t s) := by
  refine h.trans ⟨⟨rfl, rfl, fun g hg => by cases g <;> first | rfl | exact absurd g1 hg⟩, Nat.le_refl _, fun he => ?_, id⟩
  have hk := eventsOk_drop he t (evTarget s.events t).stack [] _
    (fun x => if x.stack = (evTarget s.events t).stack then { x with stack := [] } else x) ht (by simp)
    (fun x => by split <;> rfl) (fun k => getLsbD_foldl_clear (evTarget s.events t).stack s.events.active k)
  have htl : t < s.events.targets.length := by have := he.1; omega
  have hm : s.events.targets.modify t (fun x => if x.stack = (evTarget s.events t).stack then { x with stack := [] } else x) =
      s.events.targets.modify t (fun x => { x with stack := [] }) := by
    rw [List.modify_eq_take_cons_drop htl, List.modify_eq_take_cons_drop htl, evTarget_eq htl, if_pos rfl]
  rw [hm] at hk
  exact hk

/-- Withdrawn offers. -/
theorem withdraw_kept (v : BitVec 256) (g1 : Group.events ∈ G) (h : Kept G s0 s) : Kept G s0 (s.updEvents (withdraw v)) :=
  updEvents_kept _ g1 (fun he => eventsOk_of_same he rfl rfl he.2.2.1 he.2.2.2.1 rfl he.2.2.2.2.2.2.1) h

/-- A target's withdrawn offer. -/
theorem withdrawOffer_kept (t : Nat) (g1 : Group.events ∈ G) (h : Kept G s0 s) : Kept G s0 (s.updEvents (withdrawOffer t)) :=
  updEvents_kept _ g1 (fun he => eventsOk_of_same he rfl rfl he.2.2.1 he.2.2.2.1 rfl he.2.2.2.2.2.2.1) h

/-- A write of EV_TGT_CTL. -/
theorem writeTgtCtl_kept (t : Nat) (v : Word) (g1 : Group.events ∈ G) (ht : t < 8) (h : Kept G s0 s) : Kept G s0 (writeTgtCtl t v s) := by
  unfold writeTgtCtl
  have h1 := updTarget_kept t (fun x => { x with en := bitOf v.toNat 31, modTime := bitsOf v.toNat 15 0 }) g1 (fun _ => rfl)
    (kept_ite (c := bitOf v.toNat 31 = true) (fun _ => h) fun _ => withdrawOffer_kept t g1 h)
  exact kept_ite (fun _ => flushTarget_kept t g1 ht h1) fun _ => h1

/-! ### Words of pending and mask -/

/-- EV_PENDING_SET. -/
theorem pendingSet_kept (w : Nat) (x : Word) (g1 : Group.events ∈ G) (h : Kept G s0 s) : Kept G s0 (pendingSet w x s) :=
  updEvents_kept _ g1 (fun he => eventsOk_pending he _ (clearSrc0_zero _)) h

/-- EV_PENDING_CLR. -/
theorem pendingClr_kept (w : Nat) (x : Word) (g1 : Group.events ∈ G) (h : Kept G s0 s) : Kept G s0 (pendingClr w x s) :=
  updEvents_kept _ g1 (fun he => eventsOk_pending he _ (clearSrc0_zero _)) h

/-- EV_MASK_SET. -/
theorem maskSet_kept (w : Nat) (x : Word) (g1 : Group.events ∈ G) (h : Kept G s0 s) : Kept G s0 (maskSet w x s) :=
  updEvents_kept _ g1 (fun he => eventsOk_of_same he rfl rfl he.2.2.1 (maskSrc0_zero _) rfl he.2.2.2.2.2.2.1) h

/-- EV_MASK_CLR. -/
theorem maskClr_kept (w : Nat) (x : Word) (g1 : Group.events ∈ G) (h : Kept G s0 s) : Kept G s0 (maskClr w x s) :=
  updEvents_kept _ g1 (fun he => eventsOk_of_same he rfl rfl he.2.2.1 (maskSrc0_zero _) rfl he.2.2.2.2.2.2.1) h

/-! ### External inputs -/

/-- A change of fields that the invariant does not name. -/
theorem events_other_kept (f : Events → Events) (g1 : Group.events ∈ G)
    (hf : ∀ e, (f e).targets = e.targets ∧ (f e).inputs.length = e.inputs.length ∧ (f e).pending = e.pending ∧ (f e).mask = e.mask ∧
      (f e).active = e.active ∧ (f e).cfg = e.cfg) (h : Kept G s0 s) : Kept G s0 (s.updEvents f) := by
  refine updEvents_kept _ g1 (fun he => ?_) h
  obtain ⟨a, b, c, d, e, k⟩ := hf s.events
  exact eventsOk_of_same he (by rw [a]) b (c ▸ he.2.2.1) (d ▸ he.2.2.2.1) e (k ▸ he.2.2.2.2.2.2.1)

/-- A quarantine. -/
theorem quarantine_kept (n : Nat) (b : Bool) (g1 : Group.events ∈ G) (h : Kept G s0 s) : Kept G s0 (quarantine n b s) :=
  kept_ite (fun _ => h) fun _ =>
    raise_kept _ g1 (updInput_kept _ _ g1 (events_other_kept _ g1 (fun _ => ⟨rfl, rfl, rfl, rfl, rfl, rfl⟩) h))

/-- The watcher's request. -/
theorem watcherWake_kept (g1 : Group.power ∈ G) (h : Kept G s0 s) : Kept G s0 (watcherWake s) :=
  kept_ite (fun _ => updPower_kept _ g1 (Nat.le_refl _) h) fun _ => h

/-- An accepted edge. -/
theorem extAccept_kept (n t : Nat) (g1 : Group.events ∈ G) (g2 : Group.power ∈ G) (h : Kept G s0 s) : Kept G s0 (extAccept n t s) :=
  kept_ite (fun _ => updInput_kept _ _ g1 h) fun _ => watcherWake_kept g2 (raise_kept _ g1 (updInput_kept _ _ g1 h))

/-- A rising transition. -/
theorem extRises_kept (n : Nat) (g1 : Group.events ∈ G) (h : Kept G s0 s) : Kept G s0 (extRises n s) := by
  unfold extRises
  dsimp only
  have h1 := fun f => updInput_kept (s := s) n f g1 h
  have h2 : ∀ (c : Bool) f, Kept G s0 (if c then (updInput n f s).updEvents fun e => { e with merged := satAdd 0xFFFF e.merged 1 } else updInput n f s) :=
    fun c f => kept_ite (fun _ => events_other_kept _ g1 (fun _ => ⟨rfl, rfl, rfl, rfl, rfl, rfl⟩) (h1 f)) fun _ => h1 f
  exact kept_ite (fun _ => quarantine_kept _ _ g1 (h2 _ _)) fun _ => h2 _ _

/-- A falling transition. -/
theorem extFalls_kept (n : Nat) (g1 : Group.events ∈ G) (g2 : Group.power ∈ G) (h : Kept G s0 s) : Kept G s0 (extFalls n s) := by
  unfold extFalls
  dsimp only
  split
  · exact updInput_kept _ _ g1 h
  · exact kept_ite (fun _ => updInput_kept _ _ g1 (events_other_kept _ g1 (fun _ => ⟨rfl, rfl, rfl, rfl, rfl, rfl⟩) h))
      fun _ => updInput_kept _ _ g1 (extAccept_kept _ _ g1 g2 h)

/-- A new inverted level. -/
theorem extMoves_kept (n : Nat) (b : Bool) (g1 : Group.events ∈ G) (g2 : Group.power ∈ G) (h : Kept G s0 s) : Kept G s0 (extMoves n b s) :=
  kept_ite (fun _ => kept_ite (fun _ => extRises_kept _ g1 h) fun _ => extFalls_kept _ g1 g2 h)
    fun _ => kept_ite (fun _ => updInput_kept _ _ g1 h) fun _ => updInput_kept _ _ g1 h

/-- A new raw level. -/
theorem extRaw_kept (n : Nat) (b : Bool) (g1 : Group.events ∈ G) (g2 : Group.power ∈ G) (h : Kept G s0 s) : Kept G s0 (extRaw n b s) :=
  extMoves_kept _ _ g1 g2 (updInput_kept _ _ g1 h)

/-- A release of quarantined inputs. -/
theorem quarRelease_kept (v : Word) (g1 : Group.events ∈ G) (h : Kept G s0 s) : Kept G s0 (quarRelease v s) :=
  events_other_kept _ g1 (fun _ => ⟨rfl, by simp, rfl, rfl, rfl, rfl⟩) h

/-- EV_EXT_INV. -/
theorem writeExtInv_kept (v : Word) (g1 : Group.events ∈ G) (g2 : Group.power ∈ G) (h : Kept G s0 s) : Kept G s0 (writeExtInv v s) :=
  kept_foldl (fun _ _ ht => extMoves_kept _ _ g1 g2 ht) (events_other_kept _ g1 (fun _ => ⟨rfl, rfl, rfl, rfl, rfl, rfl⟩) h)

/-- The latches at logic power-up. -/
theorem aoLatches_kept (g1 : Group.events ∈ G) (h : Kept G s0 s) : Kept G s0 (aoLatches s) :=
  updEvents_kept _ g1 (fun he =>
    eventsOk_of_same he rfl (by simp) (foldl_setSrc_zero _ _ he.2.2.1) he.2.2.2.1 rfl he.2.2.2.2.2.2.1) h

/-- The logic domain leaves ON. -/
theorem eventsDown_kept (g1 : Group.events ∈ G) (h : Kept G s0 s) : Kept G s0 (eventsDown s) :=
  updEvents_kept _ g1 (fun he =>
    eventsOk_of_same he (by simp [Function.comp_def]) (by simp) he.2.2.1 he.2.2.2.1 rfl he.2.2.2.2.2.2.1) h

end Sys2Proof.Laws
end

