-- ==== Sys2Proof/Laws/KeptShared.lean ====
section
/-!
SUPPORT. What the shared operations: the black box, the ports, the brine store and the links can change: one `Kept` lemma per operation.
-/

set_option Elab.async false

namespace Sys2Proof.Laws

open Sys2Proof.Machine Sys2Proof.Safety

variable {G : List Group} {w0 : State}

/-- What `bbRecord` can change. -/
theorem bbRecord_kept (kind unitType unit : Nat) (seq arg0 arg1 : Word) (s : State) (g1 : Group.bb ∈ G) (g2 : Group.events ∈ G) (h : Kept G w0 s) :
    Kept G w0 (bbRecord kind unitType unit seq arg0 arg1 s) := by
  unfold bbRecord
  try dsimp only
  repeat' first
    | with_reducible assumption
    | with_reducible apply updBb_kept
    | with_reducible apply raise_kept
    | with_reducible refine kept_ite (fun _ => ?_) (fun _ => ?_)
    | split
    | (intro _ _)

/-- What `bbCorrected` can change. -/
theorem bbCorrected_kept (kind unitType unit : Nat) (seq arg0 arg1 : Word) (s : State) (g1 : Group.bb ∈ G) (g2 : Group.events ∈ G) (h : Kept G w0 s) :
    Kept G w0 (bbCorrected kind unitType unit seq arg0 arg1 s) := by
  unfold bbCorrected
  try dsimp only
  repeat' first
    | with_reducible assumption
    | with_reducible apply updBb_kept
    | with_reducible apply bbRecord_kept
    | with_reducible refine kept_ite (fun _ => ?_) (fun _ => ?_)
    | split
    | (intro _ _)

/-- What `setBed` can change. -/
theorem setBed_kept (b : Nat) (x : Bed) (s : State) (g1 : Group.fabric ∈ G) (h : Kept G w0 s) :
    Kept G w0 (setBed b x s) := by
  unfold setBed
  try dsimp only
  repeat' first
    | with_reducible assumption
    | with_reducible apply updFabric_kept
    | with_reducible refine kept_ite (fun _ => ?_) (fun _ => ?_)
    | split
    | (intro _ _)

/-- What `setPan` can change. -/
theorem setPan_kept (p : Nat) (x : PanSt) (s : State) (g1 : Group.fabric ∈ G) (h : Kept G w0 s) :
    Kept G w0 (setPan p x s) := by
  unfold setPan
  try dsimp only
  repeat' first
    | with_reducible assumption
    | with_reducible apply updFabric_kept
    | with_reducible refine kept_ite (fun _ => ?_) (fun _ => ?_)
    | split
    | (intro _ _)

/-- What `setCell` can change. -/
theorem setCell_kept (p : Nat) (x : CellSt) (s : State) (g1 : Group.fabric ∈ G) (h : Kept G w0 s) :
    Kept G w0 (setCell p x s) := by
  unfold setCell
  try dsimp only
  repeat' first
    | with_reducible assumption
    | with_reducible apply updFabric_kept
    | with_reducible refine kept_ite (fun _ => ?_) (fun _ => ?_)
    | split
    | (intro _ _)

/-- What `pushMirrorNow` can change. -/
theorem pushMirrorNow_kept (s : State) (g1 : Group.fabric ∈ G) (h : Kept G w0 s) :
    Kept G w0 (pushMirrorNow s) := by
  unfold pushMirrorNow
  try dsimp only
  repeat' first
    | with_reducible assumption
    | with_reducible apply updFabric_kept
    | with_reducible refine kept_foldl (fun _ _ _ => ?_) ?_
    | with_reducible refine kept_ite (fun _ => ?_) (fun _ => ?_)
    | split
    | (intro _ _)

/-- What `staleMirror` can change. -/
theorem staleMirror_kept (s : State) (g1 : Group.fabric ∈ G) (h : Kept G w0 s) :
    Kept G w0 (staleMirror s) := by
  unfold staleMirror
  try dsimp only
  repeat' first
    | with_reducible assumption
    | with_reducible apply updFabric_kept
    | with_reducible refine kept_ite (fun _ => ?_) (fun _ => ?_)
    | split
    | (intro _ _)

/-- What `pushMirror` can change. -/
theorem pushMirror_kept (s : State) (g1 : Group.fabric ∈ G) (h : Kept G w0 s) :
    Kept G w0 (pushMirror s) := by
  unfold pushMirror
  try dsimp only
  repeat' first
    | with_reducible assumption
    | with_reducible apply pushMirrorNow_kept
    | with_reducible refine kept_ite (fun _ => ?_) (fun _ => ?_)
    | split
    | (intro _ _)

/-- What `changeBed` can change. -/
theorem changeBed_kept (before : State) (b : Nat) (x : Bed) (s : State) (g1 : Group.fabric ∈ G) (g2 : Group.bb ∈ G) (g3 : Group.events ∈ G) (h : Kept G w0 s) :
    Kept G w0 (changeBed before b x s) := by
  unfold changeBed
  try dsimp only
  repeat' first
    | with_reducible assumption
    | with_reducible apply bbRecord_kept
    | with_reducible apply setBed_kept
    | with_reducible refine kept_ite (fun _ => ?_) (fun _ => ?_)
    | split
    | (intro _ _)

/-- A chip-port write. -/
theorem chipWrite_kept (eff : State → State) (s : State) (g1 : Group.resp ∈ G) (he : ∀ t, Kept G w0 t → Kept G w0 (eff t))
    (h : Kept G w0 s) : Kept G w0 (chipWrite eff s) :=
  kept_ite (fun _ => respond_kept _ _ _ g1 (he s h)) fun _ => respond_kept _ _ _ g1 h

/-- A chip-port read with a side effect. -/
theorem chipRead_kept (v : Word) (eff : State → State) (s : State) (g1 : Group.resp ∈ G) (he : ∀ t, Kept G w0 t → Kept G w0 (eff t))
    (h : Kept G w0 s) : Kept G w0 (chipRead v eff s) :=
  kept_ite (fun _ => respond_kept _ _ _ g1 (he s h)) fun _ => respond_kept _ _ _ g1 h

/-- A management-port write. -/
theorem mgWrite_kept (eff : State → State) (s : State) (g1 : Group.resp ∈ G) (he : ∀ t, Kept G w0 t → Kept G w0 (eff t))
    (h : Kept G w0 s) : Kept G w0 (mgWrite eff s) :=
  kept_ite (fun _ => respond_kept _ _ _ g1 (he s h)) fun _ => h

/-- What `produce` can change. -/
theorem produce_kept (port : Nat) (tag seq : Dword) (hstatus : Nat) (body : OutBody) (s : State) (g1 : Group.ports ∈ G) (h : Kept G w0 s) :
    Kept G w0 (produce port tag seq hstatus body s) := by
  unfold produce
  try dsimp only
  repeat' first
    | with_reducible assumption
    | with_reducible apply updPorts_kept
    | with_reducible refine kept_ite (fun _ => ?_) (fun _ => ?_)
    | split
    | (intro _ _)

/-- What `patchAnswer` can change. -/
theorem patchAnswer_kept (port : Nat) (tag : Dword) (b : PatchBlock) (s : State) (g1 : Group.ports ∈ G) (h : Kept G w0 s) :
    Kept G w0 (patchAnswer port tag b s) := by
  unfold patchAnswer
  try dsimp only
  repeat' first
    | with_reducible assumption
    | with_reducible apply produce_kept
    | with_reducible refine kept_ite (fun _ => ?_) (fun _ => ?_)
    | split
    | (intro _ _)

/-- What `ctxAnswer` can change. -/
theorem ctxAnswer_kept (port : Nat) (bs : List Byte) (ack dropped : Nat) (epoch : Dword) (copy : Option Ctx) (s : State) (g1 : Group.ports ∈ G) (h : Kept G w0 s) :
    Kept G w0 (ctxAnswer port bs ack dropped epoch copy s) := by
  unfold ctxAnswer
  try dsimp only
  repeat' first
    | with_reducible assumption
    | with_reducible apply produce_kept
    | with_reducible refine kept_ite (fun _ => ?_) (fun _ => ?_)
    | split
    | (intro _ _)

/-- What `updPort` can change. -/
theorem updPort_kept (p : Nat) (f : PortSt → PortSt) (s : State) (g1 : Group.ports ∈ G) (h : Kept G w0 s) :
    Kept G w0 (updPort p f s) := by
  unfold updPort
  try dsimp only
  repeat' first
    | with_reducible assumption
    | with_reducible apply updPorts_kept
    | with_reducible refine kept_ite (fun _ => ?_) (fun _ => ?_)
    | split
    | (intro _ _)

/-- What `regrant` can change. -/
theorem regrant_kept (s : State) (g1 : Group.ports ∈ G) (h : Kept G w0 s) :
    Kept G w0 (regrant s) := by
  unfold regrant
  try dsimp only
  repeat' first
    | with_reducible assumption
    | with_reducible apply updPort_kept
    | with_reducible refine kept_ite (fun _ => ?_) (fun _ => ?_)
    | split
    | (intro _ _)

/-- What `withdrawCredits` can change. -/
theorem withdrawCredits_kept (s : State) (g1 : Group.ports ∈ G) (h : Kept G w0 s) :
    Kept G w0 (withdrawCredits s) := by
  unfold withdrawCredits
  try dsimp only
  repeat' first
    | with_reducible assumption
    | with_reducible apply updPort_kept
    | with_reducible refine kept_ite (fun _ => ?_) (fun _ => ?_)
    | split
    | (intro _ _)

/-- A packet leaves a port. -/
theorem sendFirst_kept (p : Nat) (s u : State) (g1 : Group.ports ∈ G) (hu : sendFirst p s = some u) (h : Kept G w0 s) : Kept G w0 u := by
  unfold sendFirst at hu
  split at hu
  · exact absurd hu (by simp)
  · dsimp only at hu
    split at hu
    · obtain rfl := Option.some.inj hu
      exact updPort_kept _ _ _ g1 (updPorts_kept _ g1 h)
    · exact absurd hu (by simp)

/-- What `portRise` can change. -/
theorem portRise_kept (p : Nat) (cut : Bool) (s : State) (g1 : Group.cb ∈ G) (g2 : Group.ports ∈ G) (h : Kept G w0 s) :
    Kept G w0 (portRise p cut s) := by
  unfold portRise
  try dsimp only
  repeat' first
    | with_reducible assumption
    | with_reducible apply updCb_kept
    | with_reducible apply updPort_kept
    | with_reducible apply regrant_kept
    | with_reducible refine kept_ite (fun _ => ?_) (fun _ => ?_)
    | split
    | (intro _ _)

/-- What `issueReadBack` can change. -/
theorem issueReadBack_kept (k : ReadKind) (addr len back : Nat) (s : State) (g1 : Group.ports ∈ G) (h : Kept G w0 s) :
    Kept G w0 (issueReadBack k addr len back s) := by
  unfold issueReadBack
  try dsimp only
  repeat' first
    | with_reducible assumption
    | with_reducible apply updPorts_kept
    | with_reducible refine kept_ite (fun _ => ?_) (fun _ => ?_)
    | split
    | (intro _ _)

/-- What `issueRead` can change. -/
theorem issueRead_kept (k : ReadKind) (addr len : Nat) (s : State) (g1 : Group.ports ∈ G) (h : Kept G w0 s) :
    Kept G w0 (issueRead k addr len s) := by
  unfold issueRead
  try dsimp only
  repeat' first
    | with_reducible assumption
    | with_reducible apply issueReadBack_kept
    | with_reducible refine kept_ite (fun _ => ?_) (fun _ => ?_)
    | split
    | (intro _ _)

/-- What `sendWaitingReads` can change. -/
theorem sendWaitingReads_kept (port : Nat) (s : State) (g1 : Group.ports ∈ G) (h : Kept G w0 s) :
    Kept G w0 (sendWaitingReads port s) := by
  unfold sendWaitingReads
  try dsimp only
  repeat' first
    | with_reducible assumption
    | with_reducible apply updPorts_kept
    | with_reducible refine kept_ite (fun _ => ?_) (fun _ => ?_)
    | split
    | (intro _ _)

/-- What `dropRead` can change. -/
theorem dropRead_kept (k : ReadKind) (s : State) (g1 : Group.ports ∈ G) (h : Kept G w0 s) :
    Kept G w0 (dropRead k s) := by
  unfold dropRead
  try dsimp only
  repeat' first
    | with_reducible assumption
    | with_reducible apply updPorts_kept
    | with_reducible refine kept_ite (fun _ => ?_) (fun _ => ?_)
    | split
    | (intro _ _)

/-- What `brineWrite` can change. -/
theorem brineWrite_kept (p off : Nat) (bs : List Byte) (s : State) (g1 : Group.brine ∈ G) (h : Kept G w0 s) :
    Kept G w0 (brineWrite p off bs s) := by
  unfold brineWrite
  try dsimp only
  repeat' first
    | with_reducible assumption
    | with_reducible apply updBrine_kept
    | with_reducible refine kept_ite (fun _ => ?_) (fun _ => ?_)
    | split
    | exact fun hb => hb
    | exact fun _ => rfl
    | exact fun hb => spWf_spWrite 0 _ _ _ hb
    | exact fun hb => spWf_spClear 0 _ _ _ hb
    | exact fun hb => spWf_spOverlay 0 _ _ _ (spWf_spClear 0 _ _ _ hb)
    | (intro _ _)

/-- What `noteRead` can change. -/
theorem noteRead_kept (p off : Nat) (s : State) (g1 : Group.brine ∈ G) (h : Kept G w0 s) :
    Kept G w0 (noteRead p off s) := by
  unfold noteRead
  try dsimp only
  repeat' first
    | with_reducible assumption
    | with_reducible apply updBrine_kept
    | with_reducible refine kept_ite (fun _ => ?_) (fun _ => ?_)
    | split
    | exact fun hb => hb
    | exact fun _ => rfl
    | exact fun hb => spWf_spWrite 0 _ _ _ hb
    | exact fun hb => spWf_spClear 0 _ _ _ hb
    | exact fun hb => spWf_spOverlay 0 _ _ _ (spWf_spClear 0 _ _ _ hb)
    | (intro _ _)

/-- What `brineWriteParity` can change. -/
theorem brineWriteParity_kept (p off : Nat) (bs : List Byte) (s : State) (g1 : Group.brine ∈ G) (h : Kept G w0 s) :
    Kept G w0 (brineWriteParity p off bs s) := by
  unfold brineWriteParity
  try dsimp only
  repeat' first
    | with_reducible assumption
    | with_reducible apply brineWrite_kept
    | with_reducible apply noteRead_kept
    | with_reducible refine kept_ite (fun _ => ?_) (fun _ => ?_)
    | split
    | (intro _ _)

/-- What `brineCopy` can change. -/
theorem brineCopy_kept (src dst lo hi : Nat) (s : State) (g1 : Group.brine ∈ G) (h : Kept G w0 s) :
    Kept G w0 (brineCopy src dst lo hi s) := by
  unfold brineCopy
  try dsimp only
  repeat' first
    | with_reducible assumption
    | with_reducible apply updBrine_kept
    | with_reducible refine kept_ite (fun _ => ?_) (fun _ => ?_)
    | split
    | exact fun hb => hb
    | exact fun _ => rfl
    | exact fun hb => spWf_spWrite 0 _ _ _ hb
    | exact fun hb => spWf_spClear 0 _ _ _ hb
    | exact fun hb => spWf_spOverlay 0 _ _ _ (spWf_spClear 0 _ _ _ hb)
    | (intro _ _)

/-- What `brineRebuild` can change. -/
theorem brineRebuild_kept (pans : List Nat) (dst lo hi : Nat) (s : State) (g1 : Group.brine ∈ G) (h : Kept G w0 s) :
    Kept G w0 (brineRebuild pans dst lo hi s) := by
  unfold brineRebuild
  try dsimp only
  repeat' first
    | with_reducible assumption
    | with_reducible apply updBrine_kept
    | with_reducible refine kept_foldl (fun _ _ _ => ?_) ?_
    | with_reducible refine kept_ite (fun _ => ?_) (fun _ => ?_)
    | split
    | exact fun hb => hb
    | exact fun _ => rfl
    | exact fun hb => spWf_spWrite 0 _ _ _ hb
    | exact fun hb => spWf_spClear 0 _ _ _ hb
    | exact fun hb => spWf_spOverlay 0 _ _ _ (spWf_spClear 0 _ _ _ hb)
    | (intro _ _)

/-- What `setVersion` can change. -/
theorem setVersion_kept (field l j : Nat) (v : Word) (s : State) (g1 : Group.weights ∈ G) (h : Kept G w0 s) :
    Kept G w0 (setVersion field l j v s) := by
  unfold setVersion
  try dsimp only
  repeat' first
    | with_reducible assumption
    | with_reducible apply updWeights_kept
    | with_reducible refine kept_ite (fun _ => ?_) (fun _ => ?_)
    | split
    | (intro _ _)

/-- What `restoreDirectory` can change. -/
theorem restoreDirectory_kept (c : ImageCfg) (b m : Nat) (s : State) (g1 : Group.weights ∈ G) (h : Kept G w0 s) :
    Kept G w0 (restoreDirectory c b m s) := by
  unfold restoreDirectory
  try dsimp only
  repeat' first
    | with_reducible assumption
    | with_reducible apply updWeights_kept
    | with_reducible refine kept_foldl (fun _ _ _ => ?_) ?_
    | with_reducible refine kept_ite (fun _ => ?_) (fun _ => ?_)
    | split
    | (intro _ _)

/-- What `updLink` can change. -/
theorem updLink_kept (l : Nat) (f : LinkSt → LinkSt) (s : State) (g1 : Group.reach ∈ G) (h : Kept G w0 s) :
    Kept G w0 (updLink l f s) := by
  unfold updLink
  try dsimp only
  repeat' first
    | with_reducible assumption
    | with_reducible apply updReach_kept
    | with_reducible refine kept_ite (fun _ => ?_) (fun _ => ?_)
    | split
    | (intro _ _)

/-- What `emit` can change. -/
theorem emit_kept (l : Nat) (bs : List Byte) (s : State) (g1 : Group.reach ∈ G) (h : Kept G w0 s) :
    Kept G w0 (emit l bs s) := by
  unfold emit
  try dsimp only
  repeat' first
    | with_reducible assumption
    | with_reducible apply updReach_kept
    | with_reducible apply updLink_kept
    | with_reducible refine kept_ite (fun _ => ?_) (fun _ => ?_)
    | split
    | (intro _ _)

/-- What `emitFlit` can change. -/
theorem emitFlit_kept (l : Nat) (f : Flit) (s : State) (g1 : Group.reach ∈ G) (h : Kept G w0 s) :
    Kept G w0 (emitFlit l f s) := by
  unfold emitFlit
  try dsimp only
  repeat' first
    | with_reducible assumption
    | with_reducible apply updLink_kept
    | with_reducible apply emit_kept
    | with_reducible refine kept_ite (fun _ => ?_) (fun _ => ?_)
    | split
    | (intro _ _)

/-- What `sendIdle` can change. -/
theorem sendIdle_kept (l : Nat) (nak : Bool) (s : State) (g1 : Group.reach ∈ G) (h : Kept G w0 s) :
    Kept G w0 (sendIdle l nak s) := by
  unfold sendIdle
  try dsimp only
  repeat' first
    | with_reducible assumption
    | with_reducible apply updReach_kept
    | with_reducible apply updLink_kept
    | with_reducible apply emit_kept
    | with_reducible refine kept_ite (fun _ => ?_) (fun _ => ?_)
    | split
    | (intro _ _)

/-- What `sendOne` can change. -/
theorem sendOne_kept (l v : Nat) (s : State) (g1 : Group.reach ∈ G) (h : Kept G w0 s) :
    Kept G w0 (sendOne l v s) := by
  unfold sendOne
  try dsimp only
  repeat' first
    | with_reducible assumption
    | with_reducible apply updReach_kept
    | with_reducible apply updLink_kept
    | with_reducible apply emitFlit_kept
    | with_reducible refine kept_foldl (fun _ _ _ => ?_) ?_
    | with_reducible refine kept_ite (fun _ => ?_) (fun _ => ?_)
    | split
    | (intro _ _)

/-- Ready flits leave a link. -/
theorem pumpLink_kept (l n : Nat) (s : State) (g1 : Group.reach ∈ G) (h : Kept G w0 s) : Kept G w0 (pumpLink l n s) := by
  induction n generalizing s with
  | zero => exact h
  | succ n ih =>
    unfold pumpLink
    split
    · exact h
    · exact kept_ite (fun _ => ih _ (sendOne_kept _ _ _ g1 h)) fun _ => h

/-- What `pump` can change. -/
theorem pump_kept (l : Nat) (s : State) (g1 : Group.reach ∈ G) (h : Kept G w0 s) :
    Kept G w0 (pump l s) := by
  unfold pump
  try dsimp only
  repeat' first
    | with_reducible assumption
    | with_reducible apply pumpLink_kept
    | with_reducible refine kept_ite (fun _ => ?_) (fun _ => ?_)
    | split
    | (intro _ _)

/-- What `sendFlit` can change. -/
theorem sendFlit_kept (l : Nat) (f : OutFlit) (s : State) (g1 : Group.reach ∈ G) (h : Kept G w0 s) :
    Kept G w0 (sendFlit l f s) := by
  unfold sendFlit
  try dsimp only
  repeat' first
    | with_reducible assumption
    | with_reducible apply updLink_kept
    | with_reducible apply pump_kept
    | with_reducible refine kept_ite (fun _ => ?_) (fun _ => ?_)
    | split
    | (intro _ _)

/-- What `sendUp` can change. -/
theorem sendUp_kept (l : Nat) (f : OutFlit) (s : State) (g1 : Group.reach ∈ G) (h : Kept G w0 s) :
    Kept G w0 (sendUp l f s) := by
  unfold sendUp
  try dsimp only
  repeat' first
    | with_reducible assumption
    | with_reducible apply sendFlit_kept
    | with_reducible refine kept_ite (fun _ => ?_) (fun _ => ?_)
    | split
    | (intro _ _)

/-- What `sendCopy` can change. -/
theorem sendCopy_kept (l : Nat) (f : OutFlit) (s : State) (g1 : Group.reach ∈ G) (h : Kept G w0 s) :
    Kept G w0 (sendCopy l f s) := by
  unfold sendCopy
  try dsimp only
  repeat' first
    | with_reducible assumption
    | with_reducible apply sendFlit_kept
    | with_reducible refine kept_ite (fun _ => ?_) (fun _ => ?_)
    | split
    | (intro _ _)

/-- What `sendAll` can change. -/
theorem sendAll_kept (ls : List Nat) (f : OutFlit) (s : State) (g1 : Group.reach ∈ G) (h : Kept G w0 s) :
    Kept G w0 (sendAll ls f s) := by
  unfold sendAll
  try dsimp only
  repeat' first
    | with_reducible assumption
    | with_reducible apply sendUp_kept
    | with_reducible refine kept_foldl (fun _ _ _ => ?_) ?_
    | with_reducible refine kept_ite (fun _ => ?_) (fun _ => ?_)
    | split
    | (intro _ _)

/-- What `updChild` can change. -/
theorem updChild_kept (c : Nat) (f : ChildSt → ChildSt) (s : State) (g1 : Group.reach ∈ G) (h : Kept G w0 s) :
    Kept G w0 (updChild c f s) := by
  unfold updChild
  try dsimp only
  repeat' first
    | with_reducible assumption
    | with_reducible apply updReach_kept
    | with_reducible refine kept_ite (fun _ => ?_) (fun _ => ?_)
    | split
    | (intro _ _)

/-- What `toChildren` can change. -/
theorem toChildren_kept (f : OutFlit) (s : State) (g1 : Group.reach ∈ G) (h : Kept G w0 s) :
    Kept G w0 (toChildren f s) := by
  unfold toChildren
  try dsimp only
  repeat' first
    | with_reducible assumption
    | with_reducible apply sendAll_kept
    | with_reducible refine kept_ite (fun _ => ?_) (fun _ => ?_)
    | split
    | (intro _ _)

/-- What `toParent` can change. -/
theorem toParent_kept (f : OutFlit) (s : State) (g1 : Group.reach ∈ G) (h : Kept G w0 s) :
    Kept G w0 (toParent f s) := by
  unfold toParent
  try dsimp only
  repeat' first
    | with_reducible assumption
    | with_reducible apply sendUp_kept
    | with_reducible refine kept_ite (fun _ => ?_) (fun _ => ?_)
    | split
    | (intro _ _)

/-- What `writeBbCtl` can change. -/
theorem writeBbCtl_kept (value : Word) (s : State) (g1 : Group.bb ∈ G) (g2 : Group.events ∈ G) (h : Kept G w0 s) :
    Kept G w0 (writeBbCtl value s) := by
  unfold writeBbCtl
  try dsimp only
  repeat' first
    | with_reducible assumption
    | with_reducible apply updBb_kept
    | with_reducible apply bbRecord_kept
    | with_reducible refine kept_ite (fun _ => ?_) (fun _ => ?_)
    | split
    | (intro _ _)

/-- A register write on either port. -/
theorem portWrite_kept (mg : Bool) (eff : State → State) (s : State) (g1 : Group.resp ∈ G) (he : ∀ t, Kept G w0 t → Kept G w0 (eff t))
    (h : Kept G w0 s) : Kept G w0 (portWrite mg eff s) :=
  kept_ite (fun _ => mgWrite_kept _ _ g1 he h) fun _ => chipWrite_kept _ _ g1 he h

/-- What `swMark` can change. -/
theorem swMark_kept (value : Word) (s : State) (g1 : Group.bb ∈ G) (g2 : Group.events ∈ G) (h : Kept G w0 s) :
    Kept G w0 (swMark value s) := by
  unfold swMark
  try dsimp only
  repeat' first
    | with_reducible assumption
    | with_reducible apply bbRecord_kept
    | with_reducible refine kept_ite (fun _ => ?_) (fun _ => ?_)
    | split
    | (intro _ _)

/-- What `bbSelect` can change. -/
theorem bbSelect_kept (value : Word) (s : State) (g1 : Group.bb ∈ G) (h : Kept G w0 s) :
    Kept G w0 (bbSelect value s) := by
  unfold bbSelect
  try dsimp only
  repeat' first
    | with_reducible assumption
    | with_reducible apply updBb_kept
    | with_reducible refine kept_ite (fun _ => ?_) (fun _ => ?_)
    | split
    | (intro _ _)

end Sys2Proof.Laws
end

