-- ==== Sys2Proof/Laws/KeptWeights.lean ====
section
/-!
SUPPORT. What the operations of live weights, adapters, multicast patches and link resources can change: one `Kept` lemma per operation.
-/

set_option Elab.async false

namespace Sys2Proof.Laws

open Sys2Proof.Machine Sys2Proof.Safety

variable {G : List Group} {w0 : State}

/-- What `setFlipSeq` can change. -/
theorem setFlipSeq_kept (s : State) (g1 : Group.pipe ∈ G) (h : Kept G w0 s) :
    Kept G w0 (setFlipSeq s) := by
  unfold setFlipSeq
  try dsimp only
  repeat' first
    | with_reducible assumption
    | with_reducible apply updPipe_kept
    | with_reducible refine kept_ite (fun _ => ?_) (fun _ => ?_)
    | split
    | (intro _ _)

/-- What `updPkt` can change. -/
theorem updPkt_kept (id : Nat) (f : PatchPkt → PatchPkt) (s : State) (g1 : Group.weights ∈ G) (h : Kept G w0 s) :
    Kept G w0 (updPkt id f s) := by
  unfold updPkt
  try dsimp only
  repeat' first
    | with_reducible assumption
    | with_reducible apply updWeights_kept
    | with_reducible apply kept_id
    | with_reducible refine kept_ite (fun _ => ?_) (fun _ => ?_)
    | split
    | (intro _ _)

/-- What `settleEntry` can change. -/
theorem settleEntry_kept (id : Nat) (f : RowFate) (s : State) (g1 : Group.cb ∈ G) (g2 : Group.weights ∈ G) (h : Kept G w0 s) :
    Kept G w0 (settleEntry id f s) := by
  unfold settleEntry
  try dsimp only
  repeat' first
    | with_reducible assumption
    | with_reducible apply updCb_kept
    | with_reducible apply updPkt_kept
    | with_reducible apply kept_id
    | with_reducible refine kept_ite (fun _ => ?_) (fun _ => ?_)
    | split
    | (intro _ _)

/-- One row of a ROWS packet. -/
theorem enterEntry_kept (c : ImageCfg) (id : Nat) (stp : Word) (t : Nat) (bytes : List Byte) (s u : State) (g1 : Group.cb ∈ G) (g2 : Group.weights ∈ G)
    (hu : enterEntry c id stp t bytes s = some u) (h : Kept G w0 s) : Kept G w0 u := by
  have key : ∀ (b : Prop) [Decidable b] (x : JEntry),
      (if b then some (updPkt id (fun p => { p with inJournal := p.inJournal + 1 }) (s.updWeights fun w => { w with journal := w.journal ++ [x] }))
       else none) = some u → Kept G w0 u := by
    intro b _ x hx
    split at hx
    · obtain rfl := Option.some.inj hx
      exact updPkt_kept _ _ _ ‹_› (updWeights_kept _ ‹_› h)
    · exact absurd hx (by simp)
  have done : ∀ f, some (settleEntry id f s) = some u → Kept G w0 u := fun f hx => by
    obtain rfl := Option.some.inj hx
    refine settleEntry_kept _ _ _ ?_ ?_ h <;> assumption
  unfold enterEntry at hu
  dsimp only at hu
  split at hu
  · exact key _ _ hu
  · exact done _ hu
  · exact done _ hu
  · exact done _ hu
  · split at hu
    · split at hu
      · exact key _ _ hu
      · exact done _ hu
    · exact done _ hu
  · split at hu
    · split at hu
      · exact key _ _ hu
      · exact done _ hu
    · exact done _ hu

/-- The rows of a ROWS packet. -/
theorem enterEntries_kept (c : ImageCfg) (id : Nat) (stp : Word) (es : List (Nat × List Byte)) (s : State) (g1 : Group.cb ∈ G) (g2 : Group.weights ∈ G) (h : Kept G w0 s) :
    Kept G w0 (enterEntries c id stp es s).1 := by
  induction es generalizing s with
  | nil => exact h
  | cons e es ih =>
    unfold enterEntries
    split
    · rename_i s1 h1
      refine ih s1 (enterEntry_kept c id stp _ _ s s1 ?_ ?_ h1 h) <;> assumption
    · exact h

/-- Waiting ROWS packets enter the journal. -/
theorem fillJournal_kept (c : ImageCfg) (ps : List PatchPkt) (s : State) (g1 : Group.cb ∈ G) (g2 : Group.weights ∈ G) (h : Kept G w0 s) : Kept G w0 (fillJournal c ps s) := by
  induction ps generalizing s with
  | nil => exact h
  | cons p ps ih =>
    unfold fillJournal
    dsimp only
    have h1 : Kept G w0 (enterEntries c p.id p.block.stp p.todo s).1 := by
      refine enterEntries_kept c p.id p.block.stp p.todo s ?_ ?_ h <;> assumption
    exact kept_ite (fun _ => ih _ (updPkt_kept _ _ _ ‹_› h1)) fun _ => updPkt_kept _ _ _ ‹_› h1

/-- What `finishPkts` can change. -/
theorem finishPkts_kept (s : State) (g1 : Group.ports ∈ G) (g2 : Group.weights ∈ G) (h : Kept G w0 s) :
    Kept G w0 (finishPkts s) := by
  unfold finishPkts
  try dsimp only
  repeat' first
    | with_reducible assumption
    | with_reducible apply updWeights_kept
    | with_reducible apply patchAnswer_kept
    | with_reducible refine kept_foldl (fun _ _ _ => ?_) ?_
    | with_reducible refine kept_ite (fun _ => ?_) (fun _ => ?_)
    | split
    | (intro _ _)

/-- What `settleJournal` can change. -/
theorem settleJournal_kept (s : State) (g1 : Group.cb ∈ G) (g2 : Group.ports ∈ G) (g3 : Group.weights ∈ G) (h : Kept G w0 s) :
    Kept G w0 (settleJournal s) := by
  unfold settleJournal
  try dsimp only
  repeat' first
    | with_reducible assumption
    | with_reducible apply regrant_kept
    | with_reducible apply fillJournal_kept
    | with_reducible apply finishPkts_kept
    | with_reducible refine kept_ite (fun _ => ?_) (fun _ => ?_)
    | split
    | (intro _ _)

/-- What `acceptRows` can change. -/
theorem acceptRows_kept (c : ImageCfg) (port : Nat) (bs : List Byte) (answer : Bool) (s : State) (g1 : Group.cb ∈ G) (g2 : Group.ports ∈ G) (g3 : Group.weights ∈ G) (h : Kept G w0 s) :
    Kept G w0 (acceptRows c port bs answer s) := by
  unfold acceptRows
  try dsimp only
  repeat' first
    | with_reducible assumption
    | with_reducible apply updWeights_kept
    | with_reducible apply settleJournal_kept
    | with_reducible refine kept_ite (fun _ => ?_) (fun _ => ?_)
    | split
    | (intro _ _)

/-- What `retireEntry` can change. -/
theorem retireEntry_kept (e : JEntry) (f : RowFate) (s : State) (g1 : Group.cb ∈ G) (g2 : Group.ports ∈ G) (g3 : Group.weights ∈ G) (h : Kept G w0 s) :
    Kept G w0 (retireEntry e f s) := by
  unfold retireEntry
  try dsimp only
  repeat' first
    | with_reducible assumption
    | with_reducible apply updWeights_kept
    | with_reducible apply updPkt_kept
    | with_reducible apply settleEntry_kept
    | with_reducible apply settleJournal_kept
    | with_reducible refine kept_ite (fun _ => ?_) (fun _ => ?_)
    | split
    | (intro _ _)

/-- What `readWindow` can change. -/
theorem readWindow_kept (c : ImageCfg) (l : Nat) (kind : Nat → ReadKind) (base back : Nat) (s : State) (g1 : Group.ports ∈ G) (h : Kept G w0 s) :
    Kept G w0 (readWindow c l kind base back s) := by
  unfold readWindow
  try dsimp only
  repeat' first
    | with_reducible assumption
    | with_reducible apply issueReadBack_kept
    | with_reducible refine kept_foldl (fun _ _ _ => ?_) ?_
    | with_reducible refine kept_ite (fun _ => ?_) (fun _ => ?_)
    | split
    | (intro _ _)

/-- What `dropWindow` can change. -/
theorem dropWindow_kept (l : Nat) (s : State) (g1 : Group.ports ∈ G) (h : Kept G w0 s) :
    Kept G w0 (dropWindow l s) := by
  unfold dropWindow
  try dsimp only
  repeat' first
    | with_reducible assumption
    | with_reducible apply updPorts_kept
    | with_reducible refine kept_ite (fun _ => ?_) (fun _ => ?_)
    | split
    | (intro _ _)

/-- What a response to a window read can change. -/
theorem windowIn_kept (l : Nat) (again use : State → State) (s : State) (g1 : Group.ports ∈ G) (ha : ∀ t, Kept G w0 t → Kept G w0 (again t))
    (hu : ∀ t, Kept G w0 t → Kept G w0 (use t)) (h : Kept G w0 s) : Kept G w0 (windowIn l again use s) := by
  unfold windowIn
  exact kept_ite (fun _ => dropWindow_kept _ _ ‹_› h) fun _ => kept_ite (fun _ => ha _ h) fun _ => hu _ h

/-- What `writeRow` can change. -/
theorem writeRow_kept (c : ImageCfg) (e : JEntry) (s : State) (g1 : Group.cb ∈ G) (g2 : Group.ports ∈ G) (g3 : Group.brine ∈ G) (g4 : Group.weights ∈ G) (h : Kept G w0 s) :
    Kept G w0 (writeRow c e s) := by
  unfold writeRow
  try dsimp only
  repeat' first
    | with_reducible assumption
    | with_reducible apply brineWriteParity_kept
    | with_reducible apply setVersion_kept
    | with_reducible apply retireEntry_kept
    | with_reducible refine kept_ite (fun _ => ?_) (fun _ => ?_)
    | split
    | (intro _ _)

/-- What `retireRow` can change. -/
theorem retireRow_kept (c : ImageCfg) (e : JEntry) (s : State) (g1 : Group.cb ∈ G) (g2 : Group.ports ∈ G) (g3 : Group.brine ∈ G) (g4 : Group.weights ∈ G) (h : Kept G w0 s) :
    Kept G w0 (retireRow c e s) := by
  unfold retireRow
  try dsimp only
  repeat' first
    | with_reducible assumption
    | with_reducible apply retireEntry_kept
    | with_reducible apply readWindow_kept
    | with_reducible apply dropWindow_kept
    | with_reducible apply writeRow_kept
    | with_reducible refine kept_ite (fun _ => ?_) (fun _ => ?_)
    | split
    | (intro _ _)

/-- What `windowPatched` can change. -/
theorem windowPatched_kept (c : ImageCfg) (leaf ch back : Nat) (data : List Byte) (s : State) (g1 : Group.cb ∈ G) (g2 : Group.ports ∈ G) (g3 : Group.weights ∈ G) (h : Kept G w0 s) :
    Kept G w0 (windowPatched c leaf ch back data s) := by
  unfold windowPatched
  try dsimp only
  repeat' first
    | with_reducible assumption
    | with_reducible apply updPorts_kept
    | with_reducible apply dropRead_kept
    | with_reducible apply setVersion_kept
    | with_reducible apply retireEntry_kept
    | with_reducible refine kept_ite (fun _ => ?_) (fun _ => ?_)
    | split
    | (intro _ _)

/-- What `reportSealed` can change. -/
theorem reportSealed_kept (s : State) (g1 : Group.reach ∈ G) (h : Kept G w0 s) :
    Kept G w0 (reportSealed s) := by
  unfold reportSealed
  try dsimp only
  repeat' first
    | with_reducible assumption
    | with_reducible apply updReach_kept
    | with_reducible apply toParent_kept
    | with_reducible refine kept_ite (fun _ => ?_) (fun _ => ?_)
    | split
    | (intro _ _)

/-- What `reportGroup` can change. -/
theorem reportGroup_kept (s : State) (i : Nat) (g1 : Group.reach ∈ G) (h : Kept G w0 s) :
    Kept G w0 (reportGroup s i) := by
  unfold reportGroup
  try dsimp only
  repeat' first
    | with_reducible assumption
    | with_reducible apply updReach_kept
    | with_reducible apply sendUp_kept
    | with_reducible refine kept_ite (fun _ => ?_) (fun _ => ?_)
    | split
    | (intro _ _)

/-- What `reportGroups` can change. -/
theorem reportGroups_kept (s : State) (g1 : Group.reach ∈ G) (h : Kept G w0 s) :
    Kept G w0 (reportGroups s) := by
  unfold reportGroups
  try dsimp only
  repeat' first
    | with_reducible assumption
    | with_reducible apply reportGroup_kept
    | with_reducible refine kept_foldl (fun _ _ _ => ?_) ?_
    | with_reducible refine kept_ite (fun _ => ?_) (fun _ => ?_)
    | split
    | (intro _ _)

/-- What `sealedChanged` can change. -/
theorem sealedChanged_kept (s : State) (g1 : Group.weights ∈ G) (g2 : Group.reach ∈ G) (h : Kept G w0 s) :
    Kept G w0 (sealedChanged s) := by
  unfold sealedChanged
  try dsimp only
  repeat' first
    | with_reducible assumption
    | with_reducible apply updWeights_kept
    | with_reducible apply reportSealed_kept
    | with_reducible apply reportGroups_kept
    | with_reducible refine kept_ite (fun _ => ?_) (fun _ => ?_)
    | split
    | (intro _ _)

/-- What `acceptSeal` can change. -/
theorem acceptSeal_kept (port : Nat) (bs : List Byte) (answer : Bool) (s : State) (g1 : Group.ports ∈ G) (g2 : Group.weights ∈ G) (h : Kept G w0 s) :
    Kept G w0 (acceptSeal port bs answer s) := by
  unfold acceptSeal
  try dsimp only
  repeat' first
    | with_reducible assumption
    | with_reducible apply updWeights_kept
    | with_reducible apply patchAnswer_kept
    | with_reducible refine kept_ite (fun _ => ?_) (fun _ => ?_)
    | split
    | (intro _ _)

/-- What `closeWindow` can change. -/
theorem closeWindow_kept (s : State) (g1 : Group.ports ∈ G) (g2 : Group.pipe ∈ G) (g3 : Group.weights ∈ G) (g4 : Group.bb ∈ G) (g5 : Group.events ∈ G) (g6 : Group.reach ∈ G) (h : Kept G w0 s) :
    Kept G w0 (closeWindow s) := by
  unfold closeWindow
  try dsimp only
  repeat' first
    | with_reducible assumption
    | with_reducible apply updWeights_kept
    | with_reducible apply raise_kept
    | with_reducible apply bbRecord_kept
    | with_reducible apply patchAnswer_kept
    | with_reducible apply toChildren_kept
    | with_reducible apply setFlipSeq_kept
    | with_reducible refine kept_ite (fun _ => ?_) (fun _ => ?_)
    | split
    | (intro _ _)

/-- What `tryClose` can change. -/
theorem tryClose_kept (s : State) (g1 : Group.ports ∈ G) (g2 : Group.pipe ∈ G) (g3 : Group.weights ∈ G) (g4 : Group.bb ∈ G) (g5 : Group.events ∈ G) (g6 : Group.reach ∈ G) (h : Kept G w0 s) :
    Kept G w0 (tryClose s) := by
  unfold tryClose
  try dsimp only
  repeat' first
    | with_reducible assumption
    | with_reducible apply closeWindow_kept
    | with_reducible refine kept_ite (fun _ => ?_) (fun _ => ?_)
    | split
    | (intro _ _)

/-- What `sealDone` can change. -/
theorem sealDone_kept (x : SealWait) (rest : List SealWait) (s : State) (g1 : Group.ports ∈ G) (g2 : Group.pipe ∈ G) (g3 : Group.weights ∈ G) (g4 : Group.bb ∈ G) (g5 : Group.events ∈ G) (g6 : Group.reach ∈ G) (h : Kept G w0 s) :
    Kept G w0 (sealDone x rest s) := by
  unfold sealDone
  try dsimp only
  repeat' first
    | with_reducible assumption
    | with_reducible apply updWeights_kept
    | with_reducible apply patchAnswer_kept
    | with_reducible apply sealedChanged_kept
    | with_reducible apply tryClose_kept
    | with_reducible refine kept_foldl (fun _ _ _ => ?_) ?_
    | with_reducible refine kept_ite (fun _ => ?_) (fun _ => ?_)
    | split
    | (intro _ _)

/-- What `sealAt` can change. -/
theorem sealAt_kept (x : SealWait) (rest : List SealWait) (l : Nat) (s : State) (g1 : Group.ports ∈ G) (g2 : Group.pipe ∈ G) (g3 : Group.weights ∈ G) (g4 : Group.bb ∈ G) (g5 : Group.events ∈ G) (g6 : Group.reach ∈ G) (h : Kept G w0 s) :
    Kept G w0 (sealAt x rest l s) := by
  unfold sealAt
  try dsimp only
  repeat' first
    | with_reducible assumption
    | with_reducible apply updWeights_kept
    | with_reducible apply regrant_kept
    | with_reducible apply sealDone_kept
    | with_reducible refine kept_ite (fun _ => ?_) (fun _ => ?_)
    | split
    | (intro _ _)

/-- What `endArm` can change. -/
theorem endArm_kept (outcome : Nat) (s : State) (g1 : Group.ports ∈ G) (g2 : Group.weights ∈ G) (h : Kept G w0 s) :
    Kept G w0 (endArm outcome s) := by
  unfold endArm
  try dsimp only
  repeat' first
    | with_reducible assumption
    | with_reducible apply updWeights_kept
    | with_reducible apply patchAnswer_kept
    | with_reducible refine kept_ite (fun _ => ?_) (fun _ => ?_)
    | split
    | (intro _ _)

/-- What `armFlip` can change. -/
theorem armFlip_kept (port : Nat) (tag : Dword) (b : PatchBlock) (s : State) (g1 : Group.ports ∈ G) (g2 : Group.weights ∈ G) (g3 : Group.reach ∈ G) (h : Kept G w0 s) :
    Kept G w0 (armFlip port tag b s) := by
  unfold armFlip
  try dsimp only
  repeat' first
    | with_reducible assumption
    | with_reducible apply updWeights_kept
    | with_reducible apply toChildren_kept
    | with_reducible apply endArm_kept
    | with_reducible refine kept_ite (fun _ => ?_) (fun _ => ?_)
    | split
    | (intro _ _)

/-- What `acceptArm` can change. -/
theorem acceptArm_kept (port : Nat) (bs : List Byte) (s : State) (g1 : Group.ports ∈ G) (g2 : Group.weights ∈ G) (g3 : Group.reach ∈ G) (h : Kept G w0 s) :
    Kept G w0 (acceptArm port bs s) := by
  unfold acceptArm
  try dsimp only
  repeat' first
    | with_reducible assumption
    | with_reducible apply patchAnswer_kept
    | with_reducible apply armFlip_kept
    | with_reducible refine kept_ite (fun _ => ?_) (fun _ => ?_)
    | split
    | (intro _ _)

/-- What `acceptDisarm` can change. -/
theorem acceptDisarm_kept (port : Nat) (bs : List Byte) (s : State) (g1 : Group.ports ∈ G) (g2 : Group.weights ∈ G) (g3 : Group.reach ∈ G) (h : Kept G w0 s) :
    Kept G w0 (acceptDisarm port bs s) := by
  unfold acceptDisarm
  try dsimp only
  repeat' first
    | with_reducible assumption
    | with_reducible apply updWeights_kept
    | with_reducible apply patchAnswer_kept
    | with_reducible apply toChildren_kept
    | with_reducible apply endArm_kept
    | with_reducible refine kept_ite (fun _ => ?_) (fun _ => ?_)
    | split
    | (intro _ _)

/-- What `raiseSplit` can change. -/
theorem raiseSplit_kept (s : State) (g1 : Group.bb ∈ G) (g2 : Group.events ∈ G) (h : Kept G w0 s) :
    Kept G w0 (raiseSplit s) := by
  unfold raiseSplit
  try dsimp only
  repeat' first
    | with_reducible assumption
    | with_reducible apply raise_kept
    | with_reducible apply bbRecord_kept
    | with_reducible refine kept_ite (fun _ => ?_) (fun _ => ?_)
    | split
    | (intro _ _)

/-- What `decideFlip` can change. -/
theorem decideFlip_kept (s : State) (g1 : Group.weights ∈ G) (g2 : Group.bb ∈ G) (g3 : Group.events ∈ G) (h : Kept G w0 s) :
    Kept G w0 (decideFlip s) := by
  unfold decideFlip
  try dsimp only
  repeat' first
    | with_reducible assumption
    | with_reducible apply updWeights_kept
    | with_reducible apply raiseSplit_kept
    | with_reducible refine kept_ite (fun _ => ?_) (fun _ => ?_)
    | split
    | (intro _ _)

/-- What `startReplay` can change. -/
theorem startReplay_kept (c : ImageCfg) (s : State) (l : Nat) (g1 : Group.ports ∈ G) (h : Kept G w0 s) :
    Kept G w0 (startReplay c s l) := by
  unfold startReplay
  try dsimp only
  repeat' first
    | with_reducible assumption
    | with_reducible apply readWindow_kept
    | with_reducible refine kept_ite (fun _ => ?_) (fun _ => ?_)
    | split
    | (intro _ _)

/-- What `fireFlip` can change. -/
theorem fireFlip_kept (stp : Word) (s : State) (g1 : Group.ports ∈ G) (g2 : Group.pipe ∈ G) (g3 : Group.brine ∈ G) (g4 : Group.weights ∈ G) (g5 : Group.bb ∈ G) (g6 : Group.events ∈ G) (g7 : Group.reach ∈ G) (h : Kept G w0 s) :
    Kept G w0 (fireFlip stp s) := by
  unfold fireFlip
  try dsimp only
  repeat' first
    | with_reducible assumption
    | with_reducible apply updBrine_kept
    | with_reducible apply updWeights_kept
    | with_reducible apply updReach_kept
    | with_reducible apply raise_kept
    | with_reducible apply bbRecord_kept
    | with_reducible apply toChildren_kept
    | with_reducible apply setFlipSeq_kept
    | with_reducible apply endArm_kept
    | with_reducible apply startReplay_kept
    | with_reducible refine kept_foldl (fun _ _ _ => ?_) ?_
    | with_reducible refine kept_ite (fun _ => ?_) (fun _ => ?_)
    | split
    | exact fun hb => hb
    | exact fun _ => rfl
    | exact fun hb => spWf_spWrite 0 _ _ _ hb
    | exact fun hb => spWf_spClear 0 _ _ _ hb
    | exact fun hb => spWf_spOverlay 0 _ _ _ (spWf_spClear 0 _ _ _ hb)
    | (intro _ _)

/-- What `abandonFlip` can change. -/
theorem abandonFlip_kept (s : State) (g1 : Group.ports ∈ G) (g2 : Group.weights ∈ G) (g3 : Group.bb ∈ G) (g4 : Group.events ∈ G) (h : Kept G w0 s) :
    Kept G w0 (abandonFlip s) := by
  unfold abandonFlip
  try dsimp only
  repeat' first
    | with_reducible assumption
    | with_reducible apply updWeights_kept
    | with_reducible apply raise_kept
    | with_reducible apply bbRecord_kept
    | with_reducible apply endArm_kept
    | with_reducible refine kept_ite (fun _ => ?_) (fun _ => ?_)
    | split
    | (intro _ _)

/-- What `replayRow` can change. -/
theorem replayRow_kept (c : ImageCfg) (l : Nat) (s : State) (j : Nat) (g1 : Group.brine ∈ G) (g2 : Group.weights ∈ G) (h : Kept G w0 s) :
    Kept G w0 (replayRow c l s j) := by
  unfold replayRow
  try dsimp only
  repeat' first
    | with_reducible assumption
    | with_reducible apply noteRead_kept
    | with_reducible apply brineWriteParity_kept
    | with_reducible apply setVersion_kept
    | with_reducible refine kept_ite (fun _ => ?_) (fun _ => ?_)
    | split
    | (intro _ _)

/-- What `replayAll` can change. -/
theorem replayAll_kept (c : ImageCfg) (l : Nat) (s : State) (g1 : Group.brine ∈ G) (g2 : Group.weights ∈ G) (h : Kept G w0 s) :
    Kept G w0 (replayAll c l s) := by
  unfold replayAll
  try dsimp only
  repeat' first
    | with_reducible assumption
    | with_reducible apply updWeights_kept
    | with_reducible apply replayRow_kept
    | with_reducible refine kept_foldl (fun _ _ _ => ?_) ?_
    | with_reducible refine kept_ite (fun _ => ?_) (fun _ => ?_)
    | split
    | (intro _ _)

/-- What `windowReplayed` can change. -/
theorem windowReplayed_kept (c : ImageCfg) (leaf ch back : Nat) (data : List Byte) (s : State) (g1 : Group.ports ∈ G) (h : Kept G w0 s) :
    Kept G w0 (windowReplayed c leaf ch back data s) := by
  unfold windowReplayed
  try dsimp only
  repeat' first
    | with_reducible assumption
    | with_reducible apply updPorts_kept
    | with_reducible apply dropRead_kept
    | with_reducible refine kept_ite (fun _ => ?_) (fun _ => ?_)
    | split
    | (intro _ _)

/-- What `writeSlots` can change. -/
theorem writeSlots_kept (c : ImageCfg) (n r first : Nat) (bs : List Byte) (s : State) (g1 : Group.brine ∈ G) (h : Kept G w0 s) :
    Kept G w0 (writeSlots c n r first bs s) := by
  unfold writeSlots
  try dsimp only
  repeat' first
    | with_reducible assumption
    | with_reducible apply brineWriteParity_kept
    | with_reducible refine kept_foldl (fun _ _ _ => ?_) ?_
    | with_reducible refine kept_ite (fun _ => ?_) (fun _ => ?_)
    | split
    | (intro _ _)

/-- What `updEntry` can change. -/
theorem updEntry_kept (v : Nat) (f : AdEntry → AdEntry) (s : State) (g1 : Group.adapters ∈ G) (h : Kept G w0 s) :
    Kept G w0 (updEntry v f s) := by
  unfold updEntry
  try dsimp only
  repeat' first
    | with_reducible assumption
    | with_reducible apply updAdapters_kept
    | with_reducible refine kept_ite (fun _ => ?_) (fun _ => ?_)
    | split
    | (intro _ _)

/-- What `freeVersion` can change. -/
theorem freeVersion_kept (v : Nat) (s : State) (g1 : Group.adapters ∈ G) (g2 : Group.reach ∈ G) (h : Kept G w0 s) :
    Kept G w0 (freeVersion v s) := by
  unfold freeVersion
  try dsimp only
  repeat' first
    | with_reducible assumption
    | with_reducible apply updAdapters_kept
    | with_reducible apply toChildren_kept
    | with_reducible apply updEntry_kept
    | with_reducible refine kept_ite (fun _ => ?_) (fun _ => ?_)
    | split
    | (intro _ _)

/-- What `freeRetired` can change. -/
theorem freeRetired_kept (s : State) (g1 : Group.adapters ∈ G) (g2 : Group.reach ∈ G) (h : Kept G w0 s) :
    Kept G w0 (freeRetired s) := by
  unfold freeRetired
  try dsimp only
  repeat' first
    | with_reducible assumption
    | with_reducible apply freeVersion_kept
    | with_reducible refine kept_foldl (fun _ _ _ => ?_) ?_
    | with_reducible refine kept_ite (fun _ => ?_) (fun _ => ?_)
    | split
    | (intro _ _)

/-- What `updLoad` can change. -/
theorem updLoad_kept (f : AdLoad → AdLoad) (s : State) (g1 : Group.adapters ∈ G) (h : Kept G w0 s) :
    Kept G w0 (updLoad f s) := by
  unfold updLoad
  try dsimp only
  repeat' first
    | with_reducible assumption
    | with_reducible apply updAdapters_kept
    | with_reducible refine kept_ite (fun _ => ?_) (fun _ => ?_)
    | split
    | (intro _ _)

/-- What `advanceLoads` can change. -/
theorem advanceLoads_kept (s : State) (g1 : Group.adapters ∈ G) (g2 : Group.events ∈ G) (h : Kept G w0 s) :
    Kept G w0 (advanceLoads s) := by
  unfold advanceLoads
  try dsimp only
  repeat' first
    | with_reducible assumption
    | with_reducible apply raise_kept
    | with_reducible apply updEntry_kept
    | with_reducible apply updLoad_kept
    | with_reducible refine kept_ite (fun _ => ?_) (fun _ => ?_)
    | split
    | (intro _ _)

/-- What `settleAdapters` can change. -/
theorem settleAdapters_kept (s : State) (g1 : Group.adapters ∈ G) (g2 : Group.events ∈ G) (g3 : Group.reach ∈ G) (h : Kept G w0 s) :
    Kept G w0 (settleAdapters s) := by
  unfold settleAdapters
  try dsimp only
  repeat' first
    | with_reducible assumption
    | with_reducible apply freeRetired_kept
    | with_reducible apply advanceLoads_kept
    | with_reducible refine kept_ite (fun _ => ?_) (fun _ => ?_)
    | split
    | (intro _ _)

/-- What `endLoad` can change. -/
theorem endLoad_kept (ack : Nat) (s : State) (g1 : Group.ports ∈ G) (g2 : Group.adapters ∈ G) (g3 : Group.events ∈ G) (g4 : Group.reach ∈ G) (h : Kept G w0 s) :
    Kept G w0 (endLoad ack s) := by
  unfold endLoad
  try dsimp only
  repeat' first
    | with_reducible assumption
    | with_reducible apply updAdapters_kept
    | with_reducible apply patchAnswer_kept
    | with_reducible apply regrant_kept
    | with_reducible apply dropRead_kept
    | with_reducible apply freeVersion_kept
    | with_reducible apply advanceLoads_kept
    | with_reducible refine kept_ite (fun _ => ?_) (fun _ => ?_)
    | split
    | (intro _ _)

/-- What `acceptLoad` can change. -/
theorem acceptLoad_kept (c : ImageCfg) (port : Nat) (bs : List Byte) (s : State) (g1 : Group.ports ∈ G) (g2 : Group.adapters ∈ G) (g3 : Group.events ∈ G) (h : Kept G w0 s) :
    Kept G w0 (acceptLoad c port bs s) := by
  unfold acceptLoad
  try dsimp only
  repeat' first
    | with_reducible assumption
    | with_reducible apply updAdapters_kept
    | with_reducible apply patchAnswer_kept
    | with_reducible apply advanceLoads_kept
    | with_reducible refine kept_ite (fun _ => ?_) (fun _ => ?_)
    | split
    | (intro _ _)

/-- What `acceptRetire` can change. -/
theorem acceptRetire_kept (port : Nat) (bs : List Byte) (s : State) (g1 : Group.ports ∈ G) (g2 : Group.adapters ∈ G) (g3 : Group.events ∈ G) (g4 : Group.reach ∈ G) (h : Kept G w0 s) :
    Kept G w0 (acceptRetire port bs s) := by
  unfold acceptRetire
  try dsimp only
  repeat' first
    | with_reducible assumption
    | with_reducible apply patchAnswer_kept
    | with_reducible apply updEntry_kept
    | with_reducible apply advanceLoads_kept
    | with_reducible apply settleAdapters_kept
    | with_reducible refine kept_ite (fun _ => ?_) (fun _ => ?_)
    | split
    | (intro _ _)

/-- What `startLoad` can change. -/
theorem startLoad_kept (c : ImageCfg) (x : AdLoad) (s : State) (g1 : Group.ports ∈ G) (g2 : Group.adapters ∈ G) (h : Kept G w0 s) :
    Kept G w0 (startLoad c x s) := by
  unfold startLoad
  try dsimp only
  repeat' first
    | with_reducible assumption
    | with_reducible apply issueRead_kept
    | with_reducible apply updEntry_kept
    | with_reducible refine kept_ite (fun _ => ?_) (fun _ => ?_)
    | split
    | (intro _ _)

/-- What `sendShare` can change. -/
theorem sendShare_kept (v handle rank : Nat) (src : List Byte) (s : State) (k : Nat × Nat × Nat) (g1 : Group.reach ∈ G) (h : Kept G w0 s) :
    Kept G w0 (sendShare v handle rank src s k) := by
  unfold sendShare
  try dsimp only
  repeat' first
    | with_reducible assumption
    | with_reducible apply sendUp_kept
    | with_reducible refine kept_ite (fun _ => ?_) (fun _ => ?_)
    | split
    | (intro _ _)

/-- What `lateShares` can change. -/
theorem lateShares_kept (k : Nat) (s : State) (g1 : Group.reach ∈ G) (h : Kept G w0 s) :
    Kept G w0 (lateShares k s) := by
  unfold lateShares
  try dsimp only
  repeat' first
    | with_reducible assumption
    | with_reducible apply sendShare_kept
    | with_reducible refine kept_foldl (fun _ _ _ => ?_) ?_
    | with_reducible refine kept_ite (fun _ => ?_) (fun _ => ?_)
    | split
    | (intro _ _)

/-- What `adapterData` can change. -/
theorem adapterData_kept (c : ImageCfg) (data : List Byte) (s : State) (g1 : Group.ports ∈ G) (g2 : Group.adapters ∈ G) (g3 : Group.events ∈ G) (g4 : Group.reach ∈ G) (h : Kept G w0 s) :
    Kept G w0 (adapterData c data s) := by
  unfold adapterData
  try dsimp only
  repeat' first
    | with_reducible assumption
    | with_reducible apply dropRead_kept
    | with_reducible apply updLoad_kept
    | with_reducible apply endLoad_kept
    | with_reducible apply sendShare_kept
    | with_reducible refine kept_foldl (fun _ _ _ => ?_) ?_
    | with_reducible refine kept_ite (fun _ => ?_) (fun _ => ?_)
    | split
    | (intro _ _)

/-- What `moveContexts` can change. -/
theorem moveContexts_kept (old : Nat) (s : State) (g1 : Group.adapters ∈ G) (h : Kept G w0 s) :
    Kept G w0 (moveContexts old s) := by
  unfold moveContexts
  try dsimp only
  repeat' first
    | with_reducible assumption
    | with_reducible apply updAdapters_kept
    | with_reducible refine kept_ite (fun _ => ?_) (fun _ => ?_)
    | split
    | (intro _ _)

/-- What `becomeCurrent` can change. -/
theorem becomeCurrent_kept (v : Nat) (s : State) (g1 : Group.ports ∈ G) (g2 : Group.adapters ∈ G) (g3 : Group.events ∈ G) (g4 : Group.reach ∈ G) (h : Kept G w0 s) :
    Kept G w0 (becomeCurrent v s) := by
  unfold becomeCurrent
  try dsimp only
  repeat' first
    | with_reducible assumption
    | with_reducible apply updEntry_kept
    | with_reducible apply settleAdapters_kept
    | with_reducible apply endLoad_kept
    | with_reducible apply moveContexts_kept
    | with_reducible refine kept_ite (fun _ => ?_) (fun _ => ?_)
    | split
    | (intro _ _)

/-- What `tryCurrent` can change. -/
theorem tryCurrent_kept (s : State) (g1 : Group.ports ∈ G) (g2 : Group.adapters ∈ G) (g3 : Group.events ∈ G) (g4 : Group.reach ∈ G) (h : Kept G w0 s) :
    Kept G w0 (tryCurrent s) := by
  unfold tryCurrent
  try dsimp only
  repeat' first
    | with_reducible assumption
    | with_reducible apply becomeCurrent_kept
    | with_reducible refine kept_ite (fun _ => ?_) (fun _ => ?_)
    | split
    | (intro _ _)

/-- What `writeLoad` can change. -/
theorem writeLoad_kept (c : ImageCfg) (x : AdLoad) (s : State) (g1 : Group.ports ∈ G) (g2 : Group.brine ∈ G) (g3 : Group.adapters ∈ G) (g4 : Group.events ∈ G) (g5 : Group.reach ∈ G) (h : Kept G w0 s) :
    Kept G w0 (writeLoad c x s) := by
  unfold writeLoad
  try dsimp only
  repeat' first
    | with_reducible assumption
    | with_reducible apply writeSlots_kept
    | with_reducible apply updLoad_kept
    | with_reducible apply tryCurrent_kept
    | with_reducible refine kept_ite (fun _ => ?_) (fun _ => ?_)
    | split
    | (intro _ _)

/-- What `answerNoImage` can change. -/
theorem answerNoImage_kept (port : Nat) (tag : Dword) (b : PatchBlock) (owed : Bool) (s : State) (g1 : Group.ports ∈ G) (h : Kept G w0 s) :
    Kept G w0 (answerNoImage port tag b owed s) := by
  unfold answerNoImage
  try dsimp only
  repeat' first
    | with_reducible assumption
    | with_reducible apply patchAnswer_kept
    | with_reducible refine kept_ite (fun _ => ?_) (fun _ => ?_)
    | split
    | (intro _ _)

/-- What `endPatches` can change. -/
theorem endPatches_kept (s : State) (g1 : Group.ports ∈ G) (g2 : Group.weights ∈ G) (h : Kept G w0 s) :
    Kept G w0 (endPatches s) := by
  unfold endPatches
  try dsimp only
  repeat' first
    | with_reducible assumption
    | with_reducible apply updPorts_kept
    | with_reducible apply updWeights_kept
    | with_reducible apply answerNoImage_kept
    | with_reducible refine kept_foldl (fun _ _ _ => ?_) ?_
    | with_reducible refine kept_ite (fun _ => ?_) (fun _ => ?_)
    | split
    | (intro _ _)

/-- What `endLoads` can change. -/
theorem endLoads_kept (s : State) (g1 : Group.ports ∈ G) (g2 : Group.adapters ∈ G) (g3 : Group.reach ∈ G) (h : Kept G w0 s) :
    Kept G w0 (endLoads s) := by
  unfold endLoads
  try dsimp only
  repeat' first
    | with_reducible assumption
    | with_reducible apply updAdapters_kept
    | with_reducible apply patchAnswer_kept
    | with_reducible apply dropRead_kept
    | with_reducible apply freeVersion_kept
    | with_reducible refine kept_foldl (fun _ _ _ => ?_) ?_
    | with_reducible refine kept_ite (fun _ => ?_) (fun _ => ?_)
    | split
    | (intro _ _)

/-- What `patchArrives` can change. -/
theorem patchArrives_kept (port : Nat) (bs : List Byte) (answer : Bool) (s : State) (g1 : Group.cb ∈ G) (g2 : Group.ports ∈ G) (g3 : Group.weights ∈ G) (g4 : Group.adapters ∈ G) (g5 : Group.events ∈ G) (g6 : Group.reach ∈ G) (h : Kept G w0 s) :
    Kept G w0 (patchArrives port bs answer s) := by
  unfold patchArrives
  try dsimp only
  repeat' first
    | with_reducible assumption
    | with_reducible apply patchAnswer_kept
    | with_reducible apply acceptRows_kept
    | with_reducible apply acceptSeal_kept
    | with_reducible apply acceptArm_kept
    | with_reducible apply acceptDisarm_kept
    | with_reducible apply acceptLoad_kept
    | with_reducible apply acceptRetire_kept
    | with_reducible refine kept_ite (fun _ => ?_) (fun _ => ?_)
    | split
    | (intro _ _)

/-- A multicast source answers. -/
theorem answerMcast_kept (n : Nat) (s : State) (g1 : Group.ports ∈ G) (g2 : Group.reach ∈ G) (h : Kept G w0 s) : Kept G w0 (answerMcast n s) := by
  induction n generalizing s with
  | zero => exact h
  | succ n ih =>
    unfold answerMcast
    split
    · exact kept_ite (fun _ => ih _ (patchAnswer_kept _ _ _ _ ‹_› (updReach_kept _ ‹_› h))) fun _ => h
    · exact h

/-- What `returnMcast` can change. -/
theorem returnMcast_kept (s : State) (g : Nat) (g1 : Group.reach ∈ G) (h : Kept G w0 s) :
    Kept G w0 (returnMcast s g) := by
  unfold returnMcast
  try dsimp only
  repeat' first
    | with_reducible assumption
    | with_reducible apply updReach_kept
    | with_reducible apply updLink_kept
    | with_reducible apply sendIdle_kept
    | with_reducible refine kept_ite (fun _ => ?_) (fun _ => ?_)
    | split
    | (intro _ _)

/-- What `settleMcast` can change. -/
theorem settleMcast_kept (s : State) (g1 : Group.ports ∈ G) (g2 : Group.reach ∈ G) (h : Kept G w0 s) :
    Kept G w0 (settleMcast s) := by
  unfold settleMcast
  try dsimp only
  repeat' first
    | with_reducible assumption
    | with_reducible apply regrant_kept
    | with_reducible apply answerMcast_kept
    | with_reducible apply returnMcast_kept
    | with_reducible refine kept_foldl (fun _ _ _ => ?_) ?_
    | with_reducible refine kept_ite (fun _ => ?_) (fun _ => ?_)
    | split
    | (intro _ _)

/-- What `sendCopies` can change. -/
theorem sendCopies_kept (g : Nat) (seg : List Byte) (s : State) (g1 : Group.reach ∈ G) (h : Kept G w0 s) :
    Kept G w0 (sendCopies g seg s) := by
  unfold sendCopies
  try dsimp only
  repeat' first
    | with_reducible assumption
    | with_reducible apply sendCopy_kept
    | with_reducible refine kept_foldl (fun _ _ _ => ?_) ?_
    | with_reducible refine kept_ite (fun _ => ?_) (fun _ => ?_)
    | split
    | (intro _ _)

/-- What `forwardPacket` can change. -/
theorem forwardPacket_kept (g : Nat) (bs : List Byte) (s : State) (g1 : Group.reach ∈ G) (h : Kept G w0 s) :
    Kept G w0 (forwardPacket g bs s) := by
  unfold forwardPacket
  try dsimp only
  repeat' first
    | with_reducible assumption
    | with_reducible apply sendCopies_kept
    | with_reducible refine kept_foldl (fun _ _ _ => ?_) ?_
    | with_reducible refine kept_ite (fun _ => ?_) (fun _ => ?_)
    | split
    | (intro _ _)

/-- What `dropCopies` can change. -/
theorem dropCopies_kept (g l : Nat) (s : State) (g1 : Group.reach ∈ G) (h : Kept G w0 s) :
    Kept G w0 (dropCopies g l s) := by
  unfold dropCopies
  try dsimp only
  repeat' first
    | with_reducible assumption
    | with_reducible apply updLink_kept
    | with_reducible refine kept_ite (fun _ => ?_) (fun _ => ?_)
    | split
    | (intro _ _)

/-- What `patchDelivered` can change. -/
theorem patchDelivered_kept (port : Nat) (bs : List Byte) (s : State) (g1 : Group.cb ∈ G) (g2 : Group.ports ∈ G) (g3 : Group.weights ∈ G) (g4 : Group.adapters ∈ G) (g5 : Group.events ∈ G) (g6 : Group.reach ∈ G) (h : Kept G w0 s) :
    Kept G w0 (patchDelivered port bs s) := by
  unfold patchDelivered
  try dsimp only
  repeat' first
    | with_reducible assumption
    | with_reducible apply updReach_kept
    | with_reducible apply patchArrives_kept
    | with_reducible apply settleMcast_kept
    | with_reducible apply forwardPacket_kept
    | with_reducible refine kept_ite (fun _ => ?_) (fun _ => ?_)
    | split
    | (intro _ _)

/-- What `setHops` can change. -/
theorem setHops_kept (s : State) (g1 : Group.tide ∈ G) (h : Kept G w0 s) :
    Kept G w0 (setHops s) := by
  unfold setHops
  try dsimp only
  repeat' first
    | with_reducible assumption
    | with_reducible apply updTide_kept
    | with_reducible refine kept_ite (fun _ => ?_) (fun _ => ?_)
    | split
    | (intro _ _)

/-- What `advertise` can change. -/
theorem advertise_kept (s : State) (g1 : Group.reach ∈ G) (h : Kept G w0 s) :
    Kept G w0 (advertise s) := by
  unfold advertise
  try dsimp only
  repeat' first
    | with_reducible assumption
    | with_reducible apply updReach_kept
    | with_reducible apply sendAll_kept
    | with_reducible refine kept_foldl (fun _ _ _ => ?_) ?_
    | with_reducible refine kept_ite (fun _ => ?_) (fun _ => ?_)
    | split
    | (intro _ _)

/-- What `offerRoute` can change. -/
theorem offerRoute_kept (l : Nat) (s : State) (e : Nat × Nat) (g1 : Group.events ∈ G) (g2 : Group.reach ∈ G) (h : Kept G w0 s) :
    Kept G w0 (offerRoute l s e) := by
  unfold offerRoute
  try dsimp only
  repeat' first
    | with_reducible assumption
    | with_reducible apply updReach_kept
    | with_reducible apply raise_kept
    | with_reducible refine kept_ite (fun _ => ?_) (fun _ => ?_)
    | split
    | (intro _ _)

/-- What `dropRoutes` can change. -/
theorem dropRoutes_kept (hit : RouteEnt → Bool) (s : State) (g1 : Group.reach ∈ G) (h : Kept G w0 s) :
    Kept G w0 (dropRoutes hit s) := by
  unfold dropRoutes
  try dsimp only
  repeat' first
    | with_reducible assumption
    | with_reducible apply updReach_kept
    | with_reducible apply advertise_kept
    | with_reducible refine kept_ite (fun _ => ?_) (fun _ => ?_)
    | split
    | (intro _ _)

/-- What `pruneGroups` can change. -/
theorem pruneGroups_kept (l : Nat) (s : State) (g1 : Group.events ∈ G) (g2 : Group.reach ∈ G) (h : Kept G w0 s) :
    Kept G w0 (pruneGroups l s) := by
  unfold pruneGroups
  try dsimp only
  repeat' first
    | with_reducible assumption
    | with_reducible apply updReach_kept
    | with_reducible apply raise_kept
    | with_reducible apply reportGroups_kept
    | with_reducible refine kept_ite (fun _ => ?_) (fun _ => ?_)
    | split
    | (intro _ _)

/-- What `countCodewords` can change. -/
theorem countCodewords_kept (l : Nat) (errors : List Nat) (s : State) (g1 : Group.reach ∈ G) (h : Kept G w0 s) :
    Kept G w0 (countCodewords l errors s) := by
  unfold countCodewords
  try dsimp only
  repeat' first
    | with_reducible assumption
    | with_reducible apply updLink_kept
    | with_reducible refine kept_ite (fun _ => ?_) (fun _ => ?_)
    | split
    | (intro _ _)

/-- What `tryLock` can change. -/
theorem tryLock_kept (l : Nat) (s : State) (g1 : Group.reach ∈ G) (h : Kept G w0 s) :
    Kept G w0 (tryLock l s) := by
  unfold tryLock
  try dsimp only
  repeat' first
    | with_reducible assumption
    | with_reducible apply updLink_kept
    | with_reducible refine kept_ite (fun _ => ?_) (fun _ => ?_)
    | split
    | (intro _ _)

/-- What `forgetReports` can change. -/
theorem forgetReports_kept (l : Nat) (s : State) (g1 : Group.reach ∈ G) (h : Kept G w0 s) :
    Kept G w0 (forgetReports l s) := by
  unfold forgetReports
  try dsimp only
  repeat' first
    | with_reducible assumption
    | with_reducible apply updReach_kept
    | with_reducible refine kept_ite (fun _ => ?_) (fun _ => ?_)
    | split
    | (intro _ _)

/-- What `linkFalls` can change. -/
theorem linkFalls_kept (l : Nat) (failure : Option Nat) (s0 : State) (g1 : Group.bb ∈ G) (g2 : Group.events ∈ G) (g3 : Group.reach ∈ G) (h : Kept G w0 s0) :
    Kept G w0 (linkFalls l failure s0) := by
  unfold linkFalls
  try dsimp only
  repeat' first
    | with_reducible assumption
    | with_reducible apply raise_kept
    | with_reducible apply bbRecord_kept
    | with_reducible apply updLink_kept
    | with_reducible apply forgetReports_kept
    | with_reducible refine kept_ite (fun _ => ?_) (fun _ => ?_)
    | split
    | (intro _ _)

/-- What `leaveGroups` can change. -/
theorem leaveGroups_kept (l : Nat) (s : State) (g1 : Group.ports ∈ G) (g2 : Group.events ∈ G) (g3 : Group.reach ∈ G) (h : Kept G w0 s) :
    Kept G w0 (leaveGroups l s) := by
  unfold leaveGroups
  try dsimp only
  repeat' first
    | with_reducible assumption
    | with_reducible apply settleMcast_kept
    | with_reducible apply pruneGroups_kept
    | with_reducible refine kept_ite (fun _ => ?_) (fun _ => ?_)
    | split
    | (intro _ _)

/-- What `regroupDown` can change. -/
theorem regroupDown_kept (w : Nat) (s : State) (l : Nat) (g1 : Group.ports ∈ G) (g2 : Group.bb ∈ G) (g3 : Group.events ∈ G) (g4 : Group.reach ∈ G) (h : Kept G w0 s) :
    Kept G w0 (regroupDown w s l) := by
  unfold regroupDown
  try dsimp only
  repeat' first
    | with_reducible assumption
    | with_reducible apply updLink_kept
    | with_reducible apply settleMcast_kept
    | with_reducible apply dropRoutes_kept
    | with_reducible apply linkFalls_kept
    | with_reducible apply leaveGroups_kept
    | with_reducible refine kept_ite (fun _ => ?_) (fun _ => ?_)
    | split
    | (intro _ _)

/-- What `regroup` can change. -/
theorem regroup_kept (w : Nat) (s : State) (g1 : Group.tide ∈ G) (g2 : Group.ports ∈ G) (g3 : Group.bb ∈ G) (g4 : Group.events ∈ G) (g5 : Group.reach ∈ G) (h : Kept G w0 s) :
    Kept G w0 (regroup w s) := by
  unfold regroup
  try dsimp only
  repeat' first
    | with_reducible assumption
    | with_reducible apply updReach_kept
    | with_reducible apply setHops_kept
    | with_reducible apply tryLock_kept
    | with_reducible apply regroupDown_kept
    | with_reducible refine kept_foldl (fun _ _ _ => ?_) ?_
    | with_reducible refine kept_ite (fun _ => ?_) (fun _ => ?_)
    | split
    | (intro _ _)

end Sys2Proof.Laws
end

