-- ==== Sys2Proof/Laws/KeptSheets.lean ====
section
/-!
SUPPORT. What the operations of contexts, sheets, scoring, merging, the head tile, commit and loads can change: one `Kept` lemma per operation.
-/

set_option Elab.async false

namespace Sys2Proof.Laws

open Sys2Proof.Machine Sys2Proof.Safety

variable {G : List Group} {w0 : State}

/-- What `putCtx` can change. -/
theorem putCtx_kept (c : Nat) (x : Ctx) (s : State) (g1 : Group.pipe ∈ G) (h : Kept G w0 s) :
    Kept G w0 (putCtx c x s) := by
  unfold putCtx
  try dsimp only
  repeat' first
    | with_reducible assumption
    | with_reducible apply updPipe_kept
    | with_reducible refine kept_ite (fun _ => ?_) (fun _ => ?_)
    | split
    | (intro _ _)

/-- What `freeClosing` can change. -/
theorem freeClosing_kept (x : Closing) (s : State) (g1 : Group.cb ∈ G) (g2 : Group.ports ∈ G) (g3 : Group.pipe ∈ G) (g4 : Group.adapters ∈ G) (g5 : Group.events ∈ G) (g6 : Group.reach ∈ G) (h : Kept G w0 s) :
    Kept G w0 (freeClosing x s) := by
  unfold freeClosing
  try dsimp only
  repeat' first
    | with_reducible assumption
    | with_reducible apply updCb_kept
    | with_reducible apply updPipe_kept
    | with_reducible apply produce_kept
    | with_reducible apply settleAdapters_kept
    | with_reducible apply putCtx_kept
    | with_reducible refine kept_ite (fun _ => ?_) (fun _ => ?_)
    | split
    | (intro _ _)

/-- What `settleClosings` can change. -/
theorem settleClosings_kept (s : State) (g1 : Group.cb ∈ G) (g2 : Group.ports ∈ G) (g3 : Group.pipe ∈ G) (g4 : Group.adapters ∈ G) (g5 : Group.events ∈ G) (g6 : Group.reach ∈ G) (h : Kept G w0 s) :
    Kept G w0 (settleClosings s) := by
  unfold settleClosings
  try dsimp only
  repeat' first
    | with_reducible assumption
    | with_reducible apply freeClosing_kept
    | with_reducible refine kept_foldl (fun _ _ _ => ?_) ?_
    | with_reducible refine kept_ite (fun _ => ?_) (fun _ => ?_)
    | split
    | (intro _ _)

/-- What `cancelNow` can change. -/
theorem cancelNow_kept (port : Nat) (tag : Dword) (order c : Nat) (s : State) (g1 : Group.cb ∈ G) (g2 : Group.ports ∈ G) (g3 : Group.pipe ∈ G) (g4 : Group.adapters ∈ G) (g5 : Group.events ∈ G) (g6 : Group.reach ∈ G) (h : Kept G w0 s) :
    Kept G w0 (cancelNow port tag order c s) := by
  unfold cancelNow
  try dsimp only
  repeat' first
    | with_reducible assumption
    | with_reducible apply updPipe_kept
    | with_reducible apply putCtx_kept
    | with_reducible apply settleClosings_kept
    | with_reducible refine kept_ite (fun _ => ?_) (fun _ => ?_)
    | split
    | (intro _ _)

/-- What `countAckErr` can change. -/
theorem countAckErr_kept (code : Nat) (s : State) (g1 : Group.cb ∈ G) (h : Kept G w0 s) :
    Kept G w0 (countAckErr code s) := by
  unfold countAckErr
  try dsimp only
  repeat' first
    | with_reducible assumption
    | with_reducible apply updCb_kept
    | with_reducible refine kept_ite (fun _ => ?_) (fun _ => ?_)
    | split
    | (intro _ _)

/-- What `writeEffect` can change. -/
theorem writeEffect_kept (port : Nat) (bs : List Byte) (s : State) (g1 : Group.cb ∈ G) (g2 : Group.ports ∈ G) (g3 : Group.pipe ∈ G) (g4 : Group.adapters ∈ G) (g5 : Group.events ∈ G) (g6 : Group.reach ∈ G) (h : Kept G w0 s) :
    Kept G w0 (writeEffect port bs s) := by
  unfold writeEffect
  try dsimp only
  repeat' first
    | with_reducible assumption
    | with_reducible apply ctxAnswer_kept
    | with_reducible apply settleAdapters_kept
    | with_reducible apply putCtx_kept
    | with_reducible apply countAckErr_kept
    | with_reducible refine kept_ite (fun _ => ?_) (fun _ => ?_)
    | split
    | (intro _ _)

/-- What `readEffect` can change. -/
theorem readEffect_kept (port : Nat) (bs : List Byte) (s : State) (g1 : Group.cb ∈ G) (g2 : Group.ports ∈ G) (h : Kept G w0 s) :
    Kept G w0 (readEffect port bs s) := by
  unfold readEffect
  try dsimp only
  repeat' first
    | with_reducible assumption
    | with_reducible apply ctxAnswer_kept
    | with_reducible apply countAckErr_kept
    | with_reducible refine kept_ite (fun _ => ?_) (fun _ => ?_)
    | split
    | (intro _ _)

/-- What `cancelEffect` can change. -/
theorem cancelEffect_kept (o : CtxWait) (s : State) (g1 : Group.cb ∈ G) (g2 : Group.ports ∈ G) (g3 : Group.pipe ∈ G) (g4 : Group.adapters ∈ G) (g5 : Group.events ∈ G) (g6 : Group.reach ∈ G) (h : Kept G w0 s) :
    Kept G w0 (cancelEffect o s) := by
  unfold cancelEffect
  try dsimp only
  repeat' first
    | with_reducible assumption
    | with_reducible apply ctxAnswer_kept
    | with_reducible apply cancelNow_kept
    | with_reducible apply countAckErr_kept
    | with_reducible refine kept_ite (fun _ => ?_) (fun _ => ?_)
    | split
    | (intro _ _)

/-- What `opEffect` can change. -/
theorem opEffect_kept (o : CtxWait) (s : State) (g1 : Group.cb ∈ G) (g2 : Group.ports ∈ G) (g3 : Group.pipe ∈ G) (g4 : Group.adapters ∈ G) (g5 : Group.events ∈ G) (g6 : Group.reach ∈ G) (h : Kept G w0 s) :
    Kept G w0 (opEffect o s) := by
  unfold opEffect
  try dsimp only
  repeat' first
    | with_reducible assumption
    | with_reducible apply updPipe_kept
    | with_reducible apply regrant_kept
    | with_reducible apply settleClosings_kept
    | with_reducible apply writeEffect_kept
    | with_reducible apply readEffect_kept
    | with_reducible apply cancelEffect_kept
    | with_reducible refine kept_ite (fun _ => ?_) (fun _ => ?_)
    | split
    | (intro _ _)

/-- What `takeOrder` can change. -/
theorem takeOrder_kept (s : State) (g1 : Group.ports ∈ G) (h : Kept G w0 s) :
    Kept G w0 (takeOrder s) := by
  unfold takeOrder
  try dsimp only
  repeat' first
    | with_reducible assumption
    | with_reducible apply updPorts_kept
    | with_reducible refine kept_ite (fun _ => ?_) (fun _ => ?_)
    | split
    | (intro _ _)

/-- What `arriveStep` can change. -/
theorem arriveStep_kept (port : Nat) (bs : List Byte) (rows : List (List Byte)) (s : State) (g1 : Group.ports ∈ G) (g2 : Group.pipe ∈ G) (h : Kept G w0 s) :
    Kept G w0 (arriveStep port bs rows s) := by
  unfold arriveStep
  try dsimp only
  repeat' first
    | with_reducible assumption
    | with_reducible apply updPipe_kept
    | with_reducible apply takeOrder_kept
    | with_reducible refine kept_ite (fun _ => ?_) (fun _ => ?_)
    | split
    | (intro _ _)

/-- What `arriveCtx` can change. -/
theorem arriveCtx_kept (port : Nat) (bs : List Byte) (s : State) (g1 : Group.cb ∈ G) (g2 : Group.ports ∈ G) (g3 : Group.pipe ∈ G) (g4 : Group.adapters ∈ G) (g5 : Group.events ∈ G) (g6 : Group.reach ∈ G) (h : Kept G w0 s) :
    Kept G w0 (arriveCtx port bs s) := by
  unfold arriveCtx
  try dsimp only
  repeat' first
    | with_reducible assumption
    | with_reducible apply updPipe_kept
    | with_reducible apply cancelNow_kept
    | with_reducible apply takeOrder_kept
    | with_reducible refine kept_ite (fun _ => ?_) (fun _ => ?_)
    | split
    | (intro _ _)

/-- What `deliver` can change. -/
theorem deliver_kept (port : Nat) (bs : List Byte) (s : State) (g1 : Group.cb ∈ G) (g2 : Group.ports ∈ G) (g3 : Group.pipe ∈ G) (g4 : Group.weights ∈ G) (g5 : Group.adapters ∈ G) (g6 : Group.events ∈ G) (g7 : Group.reach ∈ G) (h : Kept G w0 s) :
    Kept G w0 (deliver port bs s) := by
  unfold deliver
  try dsimp only
  repeat' first
    | with_reducible assumption
    | with_reducible apply patchDelivered_kept
    | with_reducible apply arriveStep_kept
    | with_reducible apply arriveCtx_kept
    | with_reducible refine kept_ite (fun _ => ?_) (fun _ => ?_)
    | split
    | (intro _ _)

/-- What `countMalformed` can change. -/
theorem countMalformed_kept (s : State) (g1 : Group.cb ∈ G) (h : Kept G w0 s) :
    Kept G w0 (countMalformed s) := by
  unfold countMalformed
  try dsimp only
  repeat' first
    | with_reducible assumption
    | with_reducible apply updCb_kept
    | with_reducible refine kept_ite (fun _ => ?_) (fun _ => ?_)
    | split
    | (intro _ _)

/-- What `packetArrives` can change. -/
theorem packetArrives_kept (port : Nat) (bs : List Byte) (s : State) (g1 : Group.cb ∈ G) (g2 : Group.ports ∈ G) (g3 : Group.pipe ∈ G) (g4 : Group.weights ∈ G) (g5 : Group.adapters ∈ G) (g6 : Group.events ∈ G) (g7 : Group.reach ∈ G) (h : Kept G w0 s) :
    Kept G w0 (packetArrives port bs s) := by
  unfold packetArrives
  try dsimp only
  repeat' first
    | with_reducible assumption
    | with_reducible apply updPorts_kept
    | with_reducible apply produce_kept
    | with_reducible apply deliver_kept
    | with_reducible apply countMalformed_kept
    | with_reducible refine kept_ite (fun _ => ?_) (fun _ => ?_)
    | split
    | (intro _ _)

/-- What `arrive` can change. -/
theorem arrive_kept (port : Nat) (bs : List Byte) (s : State) (g1 : Group.cb ∈ G) (g2 : Group.ports ∈ G) (g3 : Group.pipe ∈ G) (g4 : Group.weights ∈ G) (g5 : Group.adapters ∈ G) (g6 : Group.events ∈ G) (g7 : Group.reach ∈ G) (h : Kept G w0 s) :
    Kept G w0 (arrive port bs s) := by
  unfold arrive
  try dsimp only
  repeat' first
    | with_reducible assumption
    | with_reducible apply updPort_kept
    | with_reducible apply regrant_kept
    | with_reducible apply packetArrives_kept
    | with_reducible refine kept_ite (fun _ => ?_) (fun _ => ?_)
    | split
    | (intro _ _)

/-- What `updSheet` can change. -/
theorem updSheet_kept (seq : Nat) (f : Sheet → Sheet) (s : State) (g1 : Group.pipe ∈ G) (h : Kept G w0 s) :
    Kept G w0 (updSheet seq f s) := by
  unfold updSheet
  try dsimp only
  repeat' first
    | with_reducible assumption
    | with_reducible apply updPipe_kept
    | with_reducible refine kept_ite (fun _ => ?_) (fun _ => ?_)
    | split
    | (intro _ _)

/-- What `bringIntoForce` can change. -/
theorem bringIntoForce_kept (s : State) (g1 : Group.cb ∈ G) (g2 : Group.fn ∈ G) (g3 : Group.events ∈ G) (h : Kept G w0 s) :
    Kept G w0 (bringIntoForce s) := by
  unfold bringIntoForce
  try dsimp only
  repeat' first
    | with_reducible assumption
    | with_reducible apply updCb_kept
    | with_reducible apply updFn_kept
    | with_reducible apply raise_kept
    | with_reducible refine kept_ite (fun _ => ?_) (fun _ => ?_)
    | split
    | (intro _ _)

/-- What `enterStage2` can change. -/
theorem enterStage2_kept (x : Sheet) (rest : List Sheet) (s0 : State) (g1 : Group.ca ∈ G) (g2 : Group.cb ∈ G) (g3 : Group.ports ∈ G) (g4 : Group.pipe ∈ G) (g5 : Group.fn ∈ G) (g6 : Group.events ∈ G) (h : Kept G w0 s0) :
    Kept G w0 (enterStage2 x rest s0) := by
  unfold enterStage2
  try dsimp only
  repeat' first
    | with_reducible assumption
    | with_reducible apply updCa_kept
    | with_reducible apply updPipe_kept
    | with_reducible apply regrant_kept
    | with_reducible apply bringIntoForce_kept
    | with_reducible refine kept_ite (fun _ => ?_) (fun _ => ?_)
    | split
    | (intro _ _)

/-- What `enterStage3` can change. -/
theorem enterStage3_kept (x : Sheet) (s : State) (g1 : Group.ca ∈ G) (g2 : Group.pipe ∈ G) (h : Kept G w0 s) :
    Kept G w0 (enterStage3 x s) := by
  unfold enterStage3
  try dsimp only
  repeat' first
    | with_reducible assumption
    | with_reducible apply updCa_kept
    | with_reducible apply updSheet_kept
    | with_reducible refine kept_ite (fun _ => ?_) (fun _ => ?_)
    | split
    | (intro _ _)

/-- What `noteZ` can change. -/
theorem noteZ_kept (c : ImageCfg) (rows : List Row) (s : State) (g1 : Group.brine ∈ G) (h : Kept G w0 s) :
    Kept G w0 (noteZ c rows s) := by
  unfold noteZ
  try dsimp only
  repeat' first
    | with_reducible assumption
    | with_reducible apply noteRead_kept
    | with_reducible refine kept_foldl (fun _ _ _ => ?_) ?_
    | with_reducible refine kept_ite (fun _ => ?_) (fun _ => ?_)
    | split
    | (intro _ _)

/-- What `issueRows` can change. -/
theorem issueRows_kept (seq : Nat) (is : List Nat) (s : State) (g1 : Group.pipe ∈ G) (h : Kept G w0 s) :
    Kept G w0 (issueRows seq is s) := by
  unfold issueRows
  try dsimp only
  repeat' first
    | with_reducible assumption
    | with_reducible apply updSheet_kept
    | with_reducible refine kept_ite (fun _ => ?_) (fun _ => ?_)
    | split
    | (intro _ _)

/-- What `endFetch` can change. -/
theorem endFetch_kept (c : ImageCfg) (l : Nat) (s : State) (x : Sheet) (g1 : Group.ports ∈ G) (g2 : Group.pipe ∈ G) (h : Kept G w0 s) :
    Kept G w0 (endFetch c l s x) := by
  unfold endFetch
  try dsimp only
  repeat' first
    | with_reducible assumption
    | with_reducible apply updPorts_kept
    | with_reducible apply updSheet_kept
    | with_reducible refine kept_ite (fun _ => ?_) (fun _ => ?_)
    | split
    | (intro _ _)

/-- What `askGroups` can change. -/
theorem askGroups_kept (c : ImageCfg) (x : Sheet) (w : Work) (l : Nat) (s : State) (g1 : Group.ports ∈ G) (g2 : Group.pipe ∈ G) (h : Kept G w0 s) :
    Kept G w0 (askGroups c x w l s) := by
  unfold askGroups
  try dsimp only
  repeat' first
    | with_reducible assumption
    | with_reducible apply issueRead_kept
    | with_reducible apply updSheet_kept
    | with_reducible refine kept_foldl (fun _ _ _ => ?_) ?_
    | with_reducible refine kept_ite (fun _ => ?_) (fun _ => ?_)
    | split
    | (intro _ _)

/-- What `fetchAt` can change. -/
theorem fetchAt_kept (c : ImageCfg) (s0 : State) (l : Nat) (g1 : Group.ports ∈ G) (g2 : Group.pipe ∈ G) (h : Kept G w0 s0) :
    Kept G w0 (fetchAt c s0 l) := by
  unfold fetchAt
  try dsimp only
  repeat' first
    | with_reducible assumption
    | with_reducible apply endFetch_kept
    | with_reducible apply askGroups_kept
    | with_reducible refine kept_foldl (fun _ _ _ => ?_) ?_
    | with_reducible refine kept_ite (fun _ => ?_) (fun _ => ?_)
    | split
    | (intro _ _)

/-- What `settleFetch` can change. -/
theorem settleFetch_kept (s : State) (g1 : Group.ports ∈ G) (g2 : Group.pipe ∈ G) (h : Kept G w0 s) :
    Kept G w0 (settleFetch s) := by
  unfold settleFetch
  try dsimp only
  repeat' first
    | with_reducible assumption
    | with_reducible apply fetchAt_kept
    | with_reducible refine kept_foldl (fun _ _ _ => ?_) ?_
    | with_reducible refine kept_ite (fun _ => ?_) (fun _ => ?_)
    | split
    | (intro _ _)

/-- What `toKids` can change. -/
theorem toKids_kept (x : Sheet) (f : OutFlit) (s : State) (g1 : Group.reach ∈ G) (h : Kept G w0 s) :
    Kept G w0 (toKids x f s) := by
  unfold toKids
  try dsimp only
  repeat' first
    | with_reducible assumption
    | with_reducible apply sendAll_kept
    | with_reducible refine kept_ite (fun _ => ?_) (fun _ => ?_)
    | split
    | (intro _ _)

/-- What `sendEntries` can change. -/
theorem sendEntries_kept (slot : Nat) (es : List (Nat × GraderEntry)) (s : State) (k : Nat) (g1 : Group.reach ∈ G) (h : Kept G w0 s) :
    Kept G w0 (sendEntries slot es s k) := by
  unfold sendEntries
  try dsimp only
  repeat' first
    | with_reducible assumption
    | with_reducible apply sendUp_kept
    | with_reducible refine kept_ite (fun _ => ?_) (fun _ => ?_)
    | split
    | (intro _ _)

/-- What `sendWatch` can change. -/
theorem sendWatch_kept (slot : Nat) (ws : List Nat) (s : State) (k : Nat) (g1 : Group.reach ∈ G) (h : Kept G w0 s) :
    Kept G w0 (sendWatch slot ws s k) := by
  unfold sendWatch
  try dsimp only
  repeat' first
    | with_reducible assumption
    | with_reducible apply sendUp_kept
    | with_reducible refine kept_ite (fun _ => ?_) (fun _ => ?_)
    | split
    | (intro _ _)

/-- What `sendCtl` can change. -/
theorem sendCtl_kept (x : Sheet) (s : State) (q : SlotRef) (g1 : Group.reach ∈ G) (h : Kept G w0 s) :
    Kept G w0 (sendCtl x s q) := by
  unfold sendCtl
  try dsimp only
  repeat' first
    | with_reducible assumption
    | with_reducible apply toKids_kept
    | with_reducible refine kept_ite (fun _ => ?_) (fun _ => ?_)
    | split
    | (intro _ _)

/-- What `sendChunk` can change. -/
theorem sendChunk_kept (x : Sheet) (ch : Nat) (s : State) (q : SlotRef) (g1 : Group.reach ∈ G) (h : Kept G w0 s) :
    Kept G w0 (sendChunk x ch s q) := by
  unfold sendChunk
  try dsimp only
  repeat' first
    | with_reducible assumption
    | with_reducible apply toKids_kept
    | with_reducible refine kept_ite (fun _ => ?_) (fun _ => ?_)
    | split
    | (intro _ _)

/-- What `sendLists` can change. -/
theorem sendLists_kept (x : Sheet) (s : State) (q : SlotRef) (g1 : Group.reach ∈ G) (h : Kept G w0 s) :
    Kept G w0 (sendLists x s q) := by
  unfold sendLists
  try dsimp only
  repeat' first
    | with_reducible assumption
    | with_reducible apply toKids_kept
    | with_reducible apply sendEntries_kept
    | with_reducible apply sendWatch_kept
    | with_reducible refine kept_foldl (fun _ _ _ => ?_) ?_
    | with_reducible refine kept_ite (fun _ => ?_) (fun _ => ?_)
    | split
    | (intro _ _)

/-- What `sendSheet` can change. -/
theorem sendSheet_kept (x : Sheet) (s : State) (g1 : Group.reach ∈ G) (h : Kept G w0 s) :
    Kept G w0 (sendSheet x s) := by
  unfold sendSheet
  try dsimp only
  repeat' first
    | with_reducible assumption
    | with_reducible apply sendCtl_kept
    | with_reducible apply sendChunk_kept
    | with_reducible apply sendLists_kept
    | with_reducible refine kept_foldl (fun _ _ _ => ?_) ?_
    | with_reducible refine kept_ite (fun _ => ?_) (fun _ => ?_)
    | split
    | (intro _ _)

/-- What `openAtChildren` can change. -/
theorem openAtChildren_kept (x : Sheet) (s : State) (g1 : Group.pipe ∈ G) (g2 : Group.reach ∈ G) (h : Kept G w0 s) :
    Kept G w0 (openAtChildren x s) := by
  unfold openAtChildren
  try dsimp only
  repeat' first
    | with_reducible assumption
    | with_reducible apply updSheet_kept
    | with_reducible apply toKids_kept
    | with_reducible apply sendSheet_kept
    | with_reducible refine kept_ite (fun _ => ?_) (fun _ => ?_)
    | split
    | (intro _ _)

/-- What `noteFirst` can change. -/
theorem noteFirst_kept (x : Sheet) (s : State) (g1 : Group.pipe ∈ G) (h : Kept G w0 s) :
    Kept G w0 (noteFirst x s) := by
  unfold noteFirst
  try dsimp only
  repeat' first
    | with_reducible assumption
    | with_reducible apply updPipe_kept
    | with_reducible refine kept_ite (fun _ => ?_) (fun _ => ?_)
    | split
    | (intro _ _)

/-- What `beginScoring` can change. -/
theorem beginScoring_kept (x : Sheet) (s : State) (g1 : Group.pipe ∈ G) (g2 : Group.brine ∈ G) (g3 : Group.reach ∈ G) (h : Kept G w0 s) :
    Kept G w0 (beginScoring x s) := by
  unfold beginScoring
  try dsimp only
  repeat' first
    | with_reducible assumption
    | with_reducible apply updSheet_kept
    | with_reducible apply noteZ_kept
    | with_reducible apply openAtChildren_kept
    | with_reducible apply noteFirst_kept
    | with_reducible refine kept_ite (fun _ => ?_) (fun _ => ?_)
    | split
    | (intro _ _)

/-- What `settleStages` can change. -/
theorem settleStages_kept (s : State) (g1 : Group.pipe ∈ G) (h : Kept G w0 s) :
    Kept G w0 (settleStages s) := by
  unfold settleStages
  try dsimp only
  repeat' first
    | with_reducible assumption
    | with_reducible apply updSheet_kept
    | with_reducible refine kept_foldl (fun _ _ _ => ?_) ?_
    | with_reducible refine kept_ite (fun _ => ?_) (fun _ => ?_)
    | split
    | (intro _ _)

/-- What `updSlotAt` can change. -/
theorem updSlotAt_kept (seq i p : Nat) (f : Slot → Slot) (s : State) (g1 : Group.pipe ∈ G) (h : Kept G w0 s) :
    Kept G w0 (updSlotAt seq i p f s) := by
  unfold updSlotAt
  try dsimp only
  repeat' first
    | with_reducible assumption
    | with_reducible apply updSheet_kept
    | with_reducible refine kept_ite (fun _ => ?_) (fun _ => ?_)
    | split
    | (intro _ _)

/-- What `bufWrite` can change. -/
theorem bufWrite_kept (p k : Nat) (v : F32) (s : State) (g1 : Group.brine ∈ G) (h : Kept G w0 s) :
    Kept G w0 (bufWrite p k v s) := by
  unfold bufWrite
  try dsimp only
  repeat' first
    | with_reducible assumption
    | with_reducible apply brineWrite_kept
    | with_reducible refine kept_ite (fun _ => ?_) (fun _ => ?_)
    | split
    | (intro _ _)

/-- What `storeBatch` can change. -/
theorem storeBatch_kept (s0 : State) (c : ImageCfg) (f : Sfu) (r : Row) (l : Nat) (mb : F32) (gs : List (Nat × Nat × Graded)) (s : State) (g1 : Group.brine ∈ G) (h : Kept G w0 s) :
    Kept G w0 (storeBatch s0 c f r l mb gs s) := by
  unfold storeBatch
  try dsimp only
  repeat' first
    | with_reducible assumption
    | with_reducible apply bufWrite_kept
    | with_reducible refine kept_foldl (fun _ _ _ => ?_) ?_
    | with_reducible refine kept_ite (fun _ => ?_) (fun _ => ?_)
    | split
    | (intro _ _)

/-- What `countNonfinite` can change. -/
theorem countNonfinite_kept (gs : List (Nat × Nat × Graded)) (s : State) (g1 : Group.ca ∈ G) (h : Kept G w0 s) :
    Kept G w0 (countNonfinite gs s) := by
  unfold countNonfinite
  try dsimp only
  repeat' first
    | with_reducible assumption
    | with_reducible apply updCa_kept
    | with_reducible refine kept_ite (fun _ => ?_) (fun _ => ?_)
    | split
    | (intro _ _)

/-- What `noteBatch` can change. -/
theorem noteBatch_kept (c : ImageCfg) (r : Row) (sl : Slot) (l : Nat) (gs : List (Nat × Nat × Graded)) (s : State) (g1 : Group.brine ∈ G) (h : Kept G w0 s) :
    Kept G w0 (noteBatch c r sl l gs s) := by
  unfold noteBatch
  try dsimp only
  repeat' first
    | with_reducible assumption
    | with_reducible apply noteRead_kept
    | with_reducible refine kept_ite (fun _ => ?_) (fun _ => ?_)
    | split
    | (intro _ _)

/-- What `noteUnits` can change. -/
theorem noteUnits_kept (c : ImageCfg) (l : Nat) (s : State) (g1 : Group.brine ∈ G) (h : Kept G w0 s) :
    Kept G w0 (noteUnits c l s) := by
  unfold noteUnits
  try dsimp only
  repeat' first
    | with_reducible assumption
    | with_reducible apply noteRead_kept
    | with_reducible refine kept_ite (fun _ => ?_) (fun _ => ?_)
    | split
    | (intro _ _)

/-- What `countStall` can change. -/
theorem countStall_kept (s : State) (g1 : Group.cb ∈ G) (h : Kept G w0 s) :
    Kept G w0 (countStall s) := by
  unfold countStall
  try dsimp only
  repeat' first
    | with_reducible assumption
    | with_reducible apply updCb_kept
    | with_reducible refine kept_ite (fun _ => ?_) (fun _ => ?_)
    | split
    | (intro _ _)

/-- What `batchStall` can change. -/
theorem batchStall_kept (evaluates : Bool) (s : State) (g1 : Group.cb ∈ G) (h : Kept G w0 s) :
    Kept G w0 (batchStall evaluates s) := by
  unfold batchStall
  try dsimp only
  repeat' first
    | with_reducible assumption
    | with_reducible apply countStall_kept
    | with_reducible refine kept_ite (fun _ => ?_) (fun _ => ?_)
    | split
    | (intro _ _)

/-- What `scoreBatch` can change. -/
theorem scoreBatch_kept (c : ImageCfg) (x : Sheet) (i p : Nat) (r : Row) (sl : Slot) (l : Nat) (s : State) (g1 : Group.ca ∈ G) (g2 : Group.cb ∈ G) (g3 : Group.pipe ∈ G) (g4 : Group.brine ∈ G) (h : Kept G w0 s) :
    Kept G w0 (scoreBatch c x i p r sl l s) := by
  unfold scoreBatch
  try dsimp only
  repeat' first
    | with_reducible assumption
    | with_reducible apply updSlotAt_kept
    | with_reducible apply storeBatch_kept
    | with_reducible apply countNonfinite_kept
    | with_reducible apply noteBatch_kept
    | with_reducible apply noteUnits_kept
    | with_reducible apply batchStall_kept
    | with_reducible refine kept_ite (fun _ => ?_) (fun _ => ?_)
    | split
    | (intro _ _)

/-- What `countDups` can change. -/
theorem countDups_kept (fs : List Nat) (n : Nat) (dups : List (Nat × Nat)) (s : State) (g1 : Group.ca ∈ G) (h : Kept G w0 s) :
    Kept G w0 (countDups fs n dups s) := by
  unfold countDups
  try dsimp only
  repeat' first
    | with_reducible assumption
    | with_reducible apply updCa_kept
    | with_reducible refine kept_ite (fun _ => ?_) (fun _ => ?_)
    | split
    | (intro _ _)

/-- What `countLoose` can change. -/
theorem countLoose_kept (n : Nat) (s : State) (g1 : Group.cb ∈ G) (h : Kept G w0 s) :
    Kept G w0 (countLoose n s) := by
  unfold countLoose
  try dsimp only
  repeat' first
    | with_reducible assumption
    | with_reducible apply updCb_kept
    | with_reducible refine kept_ite (fun _ => ?_) (fun _ => ?_)
    | split
    | (intro _ _)

/-- What `sendHeadOut` can change. -/
theorem sendHeadOut_kept (slot : Nat) (ctl : PassCtl) (valued : Bool) (o : ChildOut) (s : State) (g1 : Group.reach ∈ G) (h : Kept G w0 s) :
    Kept G w0 (sendHeadOut slot ctl valued o s) := by
  unfold sendHeadOut
  try dsimp only
  repeat' first
    | with_reducible assumption
    | with_reducible apply toParent_kept
    | with_reducible refine kept_ite (fun _ => ?_) (fun _ => ?_)
    | split
    | (intro _ _)

/-- What `emitMerged` can change. -/
theorem emitMerged_kept (x : Sheet) (i p n : Nat) (r : Row) (sl : Slot) (o : ChildOut) (late : Bool) (s : State) (g1 : Group.pipe ∈ G) (g2 : Group.reach ∈ G) (h : Kept G w0 s) :
    Kept G w0 (emitMerged x i p n r sl o late s) := by
  unfold emitMerged
  try dsimp only
  repeat' first
    | with_reducible assumption
    | with_reducible apply updSlotAt_kept
    | with_reducible apply sendHeadOut_kept
    | with_reducible refine kept_ite (fun _ => ?_) (fun _ => ?_)
    | split
    | (intro _ _)

/-- What `mergeAt` can change. -/
theorem mergeAt_kept (x : Sheet) (i p n : Nat) (r : Row) (sl : Slot) (s : State) (g1 : Group.ca ∈ G) (g2 : Group.cb ∈ G) (g3 : Group.pipe ∈ G) (g4 : Group.reach ∈ G) (h : Kept G w0 s) :
    Kept G w0 (mergeAt x i p n r sl s) := by
  unfold mergeAt
  try dsimp only
  repeat' first
    | with_reducible assumption
    | with_reducible apply updSheet_kept
    | with_reducible apply countDups_kept
    | with_reducible apply countLoose_kept
    | with_reducible apply emitMerged_kept
    | with_reducible refine kept_ite (fun _ => ?_) (fun _ => ?_)
    | split
    | (intro _ _)

/-- What `storeCoefs` can change. -/
theorem storeCoefs_kept (s0 : State) (c : ImageCfg) (r : Row) (l : Nat) (cs : List F32) (s : State) (g1 : Group.brine ∈ G) (h : Kept G w0 s) :
    Kept G w0 (storeCoefs s0 c r l cs s) := by
  unfold storeCoefs
  try dsimp only
  repeat' first
    | with_reducible assumption
    | with_reducible apply bufWrite_kept
    | with_reducible refine kept_foldl (fun _ _ _ => ?_) ?_
    | with_reducible refine kept_ite (fun _ => ?_) (fun _ => ?_)
    | split
    | (intro _ _)

/-- What `gradientArrives` can change. -/
theorem gradientArrives_kept (c : ImageCfg) (x : Sheet) (i p n k ch : Nat) (xs : List F32) (s : State) (g1 : Group.cb ∈ G) (g2 : Group.pipe ∈ G) (g3 : Group.reach ∈ G) (h : Kept G w0 s) :
    Kept G w0 (gradientArrives c x i p n k ch xs s) := by
  unfold gradientArrives
  try dsimp only
  repeat' first
    | with_reducible assumption
    | with_reducible apply toParent_kept
    | with_reducible apply updSheet_kept
    | with_reducible apply countLoose_kept
    | with_reducible refine kept_ite (fun _ => ?_) (fun _ => ?_)
    | split
    | (intro _ _)

/-- What `noteChunk` can change. -/
theorem noteChunk_kept (c : ImageCfg) (r : Row) (l ch : Nat) (s : State) (g1 : Group.brine ∈ G) (h : Kept G w0 s) :
    Kept G w0 (noteChunk c r l ch s) := by
  unfold noteChunk
  try dsimp only
  repeat' first
    | with_reducible assumption
    | with_reducible apply noteRead_kept
    | with_reducible apply noteUnits_kept
    | with_reducible refine kept_ite (fun _ => ?_) (fun _ => ?_)
    | split
    | (intro _ _)

/-- What `chunkStall` can change. -/
theorem chunkStall_kept (c : ImageCfg) (r : Row) (l ch : Nat) (s : State) (g1 : Group.cb ∈ G) (h : Kept G w0 s) :
    Kept G w0 (chunkStall c r l ch s) := by
  unfold chunkStall
  try dsimp only
  repeat' first
    | with_reducible assumption
    | with_reducible apply countStall_kept
    | with_reducible refine kept_ite (fun _ => ?_) (fun _ => ?_)
    | split
    | (intro _ _)

/-- What `gradientPacket` can change. -/
theorem gradientPacket_kept (c : ImageCfg) (x : Sheet) (i p : Nat) (r : Row) (sl : Slot) (l ch : Nat) (s : State) (g1 : Group.cb ∈ G) (g2 : Group.ports ∈ G) (g3 : Group.pipe ∈ G) (g4 : Group.brine ∈ G) (g5 : Group.reach ∈ G) (h : Kept G w0 s) :
    Kept G w0 (gradientPacket c x i p r sl l ch s) := by
  unfold gradientPacket
  try dsimp only
  repeat' first
    | with_reducible assumption
    | with_reducible apply settleFetch_kept
    | with_reducible apply settleStages_kept
    | with_reducible apply updSlotAt_kept
    | with_reducible apply storeCoefs_kept
    | with_reducible apply gradientArrives_kept
    | with_reducible apply noteChunk_kept
    | with_reducible apply chunkStall_kept
    | with_reducible refine kept_ite (fun _ => ?_) (fun _ => ?_)
    | split
    | (intro _ _)

/-- What `renewIdle` can change. -/
theorem renewIdle_kept (seq : Nat) (s : State) (g1 : Group.pipe ∈ G) (h : Kept G w0 s) :
    Kept G w0 (renewIdle seq s) := by
  unfold renewIdle
  try dsimp only
  repeat' first
    | with_reducible assumption
    | with_reducible apply updSheet_kept
    | with_reducible refine kept_ite (fun _ => ?_) (fun _ => ?_)
    | split
    | (intro _ _)

/-- What `sendPass` can change. -/
theorem sendPass_kept (seq i : Nat) (r : Row) (backward : Bool) (s : State) (g1 : Group.pipe ∈ G) (g2 : Group.reach ∈ G) (h : Kept G w0 s) :
    Kept G w0 (sendPass seq i r backward s) := by
  unfold sendPass
  try dsimp only
  repeat' first
    | with_reducible assumption
    | with_reducible apply updSheet_kept
    | with_reducible apply toKids_kept
    | with_reducible refine kept_foldl (fun _ _ _ => ?_) ?_
    | with_reducible refine kept_ite (fun _ => ?_) (fun _ => ?_)
    | split
    | (intro _ _)

/-- What `countSelection` can change. -/
theorem countSelection_kept (r : Row) (s : State) (g1 : Group.ca ∈ G) (h : Kept G w0 s) :
    Kept G w0 (countSelection r s) := by
  unfold countSelection
  try dsimp only
  repeat' first
    | with_reducible assumption
    | with_reducible apply updCa_kept
    | with_reducible refine kept_ite (fun _ => ?_) (fun _ => ?_)
    | split
    | (intro _ _)

/-- What `takeFurther` can change. -/
theorem takeFurther_kept (seq i : Nat) (r : Row) (s : State) (g1 : Group.ca ∈ G) (g2 : Group.pipe ∈ G) (h : Kept G w0 s) :
    Kept G w0 (takeFurther seq i r s) := by
  unfold takeFurther
  try dsimp only
  repeat' first
    | with_reducible assumption
    | with_reducible apply updCa_kept
    | with_reducible apply updSheet_kept
    | with_reducible refine kept_ite (fun _ => ?_) (fun _ => ?_)
    | split
    | (intro _ _)

/-- What `issueFurther` can change. -/
theorem issueFurther_kept (x : Sheet) (i : Nat) (r : Row) (s : State) (g1 : Group.pipe ∈ G) (h : Kept G w0 s) :
    Kept G w0 (issueFurther x i r s) := by
  unfold issueFurther
  try dsimp only
  repeat' first
    | with_reducible assumption
    | with_reducible apply updSheet_kept
    | with_reducible apply issueRows_kept
    | with_reducible refine kept_ite (fun _ => ?_) (fun _ => ?_)
    | split
    | (intro _ _)

/-- What `issueWaiting` can change. -/
theorem issueWaiting_kept (seq : Nat) (s : State) (g1 : Group.pipe ∈ G) (g2 : Group.reach ∈ G) (h : Kept G w0 s) :
    Kept G w0 (issueWaiting seq s) := by
  unfold issueWaiting
  try dsimp only
  repeat' first
    | with_reducible assumption
    | with_reducible apply updSheet_kept
    | with_reducible apply issueRows_kept
    | with_reducible apply sendPass_kept
    | with_reducible refine kept_foldl (fun _ _ _ => ?_) ?_
    | with_reducible refine kept_ite (fun _ => ?_) (fun _ => ?_)
    | split
    | (intro _ _)

/-- What `headPassEnd` can change. -/
theorem headPassEnd_kept (c : ImageCfg) (x : Sheet) (i : Nat) (r : Row) (s : State) (g1 : Group.ca ∈ G) (g2 : Group.ports ∈ G) (g3 : Group.pipe ∈ G) (g4 : Group.reach ∈ G) (h : Kept G w0 s) :
    Kept G w0 (headPassEnd c x i r s) := by
  unfold headPassEnd
  try dsimp only
  repeat' first
    | with_reducible assumption
    | with_reducible apply updSheet_kept
    | with_reducible apply settleFetch_kept
    | with_reducible apply settleStages_kept
    | with_reducible apply renewIdle_kept
    | with_reducible apply sendPass_kept
    | with_reducible apply countSelection_kept
    | with_reducible apply takeFurther_kept
    | with_reducible apply issueFurther_kept
    | with_reducible apply issueWaiting_kept
    | with_reducible refine kept_ite (fun _ => ?_) (fun _ => ?_)
    | split
    | (intro _ _)

/-- The tokens of a row take effect. -/
theorem applyRow_kept (i : Nat) (r : Row) (s : State) (g1 : Group.cb ∈ G) (g2 : Group.pipe ∈ G) (h : Kept G w0 s) : Kept G w0 (applyRow i r s).2 := by
  unfold applyRow
  split
  · refine updCb_kept _ ?_ (putCtx_kept _ _ _ ?_ h) <;> assumption
  · exact h

/-- The rows of a sheet, in order. -/
theorem applyRows_kept (i : Nat) (rs : List Row) (s : State) (g1 : Group.cb ∈ G) (g2 : Group.pipe ∈ G) (h : Kept G w0 s) : Kept G w0 (applyRows i rs s).2 := by
  induction rs generalizing i s with
  | nil => exact h
  | cons r rs ih =>
    unfold applyRows
    refine ih _ _ (applyRow_kept i r s ?_ ?_ h) <;> assumption

/-- What `raiseEpochs` can change. -/
theorem raiseEpochs_kept (cs : List Nat) (s : State) (g1 : Group.pipe ∈ G) (h : Kept G w0 s) :
    Kept G w0 (raiseEpochs cs s) := by
  unfold raiseEpochs
  try dsimp only
  repeat' first
    | with_reducible assumption
    | with_reducible apply putCtx_kept
    | with_reducible refine kept_foldl (fun _ _ _ => ?_) ?_
    | with_reducible refine kept_ite (fun _ => ?_) (fun _ => ?_)
    | split
    | (intro _ _)

/-- What `moveNamed` can change. -/
theorem moveNamed_kept (x : Sheet) (s : State) (g1 : Group.pipe ∈ G) (g2 : Group.adapters ∈ G) (h : Kept G w0 s) :
    Kept G w0 (moveNamed x s) := by
  unfold moveNamed
  try dsimp only
  repeat' first
    | with_reducible assumption
    | with_reducible apply updAdapters_kept
    | with_reducible apply putCtx_kept
    | with_reducible refine kept_foldl (fun _ _ _ => ?_) ?_
    | with_reducible refine kept_ite (fun _ => ?_) (fun _ => ?_)
    | split
    | (intro _ _)

/-- What `countCommitted` can change. -/
theorem countCommitted_kept (rows : List Row) (recs : List ResultRec) (s : State) (g1 : Group.ca ∈ G) (h : Kept G w0 s) :
    Kept G w0 (countCommitted rows recs s) := by
  unfold countCommitted
  try dsimp only
  repeat' first
    | with_reducible assumption
    | with_reducible apply updCa_kept
    | with_reducible refine kept_ite (fun _ => ?_) (fun _ => ?_)
    | split
    | (intro _ _)

/-- A commit's records and effects. -/
theorem commitRecords_kept (x : Sheet) (s : State) (g1 : Group.ca ∈ G) (g2 : Group.cb ∈ G) (g3 : Group.pipe ∈ G) (g4 : Group.adapters ∈ G) (h : Kept G w0 s) : Kept G w0 (commitRecords x s).2 := by
  unfold commitRecords
  dsimp only
  repeat' first
    | with_reducible assumption
    | with_reducible apply countCommitted_kept
    | with_reducible apply moveNamed_kept
    | with_reducible apply raiseEpochs_kept
    | with_reducible apply applyRows_kept

/-- What `commitSheet` can change. -/
theorem commitSheet_kept (x : Sheet) (s : State) (g1 : Group.ca ∈ G) (g2 : Group.cb ∈ G) (g3 : Group.ports ∈ G) (g4 : Group.pipe ∈ G) (g5 : Group.adapters ∈ G) (g6 : Group.events ∈ G) (g7 : Group.reach ∈ G) (h : Kept G w0 s) :
    Kept G w0 (commitSheet x s) := by
  unfold commitSheet
  try dsimp only
  repeat' first
    | with_reducible assumption
    | with_reducible apply updPipe_kept
    | with_reducible apply produce_kept
    | with_reducible apply settleAdapters_kept
    | with_reducible apply settleClosings_kept
    | with_reducible apply settleStages_kept
    | with_reducible apply commitRecords_kept
    | with_reducible refine kept_ite (fun _ => ?_) (fun _ => ?_)
    | split
    | (intro _ _)

/-- What `noOutput` can change. -/
theorem noOutput_kept (s : State) (g1 : Group.ports ∈ G) (h : Kept G w0 s) :
    Kept G w0 (noOutput s) := by
  unfold noOutput
  try dsimp only
  repeat' first
    | with_reducible assumption
    | with_reducible apply updPorts_kept
    | with_reducible refine kept_ite (fun _ => ?_) (fun _ => ?_)
    | split
    | (intro _ _)

/-- What `stallTick` can change. -/
theorem stallTick_kept (s : State) (g1 : Group.cb ∈ G) (h : Kept G w0 s) :
    Kept G w0 (stallTick s) := by
  unfold stallTick
  try dsimp only
  repeat' first
    | with_reducible assumption
    | with_reducible apply updCb_kept
    | with_reducible refine kept_ite (fun _ => ?_) (fun _ => ?_)
    | split
    | (intro _ _)

/-- What `endMaskLoad` can change. -/
theorem endMaskLoad_kept (err : Option Nat) (s : State) (g1 : Group.ports ∈ G) (g2 : Group.masks ∈ G) (g3 : Group.events ∈ G) (h : Kept G w0 s) :
    Kept G w0 (endMaskLoad err s) := by
  unfold endMaskLoad
  try dsimp only
  repeat' first
    | with_reducible assumption
    | with_reducible apply updMasks_kept
    | with_reducible apply raise_kept
    | with_reducible apply dropRead_kept
    | with_reducible refine kept_ite (fun _ => ?_) (fun _ => ?_)
    | split
    | (intro _ _)

/-- What `maskGo` can change. -/
theorem maskGo_kept (b : Nat) (s : State) (g1 : Group.ports ∈ G) (g2 : Group.masks ∈ G) (g3 : Group.events ∈ G) (h : Kept G w0 s) :
    Kept G w0 (maskGo b s) := by
  unfold maskGo
  try dsimp only
  repeat' first
    | with_reducible assumption
    | with_reducible apply updMasks_kept
    | with_reducible apply raise_kept
    | with_reducible apply issueRead_kept
    | with_reducible apply endMaskLoad_kept
    | with_reducible refine kept_ite (fun _ => ?_) (fun _ => ?_)
    | split
    | (intro _ _)

/-- What `writeMaskLoad` can change. -/
theorem writeMaskLoad_kept (value : Word) (s : State) (g1 : Group.ports ∈ G) (g2 : Group.masks ∈ G) (g3 : Group.events ∈ G) (h : Kept G w0 s) :
    Kept G w0 (writeMaskLoad value s) := by
  unfold writeMaskLoad
  try dsimp only
  repeat' first
    | with_reducible assumption
    | with_reducible apply maskGo_kept
    | with_reducible refine kept_ite (fun _ => ?_) (fun _ => ?_)
    | split
    | (intro _ _)

/-- What `maskData` can change. -/
theorem maskData_kept (c : ImageCfg) (data : List Byte) (s : State) (g1 : Group.ports ∈ G) (g2 : Group.masks ∈ G) (h : Kept G w0 s) :
    Kept G w0 (maskData c data s) := by
  unfold maskData
  try dsimp only
  repeat' first
    | with_reducible assumption
    | with_reducible apply updMasks_kept
    | with_reducible apply dropRead_kept
    | with_reducible refine kept_ite (fun _ => ?_) (fun _ => ?_)
    | split
    | (intro _ _)

/-- What `maskCopied` can change. -/
theorem maskCopied_kept (c : ImageCfg) (s : State) (g1 : Group.cb ∈ G) (g2 : Group.ports ∈ G) (g3 : Group.masks ∈ G) (g4 : Group.events ∈ G) (h : Kept G w0 s) :
    Kept G w0 (maskCopied c s) := by
  unfold maskCopied
  try dsimp only
  repeat' first
    | with_reducible assumption
    | with_reducible apply updCb_kept
    | with_reducible apply updMasks_kept
    | with_reducible apply endMaskLoad_kept
    | with_reducible refine kept_ite (fun _ => ?_) (fun _ => ?_)
    | split
    | (intro _ _)

/-- What `failFn` can change. -/
theorem failFn_kept (kind slot : Nat) (s : State) (g1 : Group.ports ∈ G) (g2 : Group.fn ∈ G) (g3 : Group.events ∈ G) (h : Kept G w0 s) :
    Kept G w0 (failFn kind slot s) := by
  unfold failFn
  try dsimp only
  repeat' first
    | with_reducible assumption
    | with_reducible apply updFn_kept
    | with_reducible apply raise_kept
    | with_reducible apply dropRead_kept
    | with_reducible refine kept_ite (fun _ => ?_) (fun _ => ?_)
    | split
    | (intro _ _)

/-- What `fnGo` can change. -/
theorem fnGo_kept (s : State) (g1 : Group.ports ∈ G) (g2 : Group.fn ∈ G) (g3 : Group.events ∈ G) (h : Kept G w0 s) :
    Kept G w0 (fnGo s) := by
  unfold fnGo
  try dsimp only
  repeat' first
    | with_reducible assumption
    | with_reducible apply updFn_kept
    | with_reducible apply raise_kept
    | with_reducible apply issueRead_kept
    | with_reducible refine kept_ite (fun _ => ?_) (fun _ => ?_)
    | split
    | (intro _ _)

/-- What `writeFnLoad` can change. -/
theorem writeFnLoad_kept (value : Word) (s : State) (g1 : Group.ports ∈ G) (g2 : Group.fn ∈ G) (g3 : Group.events ∈ G) (h : Kept G w0 s) :
    Kept G w0 (writeFnLoad value s) := by
  unfold writeFnLoad
  try dsimp only
  repeat' first
    | with_reducible assumption
    | with_reducible apply fnGo_kept
    | with_reducible refine kept_ite (fun _ => ?_) (fun _ => ?_)
    | split
    | (intro _ _)

/-- What `fnData` can change. -/
theorem fnData_kept (data : List Byte) (s : State) (g1 : Group.ports ∈ G) (g2 : Group.fn ∈ G) (g3 : Group.events ∈ G) (h : Kept G w0 s) :
    Kept G w0 (fnData data s) := by
  unfold fnData
  try dsimp only
  repeat' first
    | with_reducible assumption
    | with_reducible apply updFn_kept
    | with_reducible apply dropRead_kept
    | with_reducible apply failFn_kept
    | with_reducible apply kept_id
    | with_reducible refine kept_ite (fun _ => ?_) (fun _ => ?_)
    | split
    | (intro _ _)

/-- What `releaseHeld` can change. -/
theorem releaseHeld_kept (s : State) (g1 : Group.cb ∈ G) (g2 : Group.ports ∈ G) (g3 : Group.pipe ∈ G) (g4 : Group.weights ∈ G) (g5 : Group.adapters ∈ G) (g6 : Group.events ∈ G) (g7 : Group.reach ∈ G) (h : Kept G w0 s) :
    Kept G w0 (releaseHeld s) := by
  unfold releaseHeld
  try dsimp only
  repeat' first
    | with_reducible assumption
    | with_reducible apply updPorts_kept
    | with_reducible apply patchArrives_kept
    | with_reducible apply deliver_kept
    | with_reducible refine kept_foldl (fun _ _ _ => ?_) ?_
    | with_reducible refine kept_ite (fun _ => ?_) (fun _ => ?_)
    | split
    | (intro _ _)

/-- What `abandonFn` can change. -/
theorem abandonFn_kept (s : State) (g1 : Group.ports ∈ G) (g2 : Group.fn ∈ G) (g3 : Group.events ∈ G) (h : Kept G w0 s) :
    Kept G w0 (abandonFn s) := by
  unfold abandonFn
  try dsimp only
  repeat' first
    | with_reducible assumption
    | with_reducible apply failFn_kept
    | with_reducible refine kept_ite (fun _ => ?_) (fun _ => ?_)
    | split
    | (intro _ _)

/-- What `endTableLoads` can change. -/
theorem endTableLoads_kept (s : State) (g1 : Group.ports ∈ G) (g2 : Group.masks ∈ G) (g3 : Group.fn ∈ G) (g4 : Group.events ∈ G) (h : Kept G w0 s) :
    Kept G w0 (endTableLoads s) := by
  unfold endTableLoads
  try dsimp only
  repeat' first
    | with_reducible assumption
    | with_reducible apply endMaskLoad_kept
    | with_reducible apply abandonFn_kept
    | with_reducible refine kept_ite (fun _ => ?_) (fun _ => ?_)
    | split
    | (intro _ _)

/-- What `refuseImage` can change. -/
theorem refuseImage_kept (kind sec : Nat) (s0 : State) (g1 : Group.tide ∈ G) (g2 : Group.cb ∈ G) (g3 : Group.ports ∈ G) (g4 : Group.pipe ∈ G) (g5 : Group.masks ∈ G) (g6 : Group.fn ∈ G) (g7 : Group.weights ∈ G) (g8 : Group.adapters ∈ G) (g9 : Group.image ∈ G) (g10 : Group.bb ∈ G) (g11 : Group.events ∈ G) (g12 : Group.reach ∈ G) (h : Kept G w0 s0) :
    Kept G w0 (refuseImage kind sec s0) := by
  unfold refuseImage
  try dsimp only
  repeat' first
    | with_reducible assumption
    | with_reducible apply updTide_kept
    | with_reducible apply updImage_kept
    | with_reducible apply updReach_kept
    | with_reducible apply regrant_kept
    | with_reducible apply dropRead_kept
    | with_reducible apply regroup_kept
    | with_reducible apply releaseHeld_kept
    | with_reducible apply endTableLoads_kept
    | with_reducible refine kept_ite (fun _ => ?_) (fun _ => ?_)
    | split
    | (intro _ _)

end Sys2Proof.Laws
end

