-- ==== Sys2Proof/Laws/KeptFaults.lean ====
section
/-!
SUPPORT. What the operations of fault detection, takeover, return, probes and scrubbing can change: one `Kept` lemma per operation.
-/

set_option Elab.async false

namespace Sys2Proof.Laws

open Sys2Proof.Machine Sys2Proof.Safety

variable {G : List Group} {w0 : State}

/-- What `unitRecord` can change. -/
theorem unitRecord_kept (kind : Nat) (u : UnitId) (seq arg0 arg1 : Word) (s : State) (g1 : Group.bb ∈ G) (g2 : Group.events ∈ G) (h : Kept G w0 s) :
    Kept G w0 (unitRecord kind u seq arg0 arg1 s) := by
  unfold unitRecord
  try dsimp only
  repeat' first
    | with_reducible assumption
    | with_reducible apply bbRecord_kept
    | with_reducible refine kept_ite (fun _ => ?_) (fun _ => ?_)
    | split
    | (intro _ _)

/-- What `failOverflow` can change. -/
theorem failOverflow_kept (x : Sheet) (s : State) (g1 : Group.ca ∈ G) (g2 : Group.ports ∈ G) (g3 : Group.pipe ∈ G) (h : Kept G w0 s) :
    Kept G w0 (failOverflow x s) := by
  unfold failOverflow
  try dsimp only
  repeat' first
    | with_reducible assumption
    | with_reducible apply updCa_kept
    | with_reducible apply updSheet_kept
    | with_reducible apply settleFetch_kept
    | with_reducible apply settleStages_kept
    | with_reducible refine kept_ite (fun _ => ?_) (fun _ => ?_)
    | split
    | (intro _ _)

/-- What `failFetching` can change. -/
theorem failFetching_kept (l : Nat) (s : State) (g1 : Group.ca ∈ G) (g2 : Group.ports ∈ G) (g3 : Group.pipe ∈ G) (h : Kept G w0 s) :
    Kept G w0 (failFetching l s) := by
  unfold failFetching
  try dsimp only
  repeat' first
    | with_reducible assumption
    | with_reducible apply failOverflow_kept
    | with_reducible refine kept_ite (fun _ => ?_) (fun _ => ?_)
    | split
    | (intro _ _)

/-- What `losePartners` can change. -/
theorem losePartners_kept (s : State) (g1 : Group.ports ∈ G) (g2 : Group.pipe ∈ G) (h : Kept G w0 s) :
    Kept G w0 (losePartners s) := by
  unfold losePartners
  try dsimp only
  repeat' first
    | with_reducible assumption
    | with_reducible apply updPipe_kept
    | with_reducible apply settleFetch_kept
    | with_reducible apply settleStages_kept
    | with_reducible refine kept_ite (fun _ => ?_) (fun _ => ?_)
    | split
    | (intro _ _)

/-- What `unplace` can change. -/
theorem unplace_kept (u : UnitId) (s : State) (l : Nat) (g1 : Group.fabric ∈ G) (g2 : Group.bb ∈ G) (g3 : Group.events ∈ G) (h : Kept G w0 s) :
    Kept G w0 (unplace u s l) := by
  unfold unplace
  try dsimp only
  repeat' first
    | with_reducible assumption
    | with_reducible apply updFabric_kept
    | with_reducible apply unitRecord_kept
    | with_reducible refine kept_ite (fun _ => ?_) (fun _ => ?_)
    | split
    | (intro _ _)

/-- What `unplaceAll` can change. -/
theorem unplaceAll_kept (u : UnitId) (ls : List Nat) (s : State) (g1 : Group.ports ∈ G) (g2 : Group.pipe ∈ G) (g3 : Group.fabric ∈ G) (g4 : Group.bb ∈ G) (g5 : Group.events ∈ G) (h : Kept G w0 s) :
    Kept G w0 (unplaceAll u ls s) := by
  unfold unplaceAll
  try dsimp only
  repeat' first
    | with_reducible assumption
    | with_reducible apply losePartners_kept
    | with_reducible apply unplace_kept
    | with_reducible refine kept_foldl (fun _ _ _ => ?_) ?_
    | with_reducible refine kept_ite (fun _ => ?_) (fun _ => ?_)
    | split
    | (intro _ _)

/-- What `rebuildBuffer` can change. -/
theorem rebuildBuffer_kept (c : ImageCfg) (x : Sheet) (r : Row) (s : State) (l : Nat) (g1 : Group.ca ∈ G) (g2 : Group.cb ∈ G) (g3 : Group.brine ∈ G) (h : Kept G w0 s) :
    Kept G w0 (rebuildBuffer c x r s l) := by
  unfold rebuildBuffer
  try dsimp only
  repeat' first
    | with_reducible assumption
    | with_reducible apply storeBatch_kept
    | with_reducible apply countNonfinite_kept
    | with_reducible apply noteBatch_kept
    | with_reducible apply batchStall_kept
    | with_reducible apply storeCoefs_kept
    | with_reducible refine kept_foldl (fun _ _ _ => ?_) ?_
    | with_reducible refine kept_ite (fun _ => ?_) (fun _ => ?_)
    | split
    | (intro _ _)

/-- What `rerunRow` can change. -/
theorem rerunRow_kept (c : ImageCfg) (x : Sheet) (i : Nat) (r : Row) (s : State) (g1 : Group.ca ∈ G) (g2 : Group.cb ∈ G) (g3 : Group.pipe ∈ G) (g4 : Group.brine ∈ G) (g5 : Group.reach ∈ G) (h : Kept G w0 s) :
    Kept G w0 (rerunRow c x i r s) := by
  unfold rerunRow
  try dsimp only
  repeat' first
    | with_reducible assumption
    | with_reducible apply updSheet_kept
    | with_reducible apply sendPass_kept
    | with_reducible apply rebuildBuffer_kept
    | with_reducible refine kept_foldl (fun _ _ _ => ?_) ?_
    | with_reducible refine kept_ite (fun _ => ?_) (fun _ => ?_)
    | split
    | (intro _ _)

/-- What `rerunSheet` can change. -/
theorem rerunSheet_kept (c : ImageCfg) (u : UnitId) (hit : Row → Bool) (s : State) (x : Sheet) (g1 : Group.ca ∈ G) (g2 : Group.cb ∈ G) (g3 : Group.pipe ∈ G) (g4 : Group.brine ∈ G) (g5 : Group.bb ∈ G) (g6 : Group.events ∈ G) (g7 : Group.reach ∈ G) (h : Kept G w0 s) :
    Kept G w0 (rerunSheet c u hit s x) := by
  unfold rerunSheet
  try dsimp only
  repeat' first
    | with_reducible assumption
    | with_reducible apply updCb_kept
    | with_reducible apply bbRecord_kept
    | with_reducible apply issueRows_kept
    | with_reducible apply renewIdle_kept
    | with_reducible apply rerunRow_kept
    | with_reducible refine kept_foldl (fun _ _ _ => ?_) ?_
    | with_reducible refine kept_ite (fun _ => ?_) (fun _ => ?_)
    | split
    | (intro _ _)

/-- What `rerunRows` can change. -/
theorem rerunRows_kept (u : UnitId) (hit : Row → Bool) (s : State) (g1 : Group.ca ∈ G) (g2 : Group.cb ∈ G) (g3 : Group.ports ∈ G) (g4 : Group.pipe ∈ G) (g5 : Group.brine ∈ G) (g6 : Group.bb ∈ G) (g7 : Group.events ∈ G) (g8 : Group.reach ∈ G) (h : Kept G w0 s) :
    Kept G w0 (rerunRows u hit s) := by
  unfold rerunRows
  try dsimp only
  repeat' first
    | with_reducible assumption
    | with_reducible apply settleFetch_kept
    | with_reducible apply settleStages_kept
    | with_reducible apply rerunSheet_kept
    | with_reducible refine kept_foldl (fun _ _ _ => ?_) ?_
    | with_reducible refine kept_ite (fun _ => ?_) (fun _ => ?_)
    | split
    | (intro _ _)

/-- What `noteAffected` can change. -/
theorem noteAffected_kept (p l : Nat) (s : State) (g1 : Group.pipe ∈ G) (h : Kept G w0 s) :
    Kept G w0 (noteAffected p l s) := by
  unfold noteAffected
  try dsimp only
  repeat' first
    | with_reducible assumption
    | with_reducible apply updPipe_kept
    | with_reducible refine kept_ite (fun _ => ?_) (fun _ => ?_)
    | split
    | (intro _ _)

/-- What `reformScores` can change. -/
theorem reformScores_kept (p l : Nat) (s : State) (g1 : Group.ca ∈ G) (g2 : Group.cb ∈ G) (g3 : Group.brine ∈ G) (h : Kept G w0 s) :
    Kept G w0 (reformScores p l s) := by
  unfold reformScores
  try dsimp only
  repeat' first
    | with_reducible assumption
    | with_reducible apply rebuildBuffer_kept
    | with_reducible refine kept_foldl (fun _ _ _ => ?_) ?_
    | with_reducible refine kept_ite (fun _ => ?_) (fun _ => ?_)
    | split
    | (intro _ _)

/-- What `clearRerun` can change. -/
theorem clearRerun_kept (p : Nat) (s : State) (g1 : Group.pipe ∈ G) (h : Kept G w0 s) :
    Kept G w0 (clearRerun p s) := by
  unfold clearRerun
  try dsimp only
  repeat' first
    | with_reducible assumption
    | with_reducible apply updPipe_kept
    | with_reducible refine kept_ite (fun _ => ?_) (fun _ => ?_)
    | split
    | (intro _ _)

/-- What `startProbe` can change. -/
theorem startProbe_kept (u : UnitId) (cause block : Nat) (crossed : Option UnitId) (arg0 : Word) (s : State) (g1 : Group.fabric ∈ G) (g2 : Group.bb ∈ G) (g3 : Group.events ∈ G) (h : Kept G w0 s) :
    Kept G w0 (startProbe u cause block crossed arg0 s) := by
  unfold startProbe
  try dsimp only
  repeat' first
    | with_reducible assumption
    | with_reducible apply updFabric_kept
    | with_reducible apply unitRecord_kept
    | with_reducible refine kept_ite (fun _ => ?_) (fun _ => ?_)
    | split
    | (intro _ _)

/-- What `copyRegion` can change. -/
theorem copyRegion_kept (src dst : Nat) (s : State) (g1 : Group.brine ∈ G) (h : Kept G w0 s) :
    Kept G w0 (copyRegion src dst s) := by
  unfold copyRegion
  try dsimp only
  repeat' first
    | with_reducible assumption
    | with_reducible apply brineCopy_kept
    | with_reducible refine kept_foldl (fun _ _ _ => ?_) ?_
    | with_reducible refine kept_ite (fun _ => ?_) (fun _ => ?_)
    | split
    | (intro _ _)

/-- What `fencePan` can change. -/
theorem fencePan_kept (p cause block : Nat) (crossed : Option UnitId) (s : State) (g1 : Group.ca ∈ G) (g2 : Group.ports ∈ G) (g3 : Group.pipe ∈ G) (g4 : Group.brine ∈ G) (g5 : Group.fabric ∈ G) (g6 : Group.bb ∈ G) (g7 : Group.events ∈ G) (h : Kept G w0 s) :
    Kept G w0 (fencePan p cause block crossed s) := by
  unfold fencePan
  try dsimp only
  repeat' first
    | with_reducible assumption
    | with_reducible apply setPan_kept
    | with_reducible apply changeBed_kept
    | with_reducible apply unitRecord_kept
    | with_reducible apply failFetching_kept
    | with_reducible apply unplaceAll_kept
    | with_reducible apply noteAffected_kept
    | with_reducible apply startProbe_kept
    | with_reducible apply copyRegion_kept
    | with_reducible refine kept_ite (fun _ => ?_) (fun _ => ?_)
    | split
    | (intro _ _)

/-- What `assignCell` can change. -/
theorem assignCell_kept (p n : Nat) (s : State) (g1 : Group.image ∈ G) (g2 : Group.fabric ∈ G) (h : Kept G w0 s) :
    Kept G w0 (assignCell p n s) := by
  unfold assignCell
  try dsimp only
  repeat' first
    | with_reducible assumption
    | with_reducible apply updImage_kept
    | with_reducible apply setCell_kept
    | with_reducible refine kept_ite (fun _ => ?_) (fun _ => ?_)
    | split
    | (intro _ _)

/-- What `fenceCell` can change. -/
theorem fenceCell_kept (p cause : Nat) (crossed : Option UnitId) (arg0 : Word) (s : State) (g1 : Group.ca ∈ G) (g2 : Group.cb ∈ G) (g3 : Group.ports ∈ G) (g4 : Group.pipe ∈ G) (g5 : Group.brine ∈ G) (g6 : Group.image ∈ G) (g7 : Group.fabric ∈ G) (g8 : Group.bb ∈ G) (g9 : Group.events ∈ G) (g10 : Group.reach ∈ G) (h : Kept G w0 s) :
    Kept G w0 (fenceCell p cause crossed arg0 s) := by
  unfold fenceCell
  try dsimp only
  repeat' first
    | with_reducible assumption
    | with_reducible apply setCell_kept
    | with_reducible apply unitRecord_kept
    | with_reducible apply unplaceAll_kept
    | with_reducible apply rerunRows_kept
    | with_reducible apply startProbe_kept
    | with_reducible apply assignCell_kept
    | with_reducible refine kept_ite (fun _ => ?_) (fun _ => ?_)
    | split
    | (intro _ _)

/-- What `halt` can change. -/
theorem halt_kept (arg0 : Word) (s : State) (g1 : Group.tide ∈ G) (g2 : Group.cb ∈ G) (g3 : Group.ports ∈ G) (g4 : Group.pipe ∈ G) (g5 : Group.masks ∈ G) (g6 : Group.fn ∈ G) (g7 : Group.weights ∈ G) (g8 : Group.adapters ∈ G) (g9 : Group.image ∈ G) (g10 : Group.fabric ∈ G) (g11 : Group.bb ∈ G) (g12 : Group.events ∈ G) (g13 : Group.reach ∈ G) (h : Kept G w0 s) :
    Kept G w0 (halt arg0 s) := by
  unfold halt
  try dsimp only
  repeat' first
    | with_reducible assumption
    | with_reducible apply updFabric_kept
    | with_reducible apply raise_kept
    | with_reducible apply regrant_kept
    | with_reducible apply endPatches_kept
    | with_reducible apply endLoads_kept
    | with_reducible apply refuseImage_kept
    | with_reducible apply unitRecord_kept
    | with_reducible apply losePartners_kept
    | with_reducible refine kept_ite (fun _ => ?_) (fun _ => ?_)
    | split
    | (intro _ _)

/-- What `onFault` can change. -/
theorem onFault_kept (u : UnitId) (code block : Nat) (crossed : Option UnitId) (s : State) (g1 : Group.tide ∈ G) (g2 : Group.ca ∈ G) (g3 : Group.cb ∈ G) (g4 : Group.ports ∈ G) (g5 : Group.pipe ∈ G) (g6 : Group.masks ∈ G) (g7 : Group.fn ∈ G) (g8 : Group.brine ∈ G) (g9 : Group.weights ∈ G) (g10 : Group.adapters ∈ G) (g11 : Group.image ∈ G) (g12 : Group.fabric ∈ G) (g13 : Group.bb ∈ G) (g14 : Group.events ∈ G) (g15 : Group.reach ∈ G) (h : Kept G w0 s) :
    Kept G w0 (onFault u code block crossed s) := by
  unfold onFault
  try dsimp only
  repeat' first
    | with_reducible assumption
    | with_reducible apply fencePan_kept
    | with_reducible apply fenceCell_kept
    | with_reducible apply halt_kept
    | with_reducible refine kept_ite (fun _ => ?_) (fun _ => ?_)
    | split
    | (intro _ _)

/-- What `countCe` can change. -/
theorem countCe_kept (p line w : Nat) (s : State) (g1 : Group.ca ∈ G) (g2 : Group.brine ∈ G) (g3 : Group.bb ∈ G) (g4 : Group.events ∈ G) (h : Kept G w0 s) :
    Kept G w0 (countCe p line w s) := by
  unfold countCe
  try dsimp only
  repeat' first
    | with_reducible assumption
    | with_reducible apply updCa_kept
    | with_reducible apply updBrine_kept
    | with_reducible apply bbCorrected_kept
    | with_reducible refine kept_ite (fun _ => ?_) (fun _ => ?_)
    | split
    | exact fun hb => hb
    | exact fun _ => rfl
    | exact fun hb => spWf_spWrite 0 _ _ _ hb
    | exact fun hb => spWf_spClear 0 _ _ _ hb
    | exact fun hb => spWf_spOverlay 0 _ _ _ (spWf_spClear 0 _ _ _ hb)
    | (intro _ _)

/-- What `hitProbe` can change. -/
theorem hitProbe_kept (u : UnitId) (s : State) (g1 : Group.fabric ∈ G) (h : Kept G w0 s) :
    Kept G w0 (hitProbe u s) := by
  unfold hitProbe
  try dsimp only
  repeat' first
    | with_reducible assumption
    | with_reducible apply updFabric_kept
    | with_reducible refine kept_ite (fun _ => ?_) (fun _ => ?_)
    | split
    | (intro _ _)

/-- A detection in a unit. -/
theorem detected_kept (u : UnitId) (eff : State → State) (s : State) (g1 : Group.fabric ∈ G) (he : ∀ t, Kept G w0 t → Kept G w0 (eff t))
    (h : Kept G w0 s) : Kept G w0 (detected u eff s) := by
  unfold detected
  repeat' first
    | with_reducible assumption
    | with_reducible apply he
    | with_reducible apply hitProbe_kept
    | with_reducible refine kept_ite (fun _ => ?_) (fun _ => ?_)

/-- What `uncorrectable` can change. -/
theorem uncorrectable_kept (p line : Nat) (seq : Word) (s : State) (g1 : Group.tide ∈ G) (g2 : Group.ca ∈ G) (g3 : Group.cb ∈ G) (g4 : Group.ports ∈ G) (g5 : Group.pipe ∈ G) (g6 : Group.masks ∈ G) (g7 : Group.fn ∈ G) (g8 : Group.brine ∈ G) (g9 : Group.weights ∈ G) (g10 : Group.adapters ∈ G) (g11 : Group.image ∈ G) (g12 : Group.fabric ∈ G) (g13 : Group.bb ∈ G) (g14 : Group.events ∈ G) (g15 : Group.reach ∈ G) (h : Kept G w0 s) :
    Kept G w0 (uncorrectable p line seq s) := by
  unfold uncorrectable
  try dsimp only
  repeat' first
    | with_reducible assumption
    | with_reducible apply updCa_kept
    | with_reducible apply updBrine_kept
    | with_reducible apply unitRecord_kept
    | with_reducible apply onFault_kept
    | with_reducible apply detected_kept
    | with_reducible refine kept_ite (fun _ => ?_) (fun _ => ?_)
    | split
    | exact fun hb => hb
    | exact fun _ => rfl
    | exact fun hb => spWf_spWrite 0 _ _ _ hb
    | exact fun hb => spWf_spClear 0 _ _ _ hb
    | exact fun hb => spWf_spOverlay 0 _ _ _ (spWf_spClear 0 _ _ _ hb)
    | (intro _ _)

/-- What `oneBit` can change. -/
theorem oneBit_kept (p line w : Nat) (seq : Word) (s : State) (g1 : Group.tide ∈ G) (g2 : Group.ca ∈ G) (g3 : Group.cb ∈ G) (g4 : Group.ports ∈ G) (g5 : Group.pipe ∈ G) (g6 : Group.masks ∈ G) (g7 : Group.fn ∈ G) (g8 : Group.brine ∈ G) (g9 : Group.weights ∈ G) (g10 : Group.adapters ∈ G) (g11 : Group.image ∈ G) (g12 : Group.fabric ∈ G) (g13 : Group.bb ∈ G) (g14 : Group.events ∈ G) (g15 : Group.reach ∈ G) (h : Kept G w0 s) :
    Kept G w0 (oneBit p line w seq s) := by
  unfold oneBit
  try dsimp only
  repeat' first
    | with_reducible assumption
    | with_reducible apply countCe_kept
    | with_reducible apply uncorrectable_kept
    | with_reducible refine kept_ite (fun _ => ?_) (fun _ => ?_)
    | split
    | (intro _ _)

/-- What `countResidue` can change. -/
theorem countResidue_kept (kind p column : Nat) (s : State) (g1 : Group.ca ∈ G) (h : Kept G w0 s) :
    Kept G w0 (countResidue kind p column s) := by
  unfold countResidue
  try dsimp only
  repeat' first
    | with_reducible assumption
    | with_reducible apply updCa_kept
    | with_reducible refine kept_ite (fun _ => ?_) (fun _ => ?_)
    | split
    | (intro _ _)

/-- What `watchdog` can change. -/
theorem watchdog_kept (u : UnitId) (channel : Nat) (nb : UnitId) (s : State) (g1 : Group.tide ∈ G) (g2 : Group.ca ∈ G) (g3 : Group.cb ∈ G) (g4 : Group.ports ∈ G) (g5 : Group.pipe ∈ G) (g6 : Group.masks ∈ G) (g7 : Group.fn ∈ G) (g8 : Group.brine ∈ G) (g9 : Group.weights ∈ G) (g10 : Group.adapters ∈ G) (g11 : Group.image ∈ G) (g12 : Group.fabric ∈ G) (g13 : Group.bb ∈ G) (g14 : Group.events ∈ G) (g15 : Group.reach ∈ G) (h : Kept G w0 s) :
    Kept G w0 (watchdog u channel nb s) := by
  unfold watchdog
  try dsimp only
  repeat' first
    | with_reducible assumption
    | with_reducible apply unitRecord_kept
    | with_reducible apply onFault_kept
    | with_reducible apply detected_kept
    | with_reducible refine kept_ite (fun _ => ?_) (fun _ => ?_)
    | split
    | (intro _ _)

/-- What `scrubWord` can change. -/
theorem scrubWord_kept (p line : Nat) (s : State) (w : WordCheck) (g1 : Group.tide ∈ G) (g2 : Group.ca ∈ G) (g3 : Group.cb ∈ G) (g4 : Group.ports ∈ G) (g5 : Group.pipe ∈ G) (g6 : Group.masks ∈ G) (g7 : Group.fn ∈ G) (g8 : Group.brine ∈ G) (g9 : Group.weights ∈ G) (g10 : Group.adapters ∈ G) (g11 : Group.image ∈ G) (g12 : Group.fabric ∈ G) (g13 : Group.bb ∈ G) (g14 : Group.events ∈ G) (g15 : Group.reach ∈ G) (h : Kept G w0 s) :
    Kept G w0 (scrubWord p line s w) := by
  unfold scrubWord
  try dsimp only
  repeat' first
    | with_reducible assumption
    | with_reducible apply uncorrectable_kept
    | with_reducible apply oneBit_kept
    | with_reducible refine kept_ite (fun _ => ?_) (fun _ => ?_)
    | split
    | (intro _ _)

/-- What `scrubLine` can change. -/
theorem scrubLine_kept (p : Nat) (found : List WordCheck) (s : State) (g1 : Group.tide ∈ G) (g2 : Group.ca ∈ G) (g3 : Group.cb ∈ G) (g4 : Group.ports ∈ G) (g5 : Group.pipe ∈ G) (g6 : Group.masks ∈ G) (g7 : Group.fn ∈ G) (g8 : Group.brine ∈ G) (g9 : Group.weights ∈ G) (g10 : Group.adapters ∈ G) (g11 : Group.image ∈ G) (g12 : Group.fabric ∈ G) (g13 : Group.bb ∈ G) (g14 : Group.events ∈ G) (g15 : Group.reach ∈ G) (h : Kept G w0 s) :
    Kept G w0 (scrubLine p found s) := by
  unfold scrubLine
  try dsimp only
  repeat' first
    | with_reducible assumption
    | with_reducible apply updBrine_kept
    | with_reducible apply noteRead_kept
    | with_reducible apply scrubWord_kept
    | with_reducible refine kept_foldl (fun _ _ _ => ?_) ?_
    | with_reducible refine kept_ite (fun _ => ?_) (fun _ => ?_)
    | split
    | exact fun hb => hb
    | exact fun _ => rfl
    | exact fun hb => spWf_spWrite 0 _ _ _ hb
    | exact fun hb => spWf_spClear 0 _ _ _ hb
    | exact fun hb => spWf_spOverlay 0 _ _ _ (spWf_spClear 0 _ _ _ hb)
    | (intro _ _)

/-- What `detect` can change. -/
theorem detect_kept (u : UnitId) (d : Detect) (s : State) (g1 : Group.tide ∈ G) (g2 : Group.ca ∈ G) (g3 : Group.cb ∈ G) (g4 : Group.ports ∈ G) (g5 : Group.pipe ∈ G) (g6 : Group.masks ∈ G) (g7 : Group.fn ∈ G) (g8 : Group.brine ∈ G) (g9 : Group.weights ∈ G) (g10 : Group.adapters ∈ G) (g11 : Group.image ∈ G) (g12 : Group.fabric ∈ G) (g13 : Group.bb ∈ G) (g14 : Group.events ∈ G) (g15 : Group.reach ∈ G) (h : Kept G w0 s) :
    Kept G w0 (detect u d s) := by
  unfold detect
  try dsimp only
  repeat' first
    | with_reducible assumption
    | with_reducible apply updCa_kept
    | with_reducible apply updCb_kept
    | with_reducible apply bbCorrected_kept
    | with_reducible apply unitRecord_kept
    | with_reducible apply onFault_kept
    | with_reducible apply detected_kept
    | with_reducible apply uncorrectable_kept
    | with_reducible apply oneBit_kept
    | with_reducible apply countResidue_kept
    | with_reducible apply watchdog_kept
    | with_reducible apply scrubLine_kept
    | with_reducible refine kept_ite (fun _ => ?_) (fun _ => ?_)
    | split
    | (intro _ _)

/-- What `detectAll` can change. -/
theorem detectAll_kept (ds : List (UnitId × Detect)) (s : State) (g1 : Group.tide ∈ G) (g2 : Group.ca ∈ G) (g3 : Group.cb ∈ G) (g4 : Group.ports ∈ G) (g5 : Group.pipe ∈ G) (g6 : Group.masks ∈ G) (g7 : Group.fn ∈ G) (g8 : Group.brine ∈ G) (g9 : Group.weights ∈ G) (g10 : Group.adapters ∈ G) (g11 : Group.image ∈ G) (g12 : Group.fabric ∈ G) (g13 : Group.bb ∈ G) (g14 : Group.events ∈ G) (g15 : Group.reach ∈ G) (h : Kept G w0 s) :
    Kept G w0 (detectAll ds s) := by
  unfold detectAll
  try dsimp only
  repeat' first
    | with_reducible assumption
    | with_reducible apply detect_kept
    | with_reducible refine kept_foldl (fun _ _ _ => ?_) ?_
    | with_reducible refine kept_ite (fun _ => ?_) (fun _ => ?_)
    | split
    | (intro _ _)

/-- What `degradeServed` can change. -/
theorem degradeServed_kept (before : State) (b : Nat) (s : State) (g1 : Group.fabric ∈ G) (g2 : Group.bb ∈ G) (g3 : Group.events ∈ G) (h : Kept G w0 s) :
    Kept G w0 (degradeServed before b s) := by
  unfold degradeServed
  try dsimp only
  repeat' first
    | with_reducible assumption
    | with_reducible apply raise_kept
    | with_reducible apply changeBed_kept
    | with_reducible refine kept_ite (fun _ => ?_) (fun _ => ?_)
    | split
    | (intro _ _)

/-- What `rebuilt` can change. -/
theorem rebuilt_kept (b m : Nat) (s : State) (g1 : Group.ca ∈ G) (g2 : Group.cb ∈ G) (g3 : Group.ports ∈ G) (g4 : Group.pipe ∈ G) (g5 : Group.brine ∈ G) (g6 : Group.weights ∈ G) (g7 : Group.fabric ∈ G) (g8 : Group.bb ∈ G) (g9 : Group.events ∈ G) (g10 : Group.reach ∈ G) (h : Kept G w0 s) :
    Kept G w0 (rebuilt b m s) := by
  unfold rebuilt
  try dsimp only
  repeat' first
    | with_reducible assumption
    | with_reducible apply changeBed_kept
    | with_reducible apply brineRebuild_kept
    | with_reducible apply restoreDirectory_kept
    | with_reducible apply rerunRows_kept
    | with_reducible apply reformScores_kept
    | with_reducible apply clearRerun_kept
    | with_reducible apply degradeServed_kept
    | with_reducible refine kept_ite (fun _ => ?_) (fun _ => ?_)
    | split
    | (intro _ _)

/-- What `shadowRebuilt` can change. -/
theorem shadowRebuilt_kept (b m : Nat) (s : State) (g1 : Group.brine ∈ G) (g2 : Group.weights ∈ G) (g3 : Group.fabric ∈ G) (h : Kept G w0 s) :
    Kept G w0 (shadowRebuilt b m s) := by
  unfold shadowRebuilt
  try dsimp only
  repeat' first
    | with_reducible assumption
    | with_reducible apply updWeights_kept
    | with_reducible apply setBed_kept
    | with_reducible apply brineRebuild_kept
    | with_reducible refine kept_ite (fun _ => ?_) (fun _ => ?_)
    | split
    | (intro _ _)

/-- What `countTransient` can change. -/
theorem countTransient_kept (u : UnitId) (s : State) (g1 : Group.cb ∈ G) (g2 : Group.fabric ∈ G) (h : Kept G w0 s) :
    Kept G w0 (countTransient u s) := by
  unfold countTransient
  try dsimp only
  repeat' first
    | with_reducible assumption
    | with_reducible apply updCb_kept
    | with_reducible apply setPan_kept
    | with_reducible apply setCell_kept
    | with_reducible refine kept_ite (fun _ => ?_) (fun _ => ?_)
    | split
    | (intro _ _)

/-- What `returnPan` can change. -/
theorem returnPan_kept (p : Nat) (s : State) (g1 : Group.fabric ∈ G) (g2 : Group.bb ∈ G) (g3 : Group.events ∈ G) (h : Kept G w0 s) :
    Kept G w0 (returnPan p s) := by
  unfold returnPan
  try dsimp only
  repeat' first
    | with_reducible assumption
    | with_reducible apply setBed_kept
    | with_reducible apply setPan_kept
    | with_reducible apply changeBed_kept
    | with_reducible apply unitRecord_kept
    | with_reducible refine kept_ite (fun _ => ?_) (fun _ => ?_)
    | split
    | (intro _ _)

/-- What `returnCell` can change. -/
theorem returnCell_kept (p : Nat) (s : State) (g1 : Group.fabric ∈ G) (g2 : Group.bb ∈ G) (g3 : Group.events ∈ G) (h : Kept G w0 s) :
    Kept G w0 (returnCell p s) := by
  unfold returnCell
  try dsimp only
  repeat' first
    | with_reducible assumption
    | with_reducible apply setCell_kept
    | with_reducible apply unitRecord_kept
    | with_reducible refine kept_ite (fun _ => ?_) (fun _ => ?_)
    | split
    | (intro _ _)

/-- What `returnUnit` can change. -/
theorem returnUnit_kept (u : UnitId) (s : State) (g1 : Group.fabric ∈ G) (g2 : Group.bb ∈ G) (g3 : Group.events ∈ G) (h : Kept G w0 s) :
    Kept G w0 (returnUnit u s) := by
  unfold returnUnit
  try dsimp only
  repeat' first
    | with_reducible assumption
    | with_reducible apply returnPan_kept
    | with_reducible apply returnCell_kept
    | with_reducible refine kept_ite (fun _ => ?_) (fun _ => ?_)
    | split
    | (intro _ _)

/-- What `makeLasting` can change. -/
theorem makeLasting_kept (u : UnitId) (why : Nat) (phase : Option Nat) (s : State) (g1 : Group.cb ∈ G) (g2 : Group.fabric ∈ G) (g3 : Group.bb ∈ G) (g4 : Group.events ∈ G) (h : Kept G w0 s) :
    Kept G w0 (makeLasting u why phase s) := by
  unfold makeLasting
  try dsimp only
  repeat' first
    | with_reducible assumption
    | with_reducible apply updCb_kept
    | with_reducible apply raise_kept
    | with_reducible apply setBed_kept
    | with_reducible apply setPan_kept
    | with_reducible apply setCell_kept
    | with_reducible apply unitRecord_kept
    | with_reducible apply degradeServed_kept
    | with_reducible refine kept_ite (fun _ => ?_) (fun _ => ?_)
    | split
    | (intro _ _)

/-- What `endSoftware` can change. -/
theorem endSoftware_kept (phase : Option Nat) (s : State) (g1 : Group.fabric ∈ G) (g2 : Group.events ∈ G) (h : Kept G w0 s) :
    Kept G w0 (endSoftware phase s) := by
  unfold endSoftware
  try dsimp only
  repeat' first
    | with_reducible assumption
    | with_reducible apply updFabric_kept
    | with_reducible apply raise_kept
    | with_reducible refine kept_ite (fun _ => ?_) (fun _ => ?_)
    | split
    | (intro _ _)

/-- What `marchBlock` can change. -/
theorem marchBlock_kept (x : Probe) (s : State) (g1 : Group.brine ∈ G) (h : Kept G w0 s) :
    Kept G w0 (marchBlock x s) := by
  unfold marchBlock
  try dsimp only
  repeat' first
    | with_reducible assumption
    | with_reducible apply updBrine_kept
    | with_reducible apply noteRead_kept
    | with_reducible refine kept_ite (fun _ => ?_) (fun _ => ?_)
    | split
    | exact fun hb => hb
    | exact fun _ => rfl
    | exact fun hb => spWf_spWrite 0 _ _ _ hb
    | exact fun hb => spWf_spClear 0 _ _ _ hb
    | exact fun hb => spWf_spOverlay 0 _ _ _ (spWf_spClear 0 _ _ _ hb)
    | (intro _ _)

/-- What `probePasses` can change. -/
theorem probePasses_kept (x : Probe) (v : ProbeVerdict) (s : State) (g1 : Group.tide ∈ G) (g2 : Group.ca ∈ G) (g3 : Group.cb ∈ G) (g4 : Group.ports ∈ G) (g5 : Group.pipe ∈ G) (g6 : Group.masks ∈ G) (g7 : Group.fn ∈ G) (g8 : Group.brine ∈ G) (g9 : Group.weights ∈ G) (g10 : Group.adapters ∈ G) (g11 : Group.image ∈ G) (g12 : Group.fabric ∈ G) (g13 : Group.bb ∈ G) (g14 : Group.events ∈ G) (g15 : Group.reach ∈ G) (h : Kept G w0 s) :
    Kept G w0 (probePasses x v s) := by
  unfold probePasses
  try dsimp only
  repeat' first
    | with_reducible assumption
    | with_reducible apply unitRecord_kept
    | with_reducible apply onFault_kept
    | with_reducible apply countTransient_kept
    | with_reducible apply returnUnit_kept
    | with_reducible apply makeLasting_kept
    | with_reducible apply endSoftware_kept
    | with_reducible apply marchBlock_kept
    | with_reducible refine kept_ite (fun _ => ?_) (fun _ => ?_)
    | split
    | (intro _ _)

/-- What `probeFails` can change. -/
theorem probeFails_kept (x : Probe) (phase : Nat) (place : Word) (s : State) (g1 : Group.cb ∈ G) (g2 : Group.fabric ∈ G) (g3 : Group.bb ∈ G) (g4 : Group.events ∈ G) (h : Kept G w0 s) :
    Kept G w0 (probeFails x phase place s) := by
  unfold probeFails
  try dsimp only
  repeat' first
    | with_reducible assumption
    | with_reducible apply unitRecord_kept
    | with_reducible apply makeLasting_kept
    | with_reducible apply endSoftware_kept
    | with_reducible refine kept_ite (fun _ => ?_) (fun _ => ?_)
    | split
    | (intro _ _)

/-- What `endProbe` can change. -/
theorem endProbe_kept (x : Probe) (v : ProbeVerdict) (place : Word) (s : State) (g1 : Group.tide ∈ G) (g2 : Group.ca ∈ G) (g3 : Group.cb ∈ G) (g4 : Group.ports ∈ G) (g5 : Group.pipe ∈ G) (g6 : Group.masks ∈ G) (g7 : Group.fn ∈ G) (g8 : Group.brine ∈ G) (g9 : Group.weights ∈ G) (g10 : Group.adapters ∈ G) (g11 : Group.image ∈ G) (g12 : Group.fabric ∈ G) (g13 : Group.bb ∈ G) (g14 : Group.events ∈ G) (g15 : Group.reach ∈ G) (h : Kept G w0 s) :
    Kept G w0 (endProbe x v place s) := by
  unfold endProbe
  try dsimp only
  repeat' first
    | with_reducible assumption
    | with_reducible apply updFabric_kept
    | with_reducible apply pushMirror_kept
    | with_reducible apply probePasses_kept
    | with_reducible apply probeFails_kept
    | with_reducible refine kept_ite (fun _ => ?_) (fun _ => ?_)
    | split
    | (intro _ _)

/-- What `moveBack` can change. -/
theorem moveBack_kept (b m : Nat) (s : State) (g1 : Group.ca ∈ G) (g2 : Group.cb ∈ G) (g3 : Group.brine ∈ G) (g4 : Group.fabric ∈ G) (g5 : Group.bb ∈ G) (g6 : Group.events ∈ G) (h : Kept G w0 s) :
    Kept G w0 (moveBack b m s) := by
  unfold moveBack
  try dsimp only
  repeat' first
    | with_reducible assumption
    | with_reducible apply changeBed_kept
    | with_reducible apply unitRecord_kept
    | with_reducible apply reformScores_kept
    | with_reducible refine kept_ite (fun _ => ?_) (fun _ => ?_)
    | split
    | (intro _ _)

/-- What `formParity` can change. -/
theorem formParity_kept (b : Nat) (s : State) (g1 : Group.brine ∈ G) (h : Kept G w0 s) :
    Kept G w0 (formParity b s) := by
  unfold formParity
  try dsimp only
  repeat' first
    | with_reducible assumption
    | with_reducible apply brineRebuild_kept
    | with_reducible refine kept_foldl (fun _ _ _ => ?_) ?_
    | with_reducible refine kept_ite (fun _ => ?_) (fun _ => ?_)
    | split
    | (intro _ _)

/-- What `stGo` can change. -/
theorem stGo_kept (cell : Bool) (block phys : Nat) (s : State) (g1 : Group.ca ∈ G) (g2 : Group.cb ∈ G) (g3 : Group.ports ∈ G) (g4 : Group.pipe ∈ G) (g5 : Group.brine ∈ G) (g6 : Group.image ∈ G) (g7 : Group.fabric ∈ G) (g8 : Group.bb ∈ G) (g9 : Group.events ∈ G) (g10 : Group.reach ∈ G) (h : Kept G w0 s) :
    Kept G w0 (stGo cell block phys s) := by
  unfold stGo
  try dsimp only
  repeat' first
    | with_reducible assumption
    | with_reducible apply updFabric_kept
    | with_reducible apply raise_kept
    | with_reducible apply fencePan_kept
    | with_reducible apply fenceCell_kept
    | with_reducible refine kept_ite (fun _ => ?_) (fun _ => ?_)
    | split
    | (intro _ _)

/-- What `writeStCtl` can change. -/
theorem writeStCtl_kept (value : Word) (s : State) (g1 : Group.ca ∈ G) (g2 : Group.cb ∈ G) (g3 : Group.ports ∈ G) (g4 : Group.pipe ∈ G) (g5 : Group.brine ∈ G) (g6 : Group.image ∈ G) (g7 : Group.fabric ∈ G) (g8 : Group.bb ∈ G) (g9 : Group.events ∈ G) (g10 : Group.reach ∈ G) (h : Kept G w0 s) :
    Kept G w0 (writeStCtl value s) := by
  unfold writeStCtl
  try dsimp only
  repeat' first
    | with_reducible assumption
    | with_reducible apply pushMirror_kept
    | with_reducible apply stGo_kept
    | with_reducible refine kept_ite (fun _ => ?_) (fun _ => ?_)
    | split
    | (intro _ _)

/-- What `checkWord` can change. -/
theorem checkWord_kept (s : State) (i : Nat) (g1 : Group.fabric ∈ G) (g2 : Group.bb ∈ G) (g3 : Group.events ∈ G) (h : Kept G w0 s) :
    Kept G w0 (checkWord s i) := by
  unfold checkWord
  try dsimp only
  repeat' first
    | with_reducible assumption
    | with_reducible apply updFabric_kept
    | with_reducible apply raise_kept
    | with_reducible apply bbRecord_kept
    | with_reducible refine kept_ite (fun _ => ?_) (fun _ => ?_)
    | split
    | (intro _ _)

/-- What `mirrorRun` can change. -/
theorem mirrorRun_kept (s : State) (g1 : Group.fabric ∈ G) (g2 : Group.bb ∈ G) (g3 : Group.events ∈ G) (h : Kept G w0 s) :
    Kept G w0 (mirrorRun s) := by
  unfold mirrorRun
  try dsimp only
  repeat' first
    | with_reducible assumption
    | with_reducible apply updFabric_kept
    | with_reducible apply checkWord_kept
    | with_reducible refine kept_foldl (fun _ _ _ => ?_) ?_
    | with_reducible refine kept_ite (fun _ => ?_) (fun _ => ?_)
    | split
    | (intro _ _)

/-- What `mirrorUp` can change. -/
theorem mirrorUp_kept (s : State) (g1 : Group.fabric ∈ G) (g2 : Group.bb ∈ G) (g3 : Group.events ∈ G) (h : Kept G w0 s) :
    Kept G w0 (mirrorUp s) := by
  unfold mirrorUp
  try dsimp only
  repeat' first
    | with_reducible assumption
    | with_reducible apply pushMirrorNow_kept
    | with_reducible apply mirrorRun_kept
    | with_reducible refine kept_ite (fun _ => ?_) (fun _ => ?_)
    | split
    | (intro _ _)

end Sys2Proof.Laws
end

