-- ==== Sys2Proof/Laws/KeptReach.lean ====
section
/-!
SUPPORT. What the operations of the domain, the links, member sheets and the tide can change: one `Kept` lemma per operation.
-/

set_option Elab.async false

namespace Sys2Proof.Laws

open Sys2Proof.Machine Sys2Proof.Safety

variable {G : List Group} {w0 : State}

/-- What `setDomPhase` can change. -/
theorem setDomPhase_kept (s : State) (g1 : Group.reach ∈ G) (hk : Kept G w0 s) :
    Kept G w0 (setDomPhase s) := by
  unfold setDomPhase
  try dsimp only
  repeat' first
    | with_reducible assumption
    | with_reducible apply updReach_kept
    | with_reducible refine kept_ite (fun _ => ?_) (fun _ => ?_)
    | split
    | (intro _ _)

/-- What `leaveFormed` can change. -/
theorem leaveFormed_kept (s : State) (g1 : Group.ports ∈ G) (g2 : Group.pipe ∈ G) (g3 : Group.reach ∈ G) (hk : Kept G w0 s) :
    Kept G w0 (leaveFormed s) := by
  unfold leaveFormed
  try dsimp only
  repeat' first
    | with_reducible assumption
    | with_reducible apply losePartners_kept
    | with_reducible apply setDomPhase_kept
    | with_reducible refine kept_ite (fun _ => ?_) (fun _ => ?_)
    | split
    | (intro _ _)

/-- What `tryJoin` can change. -/
theorem tryJoin_kept (s : State) (g1 : Group.reach ∈ G) (hk : Kept G w0 s) :
    Kept G w0 (tryJoin s) := by
  unfold tryJoin
  try dsimp only
  repeat' first
    | with_reducible assumption
    | with_reducible apply updReach_kept
    | with_reducible apply sendUp_kept
    | with_reducible refine kept_ite (fun _ => ?_) (fun _ => ?_)
    | split
    | (intro _ _)

/-- What `joinArrives` can change. -/
theorem joinArrives_kept (l addr : Nat) (sig : List Byte) (live sealed : Word) (s : State) (g1 : Group.reach ∈ G) (hk : Kept G w0 s) :
    Kept G w0 (joinArrives l addr sig live sealed s) := by
  unfold joinArrives
  try dsimp only
  repeat' first
    | with_reducible assumption
    | with_reducible apply updChild_kept
    | with_reducible refine kept_ite (fun _ => ?_) (fun _ => ?_)
    | split
    | (intro _ _)

/-- What `refuseChild` can change. -/
theorem refuseChild_kept (k why : Nat) (s : State) (g1 : Group.reach ∈ G) (hk : Kept G w0 s) :
    Kept G w0 (refuseChild k why s) := by
  unfold refuseChild
  try dsimp only
  repeat' first
    | with_reducible assumption
    | with_reducible apply updReach_kept
    | with_reducible apply sendUp_kept
    | with_reducible apply updChild_kept
    | with_reducible apply refused_kept
    | with_reducible refine kept_ite (fun _ => ?_) (fun _ => ?_)
    | split
    | (intro _ _)

/-- What `placementArrives` can change. -/
theorem placementArrives_kept (c : ImageCfg) (k : Nat) (bytes : List Byte) (s : State) (g1 : Group.events ∈ G) (g2 : Group.reach ∈ G) (hk : Kept G w0 s) :
    Kept G w0 (placementArrives c k bytes s) := by
  unfold placementArrives
  try dsimp only
  repeat' first
    | with_reducible assumption
    | with_reducible apply updReach_kept
    | with_reducible apply raise_kept
    | with_reducible apply sendUp_kept
    | with_reducible apply updChild_kept
    | with_reducible apply setDomPhase_kept
    | with_reducible apply refuseChild_kept
    | with_reducible refine kept_ite (fun _ => ?_) (fun _ => ?_)
    | split
    | (intro _ _)

/-- What `forgetJoins` can change. -/
theorem forgetJoins_kept (hit : ChildSt → Bool) (s : State) (g1 : Group.adapters ∈ G) (g2 : Group.reach ∈ G) (hk : Kept G w0 s) :
    Kept G w0 (forgetJoins hit s) := by
  unfold forgetJoins
  try dsimp only
  repeat' first
    | with_reducible assumption
    | with_reducible apply updReach_kept
    | with_reducible apply admitted_kept
    | with_reducible refine kept_ite (fun _ => ?_) (fun _ => ?_)
    | split
    | (intro _ _)

/-- What `settleRelays` can change. -/
theorem settleRelays_kept (s : State) (g1 : Group.adapters ∈ G) (g2 : Group.reach ∈ G) (hk : Kept G w0 s) :
    Kept G w0 (settleRelays s) := by
  unfold settleRelays
  try dsimp only
  repeat' first
    | with_reducible assumption
    | with_reducible apply updAdapters_kept
    | with_reducible apply toParent_kept
    | with_reducible refine kept_foldl (fun _ _ _ => ?_) ?_
    | with_reducible refine kept_ite (fun _ => ?_) (fun _ => ?_)
    | split
    | (intro _ _)

/-- What `admitChild` can change. -/
theorem admitChild_kept (s : State) (k : Nat) (g1 : Group.adapters ∈ G) (g2 : Group.reach ∈ G) (hk : Kept G w0 s) :
    Kept G w0 (admitChild s k) := by
  unfold admitChild
  try dsimp only
  repeat' first
    | with_reducible assumption
    | with_reducible apply sendUp_kept
    | with_reducible apply updChild_kept
    | with_reducible apply lateShares_kept
    | with_reducible apply refuseChild_kept
    | with_reducible apply admitted_kept
    | with_reducible refine kept_ite (fun _ => ?_) (fun _ => ?_)
    | split
    | (intro _ _)

/-- What `departChild` can change. -/
theorem departChild_kept (s : State) (k : Nat) (g1 : Group.reach ∈ G) (hk : Kept G w0 s) :
    Kept G w0 (departChild s k) := by
  unfold departChild
  try dsimp only
  repeat' first
    | with_reducible assumption
    | with_reducible apply updChild_kept
    | with_reducible refine kept_ite (fun _ => ?_) (fun _ => ?_)
    | split
    | (intro _ _)

/-- What `changeDomain` can change. -/
theorem changeDomain_kept (s : State) (g1 : Group.ports ∈ G) (g2 : Group.pipe ∈ G) (g3 : Group.weights ∈ G) (g4 : Group.adapters ∈ G) (g5 : Group.bb ∈ G) (g6 : Group.events ∈ G) (g7 : Group.reach ∈ G) (hk : Kept G w0 s) :
    Kept G w0 (changeDomain s) := by
  unfold changeDomain
  try dsimp only
  repeat' first
    | with_reducible assumption
    | with_reducible apply sealedChanged_kept
    | with_reducible apply tryClose_kept
    | with_reducible apply leaveFormed_kept
    | with_reducible apply tryJoin_kept
    | with_reducible apply admitChild_kept
    | with_reducible apply departChild_kept
    | with_reducible refine kept_foldl (fun _ _ _ => ?_) ?_
    | with_reducible refine kept_ite (fun _ => ?_) (fun _ => ?_)
    | split
    | (intro _ _)

/-- What `dropSheet` can change. -/
theorem dropSheet_kept (s : State) (x : Sheet) (g1 : Group.ports ∈ G) (g2 : Group.pipe ∈ G) (hk : Kept G w0 s) :
    Kept G w0 (dropSheet s x) := by
  unfold dropSheet
  try dsimp only
  repeat' first
    | with_reducible assumption
    | with_reducible apply updPorts_kept
    | with_reducible apply updPipe_kept
    | with_reducible apply settleFetch_kept
    | with_reducible refine kept_ite (fun _ => ?_) (fun _ => ?_)
    | split
    | (intro _ _)

/-- What `dropMemberSheets` can change. -/
theorem dropMemberSheets_kept (s : State) (g1 : Group.ports ∈ G) (g2 : Group.pipe ∈ G) (g3 : Group.reach ∈ G) (hk : Kept G w0 s) :
    Kept G w0 (dropMemberSheets s) := by
  unfold dropMemberSheets
  try dsimp only
  repeat' first
    | with_reducible assumption
    | with_reducible apply toKids_kept
    | with_reducible apply dropSheet_kept
    | with_reducible refine kept_foldl (fun _ _ _ => ?_) ?_
    | with_reducible refine kept_ite (fun _ => ?_) (fun _ => ?_)
    | split
    | (intro _ _)

/-- What `abortSheets` can change. -/
theorem abortSheets_kept (s : State) (g1 : Group.cb ∈ G) (g2 : Group.ports ∈ G) (g3 : Group.pipe ∈ G) (g4 : Group.reach ∈ G) (hk : Kept G w0 s) :
    Kept G w0 (abortSheets s) := by
  unfold abortSheets
  try dsimp only
  repeat' first
    | with_reducible assumption
    | with_reducible apply updCb_kept
    | with_reducible apply updPipe_kept
    | with_reducible apply settleFetch_kept
    | with_reducible apply toKids_kept
    | with_reducible refine kept_foldl (fun _ _ _ => ?_) ?_
    | with_reducible refine kept_ite (fun _ => ?_) (fun _ => ?_)
    | split
    | (intro _ _)

/-- What `loseChild` can change. -/
theorem loseChild_kept (k : Nat) (s : State) (g1 : Group.cb ∈ G) (g2 : Group.ports ∈ G) (g3 : Group.pipe ∈ G) (g4 : Group.weights ∈ G) (g5 : Group.bb ∈ G) (g6 : Group.events ∈ G) (g7 : Group.reach ∈ G) (hk : Kept G w0 s) :
    Kept G w0 (loseChild k s) := by
  unfold loseChild
  try dsimp only
  repeat' first
    | with_reducible assumption
    | with_reducible apply updCb_kept
    | with_reducible apply updReach_kept
    | with_reducible apply raise_kept
    | with_reducible apply bbRecord_kept
    | with_reducible apply updChild_kept
    | with_reducible apply toParent_kept
    | with_reducible apply sealedChanged_kept
    | with_reducible apply settleStages_kept
    | with_reducible apply setDomPhase_kept
    | with_reducible apply dropMemberSheets_kept
    | with_reducible apply abortSheets_kept
    | with_reducible refine kept_ite (fun _ => ?_) (fun _ => ?_)
    | split
    | (intro _ _)

/-- What `cutOff` can change. -/
theorem cutOff_kept (s : State) (g1 : Group.ports ∈ G) (g2 : Group.pipe ∈ G) (g3 : Group.reach ∈ G) (hk : Kept G w0 s) :
    Kept G w0 (cutOff s) := by
  unfold cutOff
  try dsimp only
  repeat' first
    | with_reducible assumption
    | with_reducible apply updReach_kept
    | with_reducible apply settleStages_kept
    | with_reducible apply dropMemberSheets_kept
    | with_reducible refine kept_ite (fun _ => ?_) (fun _ => ?_)
    | split
    | (intro _ _)

/-- What `admitted` can change. -/
theorem admitted_kept (l : Nat) (s : State) (g1 : Group.adapters ∈ G) (g2 : Group.reach ∈ G) (hk : Kept G w0 s) :
    Kept G w0 (admitted l s) := by
  unfold admitted
  try dsimp only
  repeat' first
    | with_reducible assumption
    | with_reducible apply updAdapters_kept
    | with_reducible apply updReach_kept
    | with_reducible apply reportSealed_kept
    | with_reducible apply setDomPhase_kept
    | with_reducible refine kept_ite (fun _ => ?_) (fun _ => ?_)
    | split
    | (intro _ _)

/-- What `refused` can change. -/
theorem refused_kept (l reason : Nat) (s : State) (g1 : Group.reach ∈ G) (hk : Kept G w0 s) :
    Kept G w0 (refused l reason s) := by
  unfold refused
  try dsimp only
  repeat' first
    | with_reducible assumption
    | with_reducible apply updReach_kept
    | with_reducible refine kept_ite (fun _ => ?_) (fun _ => ?_)
    | split
    | (intro _ _)

/-- What `sealedArrives` can change. -/
theorem sealedArrives_kept (l : Nat) (stp : Word) (s : State) (g1 : Group.ports ∈ G) (g2 : Group.pipe ∈ G) (g3 : Group.weights ∈ G) (g4 : Group.bb ∈ G) (g5 : Group.events ∈ G) (g6 : Group.reach ∈ G) (hk : Kept G w0 s) :
    Kept G w0 (sealedArrives l stp s) := by
  unfold sealedArrives
  try dsimp only
  repeat' first
    | with_reducible assumption
    | with_reducible apply updChild_kept
    | with_reducible apply sealedChanged_kept
    | with_reducible apply tryClose_kept
    | with_reducible refine kept_ite (fun _ => ?_) (fun _ => ?_)
    | split
    | (intro _ _)

/-- What `armArrives` can change. -/
theorem armArrives_kept (l : Nat) (stp : Word) (tide : Dword) (s : State) (g1 : Group.ports ∈ G) (g2 : Group.weights ∈ G) (g3 : Group.reach ∈ G) (hk : Kept G w0 s) :
    Kept G w0 (armArrives l stp tide s) := by
  unfold armArrives
  try dsimp only
  repeat' first
    | with_reducible assumption
    | with_reducible apply updWeights_kept
    | with_reducible apply toChildren_kept
    | with_reducible apply endArm_kept
    | with_reducible refine kept_ite (fun _ => ?_) (fun _ => ?_)
    | split
    | (intro _ _)

/-- What `disarmArrives` can change. -/
theorem disarmArrives_kept (l : Nat) (stp : Word) (tide : Dword) (s : State) (g1 : Group.ports ∈ G) (g2 : Group.weights ∈ G) (g3 : Group.reach ∈ G) (hk : Kept G w0 s) :
    Kept G w0 (disarmArrives l stp tide s) := by
  unfold disarmArrives
  try dsimp only
  repeat' first
    | with_reducible assumption
    | with_reducible apply updWeights_kept
    | with_reducible apply toChildren_kept
    | with_reducible apply endArm_kept
    | with_reducible refine kept_ite (fun _ => ?_) (fun _ => ?_)
    | split
    | (intro _ _)

/-- What `fireArrives` can change. -/
theorem fireArrives_kept (l : Nat) (stp : Word) (s : State) (g1 : Group.reach ∈ G) (hk : Kept G w0 s) :
    Kept G w0 (fireArrives l stp s) := by
  unfold fireArrives
  try dsimp only
  repeat' first
    | with_reducible assumption
    | with_reducible apply updReach_kept
    | with_reducible refine kept_ite (fun _ => ?_) (fun _ => ?_)
    | split
    | (intro _ _)

/-- What `lostArrives` can change. -/
theorem lostArrives_kept (l : Nat) (s : State) (g1 : Group.cb ∈ G) (g2 : Group.ports ∈ G) (g3 : Group.pipe ∈ G) (g4 : Group.weights ∈ G) (g5 : Group.bb ∈ G) (g6 : Group.events ∈ G) (g7 : Group.reach ∈ G) (hk : Kept G w0 s) :
    Kept G w0 (lostArrives l s) := by
  unfold lostArrives
  try dsimp only
  repeat' first
    | with_reducible assumption
    | with_reducible apply loseChild_kept
    | with_reducible refine kept_ite (fun _ => ?_) (fun _ => ?_)
    | split
    | (intro _ _)

/-- What `departArrives` can change. -/
theorem departArrives_kept (l : Nat) (s : State) (g1 : Group.reach ∈ G) (hk : Kept G w0 s) :
    Kept G w0 (departArrives l s) := by
  unfold departArrives
  try dsimp only
  repeat' first
    | with_reducible assumption
    | with_reducible apply updChild_kept
    | with_reducible refine kept_ite (fun _ => ?_) (fun _ => ?_)
    | split
    | (intro _ _)

/-- What `sendProgress` can change. -/
theorem sendProgress_kept (s : State) (x : Sheet) (g1 : Group.pipe ∈ G) (g2 : Group.reach ∈ G) (hk : Kept G w0 s) :
    Kept G w0 (sendProgress s x) := by
  unfold sendProgress
  try dsimp only
  repeat' first
    | with_reducible assumption
    | with_reducible apply toParent_kept
    | with_reducible apply updSheet_kept
    | with_reducible refine kept_ite (fun _ => ?_) (fun _ => ?_)
    | split
    | (intro _ _)

/-- What `sendHail` can change. -/
theorem sendHail_kept (l stage : Nat) (s : State) (g1 : Group.reach ∈ G) (hk : Kept G w0 s) :
    Kept G w0 (sendHail l stage s) := by
  unfold sendHail
  try dsimp only
  repeat' first
    | with_reducible assumption
    | with_reducible apply sendFlit_kept
    | with_reducible refine kept_ite (fun _ => ?_) (fun _ => ?_)
    | split
    | (intro _ _)

/-- What `routeArrives` can change. -/
theorem routeArrives_kept (l : Nat) (entries : List (Nat × Nat)) (s : State) (g1 : Group.events ∈ G) (g2 : Group.reach ∈ G) (hk : Kept G w0 s) :
    Kept G w0 (routeArrives l entries s) := by
  unfold routeArrives
  try dsimp only
  repeat' first
    | with_reducible assumption
    | with_reducible apply advertise_kept
    | with_reducible apply offerRoute_kept
    | with_reducible refine kept_foldl (fun _ _ _ => ?_) ?_
    | with_reducible refine kept_ite (fun _ => ?_) (fun _ => ?_)
    | split
    | (intro _ _)

/-- What `domainLinkDown` can change. -/
theorem domainLinkDown_kept (before : State) (l : Nat) (s : State) (g1 : Group.cb ∈ G) (g2 : Group.ports ∈ G) (g3 : Group.pipe ∈ G) (g4 : Group.weights ∈ G) (g5 : Group.adapters ∈ G) (g6 : Group.bb ∈ G) (g7 : Group.events ∈ G) (g8 : Group.reach ∈ G) (hk : Kept G w0 s) :
    Kept G w0 (domainLinkDown before l s) := by
  unfold domainLinkDown
  try dsimp only
  repeat' first
    | with_reducible assumption
    | with_reducible apply updChild_kept
    | with_reducible apply leaveFormed_kept
    | with_reducible apply forgetJoins_kept
    | with_reducible apply loseChild_kept
    | with_reducible apply cutOff_kept
    | with_reducible refine kept_ite (fun _ => ?_) (fun _ => ?_)
    | split
    | (intro _ _)

/-- What `enterDown` can change. -/
theorem enterDown_kept (l : Nat) (failure : Option Nat) (s : State) (g1 : Group.tide ∈ G) (g2 : Group.cb ∈ G) (g3 : Group.ports ∈ G) (g4 : Group.pipe ∈ G) (g5 : Group.weights ∈ G) (g6 : Group.adapters ∈ G) (g7 : Group.bb ∈ G) (g8 : Group.events ∈ G) (g9 : Group.reach ∈ G) (hk : Kept G w0 s) :
    Kept G w0 (enterDown l failure s) := by
  unfold enterDown
  try dsimp only
  repeat' first
    | with_reducible assumption
    | with_reducible apply setHops_kept
    | with_reducible apply dropRoutes_kept
    | with_reducible apply tryLock_kept
    | with_reducible apply linkFalls_kept
    | with_reducible apply leaveGroups_kept
    | with_reducible apply domainLinkDown_kept
    | with_reducible refine kept_ite (fun _ => ?_) (fun _ => ?_)
    | split
    | (intro _ _)

/-- What `enterUp` can change. -/
theorem enterUp_kept (l : Nat) (s : State) (g1 : Group.tide ∈ G) (g2 : Group.ports ∈ G) (g3 : Group.bb ∈ G) (g4 : Group.events ∈ G) (g5 : Group.reach ∈ G) (hk : Kept G w0 s) :
    Kept G w0 (enterUp l s) := by
  unfold enterUp
  try dsimp only
  repeat' first
    | with_reducible assumption
    | with_reducible apply raise_kept
    | with_reducible apply bbRecord_kept
    | with_reducible apply updLink_kept
    | with_reducible apply pump_kept
    | with_reducible apply reportGroups_kept
    | with_reducible apply settleMcast_kept
    | with_reducible apply setHops_kept
    | with_reducible apply advertise_kept
    | with_reducible apply tryJoin_kept
    | with_reducible refine kept_ite (fun _ => ?_) (fun _ => ?_)
    | split
    | (intro _ _)

/-- What `enterDrain` can change. -/
theorem enterDrain_kept (l : Nat) (s : State) (g1 : Group.tide ∈ G) (g2 : Group.cb ∈ G) (g3 : Group.ports ∈ G) (g4 : Group.pipe ∈ G) (g5 : Group.weights ∈ G) (g6 : Group.adapters ∈ G) (g7 : Group.bb ∈ G) (g8 : Group.events ∈ G) (g9 : Group.reach ∈ G) (hk : Kept G w0 s) :
    Kept G w0 (enterDrain l s) := by
  unfold enterDrain
  try dsimp only
  repeat' first
    | with_reducible assumption
    | with_reducible apply updLink_kept
    | with_reducible apply sendFlit_kept
    | with_reducible apply sendUp_kept
    | with_reducible apply updChild_kept
    | with_reducible apply goodbye_kept
    | with_reducible refine kept_ite (fun _ => ?_) (fun _ => ?_)
    | split
    | (intro _ _)

/-- What `settleDrain` can change. -/
theorem settleDrain_kept (l : Nat) (s : State) (g1 : Group.tide ∈ G) (g2 : Group.cb ∈ G) (g3 : Group.ports ∈ G) (g4 : Group.pipe ∈ G) (g5 : Group.weights ∈ G) (g6 : Group.adapters ∈ G) (g7 : Group.bb ∈ G) (g8 : Group.events ∈ G) (g9 : Group.reach ∈ G) (hk : Kept G w0 s) :
    Kept G w0 (settleDrain l s) := by
  unfold settleDrain
  try dsimp only
  repeat' first
    | with_reducible assumption
    | with_reducible apply enterDown_kept
    | with_reducible refine kept_ite (fun _ => ?_) (fun _ => ?_)
    | split
    | (intro _ _)

/-- What `setPhy` can change. -/
theorem setPhy_kept (lane : Nat) (b : Bool) (s : State) (g1 : Group.reach ∈ G) (hk : Kept G w0 s) :
    Kept G w0 (setPhy lane b s) := by
  unfold setPhy
  try dsimp only
  repeat' first
    | with_reducible assumption
    | with_reducible apply updReach_kept
    | with_reducible refine kept_ite (fun _ => ?_) (fun _ => ?_)
    | split
    | (intro _ _)

/-- What `enterHail` can change. -/
theorem enterHail_kept (l : Nat) (lanes : List LaneSync) (s : State) (g1 : Group.reach ∈ G) (hk : Kept G w0 s) :
    Kept G w0 (enterHail l lanes s) := by
  unfold enterHail
  try dsimp only
  repeat' first
    | with_reducible assumption
    | with_reducible apply updLink_kept
    | with_reducible apply sendHail_kept
    | with_reducible refine kept_ite (fun _ => ?_) (fun _ => ?_)
    | split
    | (intro _ _)

/-- What `stateExpired` can change. -/
theorem stateExpired_kept (l : Nat) (s : State) (g1 : Group.tide ∈ G) (g2 : Group.cb ∈ G) (g3 : Group.ports ∈ G) (g4 : Group.pipe ∈ G) (g5 : Group.weights ∈ G) (g6 : Group.adapters ∈ G) (g7 : Group.bb ∈ G) (g8 : Group.events ∈ G) (g9 : Group.reach ∈ G) (hk : Kept G w0 s) :
    Kept G w0 (stateExpired l s) := by
  unfold stateExpired
  try dsimp only
  repeat' first
    | with_reducible assumption
    | with_reducible apply updLink_kept
    | with_reducible apply tryLock_kept
    | with_reducible apply enterDown_kept
    | with_reducible refine kept_ite (fun _ => ?_) (fun _ => ?_)
    | split
    | (intro _ _)

/-- What `drainLink` can change. -/
theorem drainLink_kept (l : Nat) (s : State) (g1 : Group.tide ∈ G) (g2 : Group.cb ∈ G) (g3 : Group.ports ∈ G) (g4 : Group.pipe ∈ G) (g5 : Group.weights ∈ G) (g6 : Group.adapters ∈ G) (g7 : Group.bb ∈ G) (g8 : Group.events ∈ G) (g9 : Group.reach ∈ G) (hk : Kept G w0 s) :
    Kept G w0 (drainLink l s) := by
  unfold drainLink
  try dsimp only
  repeat' first
    | with_reducible assumption
    | with_reducible apply enterDrain_kept
    | with_reducible apply settleDrain_kept
    | with_reducible refine kept_ite (fun _ => ?_) (fun _ => ?_)
    | split
    | (intro _ _)

/-- What `hailCheck` can change. -/
theorem hailCheck_kept (l : Nat) (s : State) (g1 : Group.tide ∈ G) (g2 : Group.cb ∈ G) (g3 : Group.ports ∈ G) (g4 : Group.pipe ∈ G) (g5 : Group.weights ∈ G) (g6 : Group.adapters ∈ G) (g7 : Group.bb ∈ G) (g8 : Group.events ∈ G) (g9 : Group.reach ∈ G) (hk : Kept G w0 s) :
    Kept G w0 (hailCheck l s) := by
  unfold hailCheck
  try dsimp only
  repeat' first
    | with_reducible assumption
    | with_reducible apply updLink_kept
    | with_reducible apply enterUp_kept
    | with_reducible apply drainLink_kept
    | with_reducible refine kept_ite (fun _ => ?_) (fun _ => ?_)
    | split
    | (intro _ _)

/-- What `retrainLink` can change. -/
theorem retrainLink_kept (l : Nat) (s : State) (g1 : Group.tide ∈ G) (g2 : Group.cb ∈ G) (g3 : Group.ports ∈ G) (g4 : Group.pipe ∈ G) (g5 : Group.weights ∈ G) (g6 : Group.adapters ∈ G) (g7 : Group.bb ∈ G) (g8 : Group.events ∈ G) (g9 : Group.reach ∈ G) (hk : Kept G w0 s) :
    Kept G w0 (retrainLink l s) := by
  unfold retrainLink
  try dsimp only
  repeat' first
    | with_reducible assumption
    | with_reducible apply updLink_kept
    | with_reducible apply tryLock_kept
    | with_reducible apply enterDown_kept
    | with_reducible refine kept_ite (fun _ => ?_) (fun _ => ?_)
    | split
    | (intro _ _)

/-- What `setDetach` can change. -/
theorem setDetach_kept (l : Nat) (s : State) (g1 : Group.tide ∈ G) (g2 : Group.cb ∈ G) (g3 : Group.ports ∈ G) (g4 : Group.pipe ∈ G) (g5 : Group.weights ∈ G) (g6 : Group.adapters ∈ G) (g7 : Group.bb ∈ G) (g8 : Group.events ∈ G) (g9 : Group.reach ∈ G) (hk : Kept G w0 s) :
    Kept G w0 (setDetach l s) := by
  unfold setDetach
  try dsimp only
  repeat' first
    | with_reducible assumption
    | with_reducible apply updLink_kept
    | with_reducible apply drainLink_kept
    | with_reducible refine kept_ite (fun _ => ?_) (fun _ => ?_)
    | split
    | (intro _ _)

/-- What `writeLinkCtl` can change. -/
theorem writeLinkCtl_kept (l : Nat) (value : Word) (s : State) (g1 : Group.tide ∈ G) (g2 : Group.cb ∈ G) (g3 : Group.ports ∈ G) (g4 : Group.pipe ∈ G) (g5 : Group.weights ∈ G) (g6 : Group.adapters ∈ G) (g7 : Group.bb ∈ G) (g8 : Group.events ∈ G) (g9 : Group.reach ∈ G) (hk : Kept G w0 s) :
    Kept G w0 (writeLinkCtl l value s) := by
  unfold writeLinkCtl
  try dsimp only
  repeat' first
    | with_reducible assumption
    | with_reducible apply updLink_kept
    | with_reducible apply tryLock_kept
    | with_reducible apply enterDown_kept
    | with_reducible apply retrainLink_kept
    | with_reducible apply setDetach_kept
    | with_reducible refine kept_ite (fun _ => ?_) (fun _ => ?_)
    | split
    | (intro _ _)

/-- What `replayAll'` can change. -/
theorem replayAll'_kept (l : Nat) (s : State) (g1 : Group.tide ∈ G) (g2 : Group.cb ∈ G) (g3 : Group.ports ∈ G) (g4 : Group.pipe ∈ G) (g5 : Group.weights ∈ G) (g6 : Group.adapters ∈ G) (g7 : Group.bb ∈ G) (g8 : Group.events ∈ G) (g9 : Group.reach ∈ G) (hk : Kept G w0 s) :
    Kept G w0 (replayAll' l s) := by
  unfold replayAll'
  try dsimp only
  repeat' first
    | with_reducible assumption
    | with_reducible apply updLink_kept
    | with_reducible apply emitFlit_kept
    | with_reducible apply enterDown_kept
    | with_reducible refine kept_foldl (fun _ _ _ => ?_) ?_
    | with_reducible refine kept_ite (fun _ => ?_) (fun _ => ?_)
    | split
    | (intro _ _)

/-- What `headerIn` can change. -/
theorem headerIn_kept (l : Nat) (h : FlitHdr) (s : State) (g1 : Group.tide ∈ G) (g2 : Group.cb ∈ G) (g3 : Group.ports ∈ G) (g4 : Group.pipe ∈ G) (g5 : Group.weights ∈ G) (g6 : Group.adapters ∈ G) (g7 : Group.bb ∈ G) (g8 : Group.events ∈ G) (g9 : Group.reach ∈ G) (hk : Kept G w0 s) :
    Kept G w0 (headerIn l h s) := by
  unfold headerIn
  try dsimp only
  repeat' first
    | with_reducible assumption
    | with_reducible apply updLink_kept
    | with_reducible apply pump_kept
    | with_reducible apply settleMcast_kept
    | with_reducible apply replayAll'_kept
    | with_reducible refine kept_ite (fun _ => ?_) (fun _ => ?_)
    | split
    | (intro _ _)

/-- What `countCoding` can change. -/
theorem countCoding_kept (l : Nat) (h : FlitHdr) (s : State) (g1 : Group.reach ∈ G) (hk : Kept G w0 s) :
    Kept G w0 (countCoding l h s) := by
  unfold countCoding
  try dsimp only
  repeat' first
    | with_reducible assumption
    | with_reducible apply countCodewords_kept
    | with_reducible refine kept_ite (fun _ => ?_) (fun _ => ?_)
    | split
    | (intro _ _)

/-- What `countProto` can change. -/
theorem countProto_kept (l : Nat) (s : State) (g1 : Group.reach ∈ G) (hk : Kept G w0 s) :
    Kept G w0 (countProto l s) := by
  unfold countProto
  try dsimp only
  repeat' first
    | with_reducible assumption
    | with_reducible apply updLink_kept
    | with_reducible refine kept_ite (fun _ => ?_) (fun _ => ?_)
    | split
    | (intro _ _)

/-- What `acceptFlit` can change. -/
theorem acceptFlit_kept (l vc : Nat) (s : State) (g1 : Group.reach ∈ G) (hk : Kept G w0 s) :
    Kept G w0 (acceptFlit l vc s) := by
  unfold acceptFlit
  try dsimp only
  repeat' first
    | with_reducible assumption
    | with_reducible apply updLink_kept
    | with_reducible refine kept_ite (fun _ => ?_) (fun _ => ?_)
    | split
    | (intro _ _)

/-- What `returnCredit` can change. -/
theorem returnCredit_kept (l : Nat) (s : State) (g1 : Group.reach ∈ G) (hk : Kept G w0 s) :
    Kept G w0 (returnCredit l s) := by
  unfold returnCredit
  try dsimp only
  repeat' first
    | with_reducible assumption
    | with_reducible apply updLink_kept
    | with_reducible apply sendIdle_kept
    | with_reducible refine kept_ite (fun _ => ?_) (fun _ => ?_)
    | split
    | (intro _ _)

/-- A sequenced flit. -/
theorem sequenced_kept (l ty vc : Nat) (hd : FlitHdr) (eff : State → State) (s : State) (g1 : Group.tide ∈ G) (g2 : Group.cb ∈ G) (g3 : Group.ports ∈ G) (g4 : Group.pipe ∈ G) (g5 : Group.weights ∈ G) (g6 : Group.adapters ∈ G) (g7 : Group.bb ∈ G) (g8 : Group.events ∈ G) (g9 : Group.reach ∈ G)
    (he : ∀ t, Kept G w0 t → Kept G w0 (eff t)) (h : Kept G w0 s) : Kept G w0 (sequenced l ty vc hd eff s) := by
  unfold sequenced
  dsimp only
  repeat' first
    | with_reducible assumption
    | with_reducible apply he
    | with_reducible apply sendIdle_kept
    | with_reducible apply countProto_kept
    | with_reducible apply headerIn_kept
    | with_reducible apply countCoding_kept
    | with_reducible apply acceptFlit_kept
    | with_reducible apply returnCredit_kept
    | with_reducible refine kept_ite (fun _ => ?_) (fun _ => ?_)

/-- What `unheard` can change. -/
theorem unheard_kept (l : Nat) (h : FlitHdr) (s : State) (g1 : Group.tide ∈ G) (g2 : Group.cb ∈ G) (g3 : Group.ports ∈ G) (g4 : Group.pipe ∈ G) (g5 : Group.weights ∈ G) (g6 : Group.adapters ∈ G) (g7 : Group.bb ∈ G) (g8 : Group.events ∈ G) (g9 : Group.reach ∈ G) (hk : Kept G w0 s) :
    Kept G w0 (unheard l h s) := by
  unfold unheard
  try dsimp only
  repeat' first
    | with_reducible assumption
    | with_reducible apply sendIdle_kept
    | with_reducible apply headerIn_kept
    | with_reducible apply countCoding_kept
    | with_reducible refine kept_ite (fun _ => ?_) (fun _ => ?_)
    | split
    | (intro _ _)

/-- A flit of a record stream. -/
theorem streamIn_kept (l ty vc : Nat) (s : State) (hd : FlitHdr) (g1 : Group.tide ∈ G) (g2 : Group.cb ∈ G) (g3 : Group.ports ∈ G) (g4 : Group.pipe ∈ G) (g5 : Group.weights ∈ G) (g6 : Group.adapters ∈ G) (g7 : Group.bb ∈ G) (g8 : Group.events ∈ G) (g9 : Group.reach ∈ G) (h : Kept G w0 s) : Kept G w0 (streamIn l ty vc s hd) := by
  unfold streamIn
  repeat' first
    | with_reducible assumption
    | with_reducible refine sequenced_kept _ _ _ _ _ _ (by assumption) (by assumption) (by assumption) (by assumption) (by assumption) (by assumption) (by assumption) (by assumption) (by assumption) (fun _ _ => ?_) ?_
    | with_reducible apply unheard_kept
    | with_reducible apply sendIdle_kept
    | with_reducible apply updLink_kept
    | with_reducible refine kept_ite (fun _ => ?_) (fun _ => ?_)

/-- A record of a stream. -/
theorem recordIn_kept (l ty vc kind len : Nat) (hs : List FlitHdr) (r : RecHdr) (content : Option (List Byte)) (eff : State → State) (s : State) (g1 : Group.tide ∈ G) (g2 : Group.cb ∈ G) (g3 : Group.ports ∈ G) (g4 : Group.pipe ∈ G) (g5 : Group.weights ∈ G) (g6 : Group.adapters ∈ G) (g7 : Group.bb ∈ G) (g8 : Group.events ∈ G) (g9 : Group.reach ∈ G)
    (he : ∀ t, Kept G w0 t → Kept G w0 (eff t)) (h : Kept G w0 s) : Kept G w0 (recordIn l ty vc kind len hs r content eff s) := by
  unfold recordIn
  dsimp only
  have hf : Kept G w0 (hs.foldl (streamIn l ty vc) s) := by
    refine kept_foldl (fun _ _ ht => ?_) h
    apply streamIn_kept <;> assumption
  repeat' first
    | with_reducible assumption
    | with_reducible apply he
    | with_reducible apply countProto_kept
    | with_reducible apply updLink_kept
    | with_reducible refine kept_ite (fun _ => ?_) (fun _ => ?_)

/-- What `idleIn` can change. -/
theorem idleIn_kept (l : Nat) (h : FlitHdr) (s : State) (g1 : Group.tide ∈ G) (g2 : Group.cb ∈ G) (g3 : Group.ports ∈ G) (g4 : Group.pipe ∈ G) (g5 : Group.weights ∈ G) (g6 : Group.adapters ∈ G) (g7 : Group.bb ∈ G) (g8 : Group.events ∈ G) (g9 : Group.reach ∈ G) (hk : Kept G w0 s) :
    Kept G w0 (idleIn l h s) := by
  unfold idleIn
  try dsimp only
  repeat' first
    | with_reducible assumption
    | with_reducible apply sendIdle_kept
    | with_reducible apply headerIn_kept
    | with_reducible apply countCoding_kept
    | with_reducible refine kept_ite (fun _ => ?_) (fun _ => ?_)
    | split
    | (intro _ _)

/-- What `peerRenamed` can change. -/
theorem peerRenamed_kept (before : State) (l : Nat) (s : State) (g1 : Group.cb ∈ G) (g2 : Group.ports ∈ G) (g3 : Group.pipe ∈ G) (g4 : Group.weights ∈ G) (g5 : Group.adapters ∈ G) (g6 : Group.bb ∈ G) (g7 : Group.events ∈ G) (g8 : Group.reach ∈ G) (hk : Kept G w0 s) :
    Kept G w0 (peerRenamed before l s) := by
  unfold peerRenamed
  try dsimp only
  repeat' first
    | with_reducible assumption
    | with_reducible apply forgetJoins_kept
    | with_reducible apply loseChild_kept
    | with_reducible apply cutOff_kept
    | with_reducible refine kept_ite (fun _ => ?_) (fun _ => ?_)
    | split
    | (intro _ _)

/-- What `hailArrives` can change. -/
theorem hailArrives_kept (l : Nat) (frame : List Byte) (s : State) (g1 : Group.tide ∈ G) (g2 : Group.cb ∈ G) (g3 : Group.ports ∈ G) (g4 : Group.pipe ∈ G) (g5 : Group.weights ∈ G) (g6 : Group.adapters ∈ G) (g7 : Group.bb ∈ G) (g8 : Group.events ∈ G) (g9 : Group.reach ∈ G) (hk : Kept G w0 s) :
    Kept G w0 (hailArrives l frame s) := by
  unfold hailArrives
  try dsimp only
  repeat' first
    | with_reducible assumption
    | with_reducible apply updLink_kept
    | with_reducible apply setHops_kept
    | with_reducible apply tryJoin_kept
    | with_reducible apply sendHail_kept
    | with_reducible apply peerRenamed_kept
    | with_reducible apply heard_kept
    | with_reducible refine kept_ite (fun _ => ?_) (fun _ => ?_)
    | split
    | (intro _ _)

/-- What `goodbye` can change. -/
theorem goodbye_kept (l : Nat) (s : State) (g1 : Group.tide ∈ G) (g2 : Group.cb ∈ G) (g3 : Group.ports ∈ G) (g4 : Group.pipe ∈ G) (g5 : Group.weights ∈ G) (g6 : Group.adapters ∈ G) (g7 : Group.bb ∈ G) (g8 : Group.events ∈ G) (g9 : Group.reach ∈ G) (hk : Kept G w0 s) :
    Kept G w0 (goodbye l s) := by
  unfold goodbye
  try dsimp only
  repeat' first
    | with_reducible assumption
    | with_reducible apply drainLink_kept
    | with_reducible refine kept_ite (fun _ => ?_) (fun _ => ?_)
    | split
    | (intro _ _)

/-- What `leaveReach` can change. -/
theorem leaveReach_kept (s : State) (g1 : Group.cb ∈ G) (g2 : Group.ports ∈ G) (g3 : Group.pipe ∈ G) (g4 : Group.weights ∈ G) (g5 : Group.adapters ∈ G) (g6 : Group.bb ∈ G) (g7 : Group.events ∈ G) (g8 : Group.reach ∈ G) (hk : Kept G w0 s) :
    Kept G w0 (leaveReach s) := by
  unfold leaveReach
  try dsimp only
  repeat' first
    | with_reducible assumption
    | with_reducible apply updReach_kept
    | with_reducible apply forgetJoins_kept
    | with_reducible apply loseChild_kept
    | with_reducible apply cutOff_kept
    | with_reducible refine kept_foldl (fun _ _ _ => ?_) ?_
    | with_reducible refine kept_ite (fun _ => ?_) (fun _ => ?_)
    | split
    | (intro _ _)

/-- What `tellAddr` can change. -/
theorem tellAddr_kept (s : State) (g1 : Group.cb ∈ G) (g2 : Group.ports ∈ G) (g3 : Group.pipe ∈ G) (g4 : Group.weights ∈ G) (g5 : Group.adapters ∈ G) (g6 : Group.bb ∈ G) (g7 : Group.events ∈ G) (g8 : Group.reach ∈ G) (hk : Kept G w0 s) :
    Kept G w0 (tellAddr s) := by
  unfold tellAddr
  try dsimp only
  repeat' first
    | with_reducible assumption
    | with_reducible apply updReach_kept
    | with_reducible apply advertise_kept
    | with_reducible apply tryJoin_kept
    | with_reducible apply sendHail_kept
    | with_reducible apply leaveReach_kept
    | with_reducible refine kept_foldl (fun _ _ _ => ?_) ?_
    | with_reducible refine kept_ite (fun _ => ?_) (fun _ => ?_)
    | split
    | (intro _ _)

/-- What `writeAddr` can change. -/
theorem writeAddr_kept (value : Word) (s : State) (g1 : Group.cb ∈ G) (g2 : Group.ports ∈ G) (g3 : Group.pipe ∈ G) (g4 : Group.weights ∈ G) (g5 : Group.adapters ∈ G) (g6 : Group.bb ∈ G) (g7 : Group.events ∈ G) (g8 : Group.reach ∈ G) (hk : Kept G w0 s) :
    Kept G w0 (writeAddr value s) := by
  unfold writeAddr
  try dsimp only
  repeat' first
    | with_reducible assumption
    | with_reducible apply updReach_kept
    | with_reducible apply tellAddr_kept
    | with_reducible refine kept_ite (fun _ => ?_) (fun _ => ?_)
    | split
    | (intro _ _)

/-- What `applyMcast` can change. -/
theorem applyMcast_kept (bs : List Byte) (s : State) (g1 : Group.cb ∈ G) (g2 : Group.ports ∈ G) (g3 : Group.weights ∈ G) (g4 : Group.adapters ∈ G) (g5 : Group.events ∈ G) (g6 : Group.reach ∈ G) (hk : Kept G w0 s) :
    Kept G w0 (applyMcast bs s) := by
  unfold applyMcast
  try dsimp only
  repeat' first
    | with_reducible assumption
    | with_reducible apply updPorts_kept
    | with_reducible apply patchArrives_kept
    | with_reducible refine kept_ite (fun _ => ?_) (fun _ => ?_)
    | split
    | (intro _ _)

/-- What `mcastArrives` can change. -/
theorem mcastArrives_kept (l g : Nat) (seg : List Byte) (s : State) (g1 : Group.cb ∈ G) (g2 : Group.ports ∈ G) (g3 : Group.weights ∈ G) (g4 : Group.adapters ∈ G) (g5 : Group.events ∈ G) (g6 : Group.reach ∈ G) (hk : Kept G w0 s) :
    Kept G w0 (mcastArrives l g seg s) := by
  unfold mcastArrives
  try dsimp only
  repeat' first
    | with_reducible assumption
    | with_reducible apply updReach_kept
    | with_reducible apply settleMcast_kept
    | with_reducible apply sendCopies_kept
    | with_reducible apply returnCredit_kept
    | with_reducible apply applyMcast_kept
    | with_reducible refine kept_ite (fun _ => ?_) (fun _ => ?_)
    | split
    | (intro _ _)

/-- What `reportArrives` can change. -/
theorem reportArrives_kept (l g : Nat) (stp : Word) (s : State) (g1 : Group.reach ∈ G) (hk : Kept G w0 s) :
    Kept G w0 (reportArrives l g stp s) := by
  unfold reportArrives
  try dsimp only
  repeat' first
    | with_reducible assumption
    | with_reducible apply updReach_kept
    | with_reducible apply reportGroups_kept
    | with_reducible refine kept_ite (fun _ => ?_) (fun _ => ?_)
    | split
    | (intro _ _)

/-- What `dropOldest` can change. -/
theorem dropOldest_kept (s : State) (g1 : Group.ports ∈ G) (g2 : Group.pipe ∈ G) (hk : Kept G w0 s) :
    Kept G w0 (dropOldest s) := by
  unfold dropOldest
  try dsimp only
  repeat' first
    | with_reducible assumption
    | with_reducible apply dropSheet_kept
    | with_reducible refine kept_ite (fun _ => ?_) (fun _ => ?_)
    | split
    | (intro _ _)

/-- What `sheetOpens` can change. -/
theorem sheetOpens_kept (l seq : Nat) (live genId : Word) (slots order : Nat) (s : State) (g1 : Group.ports ∈ G) (g2 : Group.pipe ∈ G) (g3 : Group.weights ∈ G) (g4 : Group.adapters ∈ G) (g5 : Group.bb ∈ G) (g6 : Group.events ∈ G) (g7 : Group.reach ∈ G) (hk : Kept G w0 s) :
    Kept G w0 (sheetOpens l seq live genId slots order s) := by
  unfold sheetOpens
  try dsimp only
  repeat' first
    | with_reducible assumption
    | with_reducible apply updPipe_kept
    | with_reducible apply updReach_kept
    | with_reducible apply toKids_kept
    | with_reducible apply changeDomain_kept
    | with_reducible apply dropOldest_kept
    | with_reducible refine kept_ite (fun _ => ?_) (fun _ => ?_)
    | split
    | (intro _ _)

/-- What `rowOpens` can change. -/
theorem rowOpens_kept (slot : Nat) (c : CtlWord) (s : State) (g1 : Group.pipe ∈ G) (g2 : Group.reach ∈ G) (hk : Kept G w0 s) :
    Kept G w0 (rowOpens slot c s) := by
  unfold rowOpens
  try dsimp only
  repeat' first
    | with_reducible assumption
    | with_reducible apply updReach_kept
    | with_reducible apply toParent_kept
    | with_reducible apply updSheet_kept
    | with_reducible apply toKids_kept
    | with_reducible refine kept_ite (fun _ => ?_) (fun _ => ?_)
    | split
    | (intro _ _)

/-- What `updMemberSlot` can change. -/
theorem updMemberSlot_kept (slot : Nat) (f : Slot → Slot) (s : State) (g1 : Group.pipe ∈ G) (hk : Kept G w0 s) :
    Kept G w0 (updMemberSlot slot f s) := by
  unfold updMemberSlot
  try dsimp only
  repeat' first
    | with_reducible assumption
    | with_reducible apply updSlotAt_kept
    | with_reducible refine kept_ite (fun _ => ?_) (fun _ => ?_)
    | split
    | (intro _ _)

/-- What `passOn` can change. -/
theorem passOn_kept (f : OutFlit) (s : State) (g1 : Group.reach ∈ G) (hk : Kept G w0 s) :
    Kept G w0 (passOn f s) := by
  unfold passOn
  try dsimp only
  repeat' first
    | with_reducible assumption
    | with_reducible apply toKids_kept
    | with_reducible refine kept_ite (fun _ => ?_) (fun _ => ?_)
    | split
    | (intro _ _)

/-- What `brineArrives` can change. -/
theorem brineArrives_kept (slot : Nat) (bs : List Byte) (s : State) (g1 : Group.pipe ∈ G) (g2 : Group.reach ∈ G) (hk : Kept G w0 s) :
    Kept G w0 (brineArrives slot bs s) := by
  unfold brineArrives
  try dsimp only
  repeat' first
    | with_reducible assumption
    | with_reducible apply updMemberSlot_kept
    | with_reducible apply passOn_kept
    | with_reducible refine kept_ite (fun _ => ?_) (fun _ => ?_)
    | split
    | (intro _ _)

/-- What `listCame` can change. -/
theorem listCame_kept (slot : Nat) (f : ListFlags → ListFlags) (s : State) (g1 : Group.pipe ∈ G) (hk : Kept G w0 s) :
    Kept G w0 (listCame slot f s) := by
  unfold listCame
  try dsimp only
  repeat' first
    | with_reducible assumption
    | with_reducible apply updMemberSlot_kept
    | with_reducible refine kept_ite (fun _ => ?_) (fun _ => ?_)
    | split
    | (intro _ _)

/-- What `rejectSlot` can change. -/
theorem rejectSlot_kept (slot reason : Nat) (s : State) (g1 : Group.pipe ∈ G) (g2 : Group.reach ∈ G) (hk : Kept G w0 s) :
    Kept G w0 (rejectSlot slot reason s) := by
  unfold rejectSlot
  try dsimp only
  repeat' first
    | with_reducible assumption
    | with_reducible apply toParent_kept
    | with_reducible apply updSheet_kept
    | with_reducible refine kept_ite (fun _ => ?_) (fun _ => ?_)
    | split
    | (intro _ _)

/-- What `relist` can change. -/
theorem relist_kept (seq i p : Nat) (s : State) (g1 : Group.ports ∈ G) (g2 : Group.pipe ∈ G) (hk : Kept G w0 s) :
    Kept G w0 (relist seq i p s) := by
  unfold relist
  try dsimp only
  repeat' first
    | with_reducible assumption
    | with_reducible apply settleFetch_kept
    | with_reducible apply settleStages_kept
    | with_reducible apply updSlotAt_kept
    | with_reducible refine kept_ite (fun _ => ?_) (fun _ => ?_)
    | split
    | (intro _ _)

/-- What `graderArrives` can change. -/
theorem graderArrives_kept (slot : Nat) (bs : List Byte) (s0 : State) (g1 : Group.ca ∈ G) (g2 : Group.ports ∈ G) (g3 : Group.pipe ∈ G) (g4 : Group.reach ∈ G) (hk : Kept G w0 s0) :
    Kept G w0 (graderArrives slot bs s0) := by
  unfold graderArrives
  try dsimp only
  repeat' first
    | with_reducible assumption
    | with_reducible apply updCa_kept
    | with_reducible apply sendEntries_kept
    | with_reducible apply updMemberSlot_kept
    | with_reducible apply listCame_kept
    | with_reducible apply rejectSlot_kept
    | with_reducible apply relist_kept
    | with_reducible refine kept_foldl (fun _ _ _ => ?_) ?_
    | with_reducible refine kept_ite (fun _ => ?_) (fun _ => ?_)
    | split
    | (intro _ _)

/-- What `maskArrives` can change. -/
theorem maskArrives_kept (slot ref : Nat) (s0 : State) (g1 : Group.ports ∈ G) (g2 : Group.pipe ∈ G) (g3 : Group.reach ∈ G) (hk : Kept G w0 s0) :
    Kept G w0 (maskArrives slot ref s0) := by
  unfold maskArrives
  try dsimp only
  repeat' first
    | with_reducible assumption
    | with_reducible apply updSheet_kept
    | with_reducible apply passOn_kept
    | with_reducible apply listCame_kept
    | with_reducible apply relist_kept
    | with_reducible refine kept_ite (fun _ => ?_) (fun _ => ?_)
    | split
    | (intro _ _)

/-- What `watchArrives` can change. -/
theorem watchArrives_kept (slot : Nat) (toks : List Nat) (s : State) (g1 : Group.ports ∈ G) (g2 : Group.pipe ∈ G) (g3 : Group.reach ∈ G) (hk : Kept G w0 s) :
    Kept G w0 (watchArrives slot toks s) := by
  unfold watchArrives
  try dsimp only
  repeat' first
    | with_reducible assumption
    | with_reducible apply sendWatch_kept
    | with_reducible apply updMemberSlot_kept
    | with_reducible apply relist_kept
    | with_reducible refine kept_foldl (fun _ _ _ => ?_) ?_
    | with_reducible refine kept_ite (fun _ => ?_) (fun _ => ?_)
    | split
    | (intro _ _)

/-- What `issueMember` can change. -/
theorem issueMember_kept (x : Sheet) (c : CtlWord) (i : Nat) (r : Row) (s : State) (g1 : Group.pipe ∈ G) (hk : Kept G w0 s) :
    Kept G w0 (issueMember x c i r s) := by
  unfold issueMember
  try dsimp only
  repeat' first
    | with_reducible assumption
    | with_reducible apply updSheet_kept
    | with_reducible apply issueFurther_kept
    | with_reducible refine kept_ite (fun _ => ?_) (fun _ => ?_)
    | split
    | (intro _ _)

/-- What `passArrives` can change. -/
theorem passArrives_kept (slot : Nat) (c : CtlWord) (s : State) (g1 : Group.ports ∈ G) (g2 : Group.pipe ∈ G) (g3 : Group.reach ∈ G) (hk : Kept G w0 s) :
    Kept G w0 (passArrives slot c s) := by
  unfold passArrives
  try dsimp only
  repeat' first
    | with_reducible assumption
    | with_reducible apply updSheet_kept
    | with_reducible apply settleFetch_kept
    | with_reducible apply toKids_kept
    | with_reducible apply settleStages_kept
    | with_reducible apply renewIdle_kept
    | with_reducible apply issueMember_kept
    | with_reducible refine kept_ite (fun _ => ?_) (fun _ => ?_)
    | split
    | (intro _ _)

/-- What `sheetAborts` can change. -/
theorem sheetAborts_kept (seq : Nat) (s : State) (g1 : Group.ports ∈ G) (g2 : Group.pipe ∈ G) (g3 : Group.reach ∈ G) (hk : Kept G w0 s) :
    Kept G w0 (sheetAborts seq s) := by
  unfold sheetAborts
  try dsimp only
  repeat' first
    | with_reducible assumption
    | with_reducible apply toChildren_kept
    | with_reducible apply settleFetch_kept
    | with_reducible apply toKids_kept
    | with_reducible apply settleStages_kept
    | with_reducible apply dropSheet_kept
    | with_reducible refine kept_ite (fun _ => ?_) (fun _ => ?_)
    | split
    | (intro _ _)

/-- What `writeRecord` can change. -/
theorem writeRecord_kept (c : ImageCfg) (v handle rank : Nat) (bytes : List Byte) (s : State) (g1 : Group.brine ∈ G) (g2 : Group.adapters ∈ G) (g3 : Group.reach ∈ G) (hk : Kept G w0 s) :
    Kept G w0 (writeRecord c v handle rank bytes s) := by
  unfold writeRecord
  try dsimp only
  repeat' first
    | with_reducible assumption
    | with_reducible apply updAdapters_kept
    | with_reducible apply toParent_kept
    | with_reducible apply writeSlots_kept
    | with_reducible apply updEntry_kept
    | with_reducible apply sendShare_kept
    | with_reducible apply settleRelays_kept
    | with_reducible refine kept_foldl (fun _ _ _ => ?_) ?_
    | with_reducible refine kept_ite (fun _ => ?_) (fun _ => ?_)
    | split
    | (intro _ _)

/-- Waiting ADAPTER records are written. -/
theorem drainRecords_kept (c : ImageCfg) (n : Nat) (s : State) (g1 : Group.brine ∈ G) (g2 : Group.adapters ∈ G) (g3 : Group.reach ∈ G) (h : Kept G w0 s) : Kept G w0 (drainRecords c n s) := by
  induction n generalizing s with
  | zero => exact h
  | succ n ih =>
    unfold drainRecords
    split
    · exact h
    · refine kept_ite (fun _ => ih _ (writeRecord_kept _ _ _ _ _ _ ?_ ?_ ?_ (updAdapters_kept _ ?_ h))) fun _ => h <;> assumption

/-- What `settleRecords` can change. -/
theorem settleRecords_kept (s : State) (g1 : Group.brine ∈ G) (g2 : Group.adapters ∈ G) (g3 : Group.reach ∈ G) (hk : Kept G w0 s) :
    Kept G w0 (settleRecords s) := by
  unfold settleRecords
  try dsimp only
  repeat' first
    | with_reducible assumption
    | with_reducible apply drainRecords_kept
    | with_reducible refine kept_ite (fun _ => ?_) (fun _ => ?_)
    | split
    | (intro _ _)

/-- What `adapterArrives` can change. -/
theorem adapterArrives_kept (v handle rank : Nat) (bytes : List Byte) (s : State) (g1 : Group.brine ∈ G) (g2 : Group.adapters ∈ G) (g3 : Group.events ∈ G) (g4 : Group.reach ∈ G) (hk : Kept G w0 s) :
    Kept G w0 (adapterArrives v handle rank bytes s) := by
  unfold adapterArrives
  try dsimp only
  repeat' first
    | with_reducible assumption
    | with_reducible apply updAdapters_kept
    | with_reducible apply raise_kept
    | with_reducible apply settleRecords_kept
    | with_reducible refine kept_ite (fun _ => ?_) (fun _ => ?_)
    | split
    | (intro _ _)

/-- What `adapterFrees` can change. -/
theorem adapterFrees_kept (v : Nat) (s : State) (g1 : Group.brine ∈ G) (g2 : Group.adapters ∈ G) (g3 : Group.reach ∈ G) (hk : Kept G w0 s) :
    Kept G w0 (adapterFrees v s) := by
  unfold adapterFrees
  try dsimp only
  repeat' first
    | with_reducible assumption
    | with_reducible apply updAdapters_kept
    | with_reducible apply toChildren_kept
    | with_reducible apply updEntry_kept
    | with_reducible apply settleRecords_kept
    | with_reducible refine kept_ite (fun _ => ?_) (fun _ => ?_)
    | split
    | (intro _ _)

/-- What `doneArrives` can change. -/
theorem doneArrives_kept (k v result : Nat) (s : State) (g1 : Group.ports ∈ G) (g2 : Group.adapters ∈ G) (g3 : Group.events ∈ G) (g4 : Group.reach ∈ G) (hk : Kept G w0 s) :
    Kept G w0 (doneArrives k v result s) := by
  unfold doneArrives
  try dsimp only
  repeat' first
    | with_reducible assumption
    | with_reducible apply updAdapters_kept
    | with_reducible apply toParent_kept
    | with_reducible apply updLoad_kept
    | with_reducible apply endLoad_kept
    | with_reducible apply tryCurrent_kept
    | with_reducible apply settleRelays_kept
    | with_reducible refine kept_ite (fun _ => ?_) (fun _ => ?_)
    | split
    | (intro _ _)

/-- What `heard` can change. -/
theorem heard_kept (k seq : Nat) (s : State) (g1 : Group.pipe ∈ G) (hk : Kept G w0 s) :
    Kept G w0 (heard k seq s) := by
  unfold heard
  try dsimp only
  repeat' first
    | with_reducible assumption
    | with_reducible apply updSheet_kept
    | with_reducible refine kept_ite (fun _ => ?_) (fun _ => ?_)
    | split
    | (intro _ _)

/-- What `partArrives` can change. -/
theorem partArrives_kept (k slot pass : Nat) (f : RemotePart → RemotePart) (s : State) (g1 : Group.pipe ∈ G) (hk : Kept G w0 s) :
    Kept G w0 (partArrives k slot pass f s) := by
  unfold partArrives
  try dsimp only
  repeat' first
    | with_reducible assumption
    | with_reducible apply settleStages_kept
    | with_reducible apply updSlotAt_kept
    | with_reducible apply heard_kept
    | with_reducible refine kept_ite (fun _ => ?_) (fun _ => ?_)
    | split
    | (intro _ _)

/-- What `windrowArrives` can change. -/
theorem windrowArrives_kept (k slot pass : Nat) (es : List Entry) (s : State) (g1 : Group.pipe ∈ G) (hk : Kept G w0 s) :
    Kept G w0 (windrowArrives k slot pass es s) := by
  unfold windrowArrives
  try dsimp only
  repeat' first
    | with_reducible assumption
    | with_reducible apply settleStages_kept
    | with_reducible apply updSlotAt_kept
    | with_reducible apply heard_kept
    | with_reducible refine kept_ite (fun _ => ?_) (fun _ => ?_)
    | split
    | (intro _ _)

/-- A record from a child. -/
theorem fromChild_kept (l : Nat) (f : Nat → State → State) (s : State) (hf : ∀ k t, Kept G w0 t → Kept G w0 (f k t)) (h : Kept G w0 s) :
    Kept G w0 (fromChild l f s) := by
  unfold fromChild
  split
  · exact hf _ _ h
  · exact h

/-- What `gradFromChild` can change. -/
theorem gradFromChild_kept (c : ImageCfg) (k slot ch : Nat) (xs : List F32) (s : State) (g1 : Group.cb ∈ G) (g2 : Group.pipe ∈ G) (g3 : Group.reach ∈ G) (hk : Kept G w0 s) :
    Kept G w0 (gradFromChild c k slot ch xs s) := by
  unfold gradFromChild
  try dsimp only
  repeat' first
    | with_reducible assumption
    | with_reducible apply settleStages_kept
    | with_reducible apply gradientArrives_kept
    | with_reducible apply heard_kept
    | with_reducible refine kept_ite (fun _ => ?_) (fun _ => ?_)
    | split
    | (intro _ _)

/-- What `vectorArrives` can change. -/
theorem vectorArrives_kept (k slot pass : Nat) (v : VectorRec) (s : State) (g1 : Group.cb ∈ G) (g2 : Group.pipe ∈ G) (g3 : Group.reach ∈ G) (hk : Kept G w0 s) :
    Kept G w0 (vectorArrives k slot pass v s) := by
  unfold vectorArrives
  try dsimp only
  repeat' first
    | with_reducible assumption
    | with_reducible apply partArrives_kept
    | with_reducible apply gradFromChild_kept
    | with_reducible refine kept_ite (fun _ => ?_) (fun _ => ?_)
    | split
    | (intro _ _)

/-- What `rejectArrives` can change. -/
theorem rejectArrives_kept (k slot reason : Nat) (s : State) (g1 : Group.ports ∈ G) (g2 : Group.pipe ∈ G) (g3 : Group.events ∈ G) (g4 : Group.reach ∈ G) (hk : Kept G w0 s) :
    Kept G w0 (rejectArrives k slot reason s) := by
  unfold rejectArrives
  try dsimp only
  repeat' first
    | with_reducible assumption
    | with_reducible apply raise_kept
    | with_reducible apply toParent_kept
    | with_reducible apply updSheet_kept
    | with_reducible apply settleFetch_kept
    | with_reducible apply settleStages_kept
    | with_reducible apply updSlotAt_kept
    | with_reducible apply issueWaiting_kept
    | with_reducible apply heard_kept
    | with_reducible refine kept_ite (fun _ => ?_) (fun _ => ?_)
    | split
    | (intro _ _)

/-- What `oscTick` can change. -/
theorem oscTick_kept (s : State) (g1 : Group.tide ∈ G) (g2 : Group.cb ∈ G) (hk : Kept G w0 s) :
    Kept G w0 (oscTick s) := by
  unfold oscTick
  try dsimp only
  repeat' first
    | with_reducible assumption
    | with_reducible apply updTide_kept
    | with_reducible apply stallTick_kept
    | with_reducible refine kept_ite (fun _ => ?_) (fun _ => ?_)
    | split
    | (intro _ _)

/-- What `tideLost` can change. -/
theorem tideLost_kept (s : State) (g1 : Group.tide ∈ G) (g2 : Group.bb ∈ G) (g3 : Group.events ∈ G) (hk : Kept G w0 s) :
    Kept G w0 (tideLost s) := by
  unfold tideLost
  try dsimp only
  repeat' first
    | with_reducible assumption
    | with_reducible apply updTide_kept
    | with_reducible apply raise_kept
    | with_reducible apply bbRecord_kept
    | with_reducible refine kept_ite (fun _ => ?_) (fun _ => ?_)
    | split
    | (intro _ _)

/-- What `exchange` can change. -/
theorem exchange_kept (l : Nat) (s : State) (g1 : Group.tide ∈ G) (g2 : Group.reach ∈ G) (hk : Kept G w0 s) :
    Kept G w0 (exchange l s) := by
  unfold exchange
  try dsimp only
  repeat' first
    | with_reducible assumption
    | with_reducible apply updTide_kept
    | with_reducible apply sendUp_kept
    | with_reducible refine kept_ite (fun _ => ?_) (fun _ => ?_)
    | split
    | (intro _ _)

/-- What `answerReq` can change. -/
theorem answerReq_kept (l t1 frac : Nat) (s : State) (g1 : Group.reach ∈ G) (hk : Kept G w0 s) :
    Kept G w0 (answerReq l t1 frac s) := by
  unfold answerReq
  try dsimp only
  repeat' first
    | with_reducible assumption
    | with_reducible apply sendUp_kept
    | with_reducible refine kept_ite (fun _ => ?_) (fun _ => ?_)
    | split
    | (intro _ _)

/-- What `tideStep` can change. -/
theorem tideStep_kept (th : Int) (s : State) (g1 : Group.tide ∈ G) (g2 : Group.bb ∈ G) (g3 : Group.events ∈ G) (hk : Kept G w0 s) :
    Kept G w0 (tideStep th s) := by
  unfold tideStep
  try dsimp only
  repeat' first
    | with_reducible assumption
    | with_reducible apply updTide_kept
    | with_reducible apply raise_kept
    | with_reducible apply bbRecord_kept
    | with_reducible refine kept_ite (fun _ => ?_) (fun _ => ?_)
    | split
    | (intro _ _)

/-- What `correct` can change. -/
theorem correct_kept (th : Int) (s : State) (g1 : Group.tide ∈ G) (g2 : Group.bb ∈ G) (g3 : Group.events ∈ G) (hk : Kept G w0 s) :
    Kept G w0 (correct th s) := by
  unfold correct
  try dsimp only
  repeat' first
    | with_reducible assumption
    | with_reducible apply updTide_kept
    | with_reducible apply tideStep_kept
    | with_reducible refine kept_ite (fun _ => ?_) (fun _ => ?_)
    | split
    | (intro _ _)

/-- What `applyTheta` can change. -/
theorem applyTheta_kept (th : Int) (s : State) (g1 : Group.tide ∈ G) (g2 : Group.bb ∈ G) (g3 : Group.events ∈ G) (hk : Kept G w0 s) :
    Kept G w0 (applyTheta th s) := by
  unfold applyTheta
  try dsimp only
  repeat' first
    | with_reducible assumption
    | with_reducible apply updTide_kept
    | with_reducible apply correct_kept
    | with_reducible refine kept_ite (fun _ => ?_) (fun _ => ?_)
    | split
    | (intro _ _)

/-- What `rspArrives` can change. -/
theorem rspArrives_kept (l t1 t2 t3 frac : Nat) (s : State) (g1 : Group.tide ∈ G) (g2 : Group.bb ∈ G) (g3 : Group.events ∈ G) (hk : Kept G w0 s) :
    Kept G w0 (rspArrives l t1 t2 t3 frac s) := by
  unfold rspArrives
  try dsimp only
  repeat' first
    | with_reducible assumption
    | with_reducible apply applyTheta_kept
    | with_reducible refine kept_ite (fun _ => ?_) (fun _ => ?_)
    | split
    | (intro _ _)

/-- What `openGate` can change. -/
theorem openGate_kept (s : State) (g1 : Group.tide ∈ G) (g2 : Group.events ∈ G) (hk : Kept G w0 s) :
    Kept G w0 (openGate s) := by
  unfold openGate
  try dsimp only
  repeat' first
    | with_reducible assumption
    | with_reducible apply updTide_kept
    | with_reducible apply raise_kept
    | with_reducible refine kept_ite (fun _ => ?_) (fun _ => ?_)
    | split
    | (intro _ _)

/-- What `writeGateCtl` can change. -/
theorem writeGateCtl_kept (value : Word) (s : State) (g1 : Group.tide ∈ G) (g2 : Group.events ∈ G) (hk : Kept G w0 s) :
    Kept G w0 (writeGateCtl value s) := by
  unfold writeGateCtl
  try dsimp only
  repeat' first
    | with_reducible assumption
    | with_reducible apply updTide_kept
    | with_reducible apply openGate_kept
    | with_reducible refine kept_ite (fun _ => ?_) (fun _ => ?_)
    | split
    | (intro _ _)

end Sys2Proof.Laws
end

