-- ==== Sys2Proof/Laws/KeptImages.lean ====
section
/-!
SUPPORT. What the operations of images, power and register writes can change: one `Kept` lemma per operation.
-/

set_option Elab.async false

namespace Sys2Proof.Laws

open Sys2Proof.Machine Sys2Proof.Safety

variable {G : List Group} {w0 : State}

/-- What `endFlip` can change. -/
theorem endFlip_kept (s : State) (g1 : Group.ports ∈ G) (g2 : Group.weights ∈ G) (hk : Kept G w0 s) :
    Kept G w0 (endFlip s) := by
  unfold endFlip
  try dsimp only
  repeat' first
    | with_reducible assumption
    | with_reducible apply updWeights_kept
    | with_reducible apply endArm_kept
    | with_reducible refine kept_ite (fun _ => ?_) (fun _ => ?_)
    | split
    | (intro _ _)

/-- What `endAtGo` can change. -/
theorem endAtGo_kept (s : State) (g1 : Group.ports ∈ G) (g2 : Group.masks ∈ G) (g3 : Group.fn ∈ G) (g4 : Group.weights ∈ G) (g5 : Group.adapters ∈ G) (g6 : Group.events ∈ G) (g7 : Group.reach ∈ G) (hk : Kept G w0 s) :
    Kept G w0 (endAtGo s) := by
  unfold endAtGo
  try dsimp only
  repeat' first
    | with_reducible assumption
    | with_reducible apply endPatches_kept
    | with_reducible apply endLoads_kept
    | with_reducible apply endTableLoads_kept
    | with_reducible apply endFlip_kept
    | with_reducible refine kept_ite (fun _ => ?_) (fun _ => ?_)
    | split
    | (intro _ _)

/-- What `imgGo` can change. -/
theorem imgGo_kept (s : State) (g1 : Group.ports ∈ G) (g2 : Group.masks ∈ G) (g3 : Group.fn ∈ G) (g4 : Group.weights ∈ G) (g5 : Group.adapters ∈ G) (g6 : Group.image ∈ G) (g7 : Group.events ∈ G) (g8 : Group.reach ∈ G) (hk : Kept G w0 s) :
    Kept G w0 (imgGo s) := by
  unfold imgGo
  try dsimp only
  repeat' first
    | with_reducible assumption
    | with_reducible apply updImage_kept
    | with_reducible apply regrant_kept
    | with_reducible apply endAtGo_kept
    | with_reducible refine kept_ite (fun _ => ?_) (fun _ => ?_)
    | split
    | (intro _ _)

/-- What `writeImgLoad` can change. -/
theorem writeImgLoad_kept (value : Word) (s : State) (g1 : Group.ports ∈ G) (g2 : Group.masks ∈ G) (g3 : Group.fn ∈ G) (g4 : Group.weights ∈ G) (g5 : Group.adapters ∈ G) (g6 : Group.image ∈ G) (g7 : Group.events ∈ G) (g8 : Group.reach ∈ G) (hk : Kept G w0 s) :
    Kept G w0 (writeImgLoad value s) := by
  unfold writeImgLoad
  try dsimp only
  repeat' first
    | with_reducible assumption
    | with_reducible apply imgGo_kept
    | with_reducible refine kept_ite (fun _ => ?_) (fun _ => ?_)
    | split
    | (intro _ _)

/-- What `tideUnlocked` can change. -/
theorem tideUnlocked_kept (s : State) (g1 : Group.power ∈ G) (g2 : Group.tide ∈ G) (g3 : Group.brine ∈ G) (g4 : Group.fabric ∈ G) (hk : Kept G w0 s) :
    Kept G w0 (tideUnlocked s) := by
  unfold tideUnlocked
  try dsimp only
  repeat' first
    | with_reducible assumption
    | with_reducible apply updPower_kept
    | with_reducible apply updTide_kept
    | with_reducible apply updBrine_kept
    | with_reducible apply updFabric_kept
    | with_reducible refine kept_ite (fun _ => ?_) (fun _ => ?_)
    | split
    | exact Nat.le_refl _
    | exact fun hb => hb
    | exact fun _ => rfl
    | exact fun hb => spWf_spWrite 0 _ _ _ hb
    | exact fun hb => spWf_spClear 0 _ _ _ hb
    | exact fun hb => spWf_spOverlay 0 _ _ _ (spWf_spClear 0 _ _ _ hb)
    | (intro _ _)

/-- What `bedsIntact` can change. -/
theorem bedsIntact_kept (s : State) (g1 : Group.fabric ∈ G) (g2 : Group.bb ∈ G) (g3 : Group.events ∈ G) (hk : Kept G w0 s) :
    Kept G w0 (bedsIntact s) := by
  unfold bedsIntact
  try dsimp only
  repeat' first
    | with_reducible assumption
    | with_reducible apply changeBed_kept
    | with_reducible refine kept_foldl (fun _ _ _ => ?_) ?_
    | with_reducible refine kept_ite (fun _ => ?_) (fun _ => ?_)
    | split
    | (intro _ _)

/-- What `cellsFree` can change. -/
theorem cellsFree_kept (s : State) (g1 : Group.fabric ∈ G) (hk : Kept G w0 s) :
    Kept G w0 (cellsFree s) := by
  unfold cellsFree
  try dsimp only
  repeat' first
    | with_reducible assumption
    | with_reducible apply setCell_kept
    | with_reducible refine kept_foldl (fun _ _ _ => ?_) ?_
    | with_reducible refine kept_ite (fun _ => ?_) (fun _ => ?_)
    | split
    | (intro _ _)

/-- What `storesCleared` can change. -/
theorem storesCleared_kept (s : State) (g1 : Group.ports ∈ G) (g2 : Group.pipe ∈ G) (g3 : Group.masks ∈ G) (g4 : Group.fn ∈ G) (g5 : Group.brine ∈ G) (g6 : Group.weights ∈ G) (g7 : Group.adapters ∈ G) (hk : Kept G w0 s) :
    Kept G w0 (storesCleared s) := by
  unfold storesCleared
  try dsimp only
  repeat' first
    | with_reducible assumption
    | with_reducible apply updPorts_kept
    | with_reducible apply updPipe_kept
    | with_reducible apply updMasks_kept
    | with_reducible apply updFn_kept
    | with_reducible apply updBrine_kept
    | with_reducible apply updWeights_kept
    | with_reducible apply updAdapters_kept
    | with_reducible refine kept_ite (fun _ => ?_) (fun _ => ?_)
    | split
    | exact fun hb => hb
    | exact fun _ => rfl
    | exact fun hb => spWf_spWrite 0 _ _ _ hb
    | exact fun hb => spWf_spClear 0 _ _ _ hb
    | exact fun hb => spWf_spOverlay 0 _ _ _ (spWf_spClear 0 _ _ _ hb)
    | (intro _ _)

/-- What `resetForImage` can change. -/
theorem resetForImage_kept (s : State) (g1 : Group.power ∈ G) (g2 : Group.tide ∈ G) (g3 : Group.ports ∈ G) (g4 : Group.pipe ∈ G) (g5 : Group.masks ∈ G) (g6 : Group.fn ∈ G) (g7 : Group.brine ∈ G) (g8 : Group.weights ∈ G) (g9 : Group.adapters ∈ G) (g10 : Group.image ∈ G) (g11 : Group.fabric ∈ G) (g12 : Group.bb ∈ G) (g13 : Group.events ∈ G) (g14 : Group.reach ∈ G) (hk : Kept G w0 s) :
    Kept G w0 (resetForImage s) := by
  unfold resetForImage
  try dsimp only
  repeat' first
    | with_reducible assumption
    | with_reducible apply updImage_kept
    | with_reducible apply updFabric_kept
    | with_reducible apply updReach_kept
    | with_reducible apply pushMirror_kept
    | with_reducible apply issueRead_kept
    | with_reducible apply setFlipSeq_kept
    | with_reducible apply endTableLoads_kept
    | with_reducible apply dropMemberSheets_kept
    | with_reducible apply openGate_kept
    | with_reducible apply tideUnlocked_kept
    | with_reducible apply bedsIntact_kept
    | with_reducible apply cellsFree_kept
    | with_reducible apply storesCleared_kept
    | with_reducible refine kept_ite (fun _ => ?_) (fun _ => ?_)
    | split
    | (intro _ _)

/-- What `headTestFails` can change. -/
theorem headTestFails_kept (s : State) (g1 : Group.power ∈ G) (g2 : Group.tide ∈ G) (g3 : Group.cb ∈ G) (g4 : Group.ports ∈ G) (g5 : Group.pipe ∈ G) (g6 : Group.masks ∈ G) (g7 : Group.fn ∈ G) (g8 : Group.weights ∈ G) (g9 : Group.adapters ∈ G) (g10 : Group.image ∈ G) (g11 : Group.fabric ∈ G) (g12 : Group.bb ∈ G) (g13 : Group.events ∈ G) (g14 : Group.reach ∈ G) (hk : Kept G w0 s) :
    Kept G w0 (headTestFails s) := by
  unfold headTestFails
  try dsimp only
  repeat' first
    | with_reducible assumption
    | with_reducible apply updPower_kept
    | with_reducible apply pushMirror_kept
    | with_reducible apply refuseImage_kept
    | with_reducible refine kept_ite (fun _ => ?_) (fun _ => ?_)
    | split
    | exact Nat.le_refl _
    | (intro _ _)

/-- What `refuseOn` can change. -/
theorem refuseOn_kept (f : Nat × Nat) (s : State) (g1 : Group.tide ∈ G) (g2 : Group.cb ∈ G) (g3 : Group.ports ∈ G) (g4 : Group.pipe ∈ G) (g5 : Group.masks ∈ G) (g6 : Group.fn ∈ G) (g7 : Group.weights ∈ G) (g8 : Group.adapters ∈ G) (g9 : Group.image ∈ G) (g10 : Group.fabric ∈ G) (g11 : Group.bb ∈ G) (g12 : Group.events ∈ G) (g13 : Group.reach ∈ G) (hk : Kept G w0 s) :
    Kept G w0 (refuseOn f s) := by
  unfold refuseOn
  try dsimp only
  repeat' first
    | with_reducible assumption
    | with_reducible apply pushMirror_kept
    | with_reducible apply refuseImage_kept
    | with_reducible refine kept_ite (fun _ => ?_) (fun _ => ?_)
    | split
    | (intro _ _)

/-- What `imageWhole` can change. -/
theorem imageWhole_kept (d : List Byte) (s : State) (g1 : Group.tide ∈ G) (g2 : Group.cb ∈ G) (g3 : Group.ports ∈ G) (g4 : Group.pipe ∈ G) (g5 : Group.masks ∈ G) (g6 : Group.fn ∈ G) (g7 : Group.weights ∈ G) (g8 : Group.adapters ∈ G) (g9 : Group.image ∈ G) (g10 : Group.fabric ∈ G) (g11 : Group.bb ∈ G) (g12 : Group.events ∈ G) (g13 : Group.reach ∈ G) (hk : Kept G w0 s) :
    Kept G w0 (imageWhole d s) := by
  unfold imageWhole
  try dsimp only
  repeat' first
    | with_reducible assumption
    | with_reducible apply updImage_kept
    | with_reducible apply dropRead_kept
    | with_reducible apply refuseOn_kept
    | with_reducible refine kept_ite (fun _ => ?_) (fun _ => ?_)
    | split
    | (intro _ _)

/-- What `writeBanks` can change. -/
theorem writeBanks_kept (c : ImageCfg) (got units : List Byte) (s : State) (p : Nat) (g1 : Group.brine ∈ G) (hk : Kept G w0 s) :
    Kept G w0 (writeBanks c got units s p) := by
  unfold writeBanks
  try dsimp only
  repeat' first
    | with_reducible assumption
    | with_reducible apply brineWrite_kept
    | with_reducible refine kept_ite (fun _ => ?_) (fun _ => ?_)
    | split
    | (intro _ _)

/-- What `writeLeaf` can change. -/
theorem writeLeaf_kept (a : Array Byte) (c : ImageCfg) (n avail : Nat) (s : State) (l : Nat) (g1 : Group.brine ∈ G) (hk : Kept G w0 s) :
    Kept G w0 (writeLeaf a c n avail s l) := by
  unfold writeLeaf
  try dsimp only
  repeat' first
    | with_reducible assumption
    | with_reducible apply writeBanks_kept
    | with_reducible refine kept_foldl (fun _ _ _ => ?_) ?_
    | with_reducible refine kept_ite (fun _ => ?_) (fun _ => ?_)
    | split
    | (intro _ _)

/-- What `storeArrived` can change. -/
theorem storeArrived_kept (a : Array Byte) (avail : Nat) (s : State) (g1 : Group.brine ∈ G) (hk : Kept G w0 s) :
    Kept G w0 (storeArrived a avail s) := by
  unfold storeArrived
  try dsimp only
  repeat' first
    | with_reducible assumption
    | with_reducible apply writeLeaf_kept
    | with_reducible refine kept_foldl (fun _ _ _ => ?_) ?_
    | with_reducible refine kept_ite (fun _ => ?_) (fun _ => ?_)
    | split
    | (intro _ _)

/-- What `imageData` can change. -/
theorem imageData_kept (data : List Byte) (s : State) (g1 : Group.tide ∈ G) (g2 : Group.cb ∈ G) (g3 : Group.ports ∈ G) (g4 : Group.pipe ∈ G) (g5 : Group.masks ∈ G) (g6 : Group.fn ∈ G) (g7 : Group.brine ∈ G) (g8 : Group.weights ∈ G) (g9 : Group.adapters ∈ G) (g10 : Group.image ∈ G) (g11 : Group.fabric ∈ G) (g12 : Group.bb ∈ G) (g13 : Group.events ∈ G) (g14 : Group.reach ∈ G) (hk : Kept G w0 s) :
    Kept G w0 (imageData data s) := by
  unfold imageData
  try dsimp only
  repeat' first
    | with_reducible assumption
    | with_reducible apply updPorts_kept
    | with_reducible apply updImage_kept
    | with_reducible apply refuseOn_kept
    | with_reducible apply imageWhole_kept
    | with_reducible apply storeArrived_kept
    | with_reducible refine kept_ite (fun _ => ?_) (fun _ => ?_)
    | split
    | (intro _ _)

/-- What `imageReadFails` can change. -/
theorem imageReadFails_kept (s : State) (g1 : Group.tide ∈ G) (g2 : Group.cb ∈ G) (g3 : Group.ports ∈ G) (g4 : Group.pipe ∈ G) (g5 : Group.masks ∈ G) (g6 : Group.fn ∈ G) (g7 : Group.weights ∈ G) (g8 : Group.adapters ∈ G) (g9 : Group.image ∈ G) (g10 : Group.fabric ∈ G) (g11 : Group.bb ∈ G) (g12 : Group.events ∈ G) (g13 : Group.reach ∈ G) (hk : Kept G w0 s) :
    Kept G w0 (imageReadFails s) := by
  unfold imageReadFails
  try dsimp only
  repeat' first
    | with_reducible assumption
    | with_reducible apply refuseOn_kept
    | with_reducible refine kept_ite (fun _ => ?_) (fun _ => ?_)
    | split
    | (intro _ _)

/-- What `groupArrives` can change. -/
theorem groupArrives_kept (c : ImageCfg) (l ch : Nat) (data : List Byte) (s : State) (g1 : Group.ca ∈ G) (g2 : Group.ports ∈ G) (g3 : Group.pipe ∈ G) (hk : Kept G w0 s) :
    Kept G w0 (groupArrives c l ch data s) := by
  unfold groupArrives
  try dsimp only
  repeat' first
    | with_reducible assumption
    | with_reducible apply updCa_kept
    | with_reducible apply issueRead_kept
    | with_reducible apply dropRead_kept
    | with_reducible apply updSheet_kept
    | with_reducible apply settleFetch_kept
    | with_reducible apply failOverflow_kept
    | with_reducible refine kept_ite (fun _ => ?_) (fun _ => ?_)
    | split
    | (intro _ _)

/-- What `groupFails` can change. -/
theorem groupFails_kept (l ch : Nat) (s : State) (g1 : Group.ca ∈ G) (g2 : Group.ports ∈ G) (g3 : Group.pipe ∈ G) (hk : Kept G w0 s) :
    Kept G w0 (groupFails l ch s) := by
  unfold groupFails
  try dsimp only
  repeat' first
    | with_reducible assumption
    | with_reducible apply dropRead_kept
    | with_reducible apply failOverflow_kept
    | with_reducible refine kept_ite (fun _ => ?_) (fun _ => ?_)
    | split
    | (intro _ _)

/-- What `renewRead` can change. -/
theorem renewRead_kept (old : ReadReq) (s : State) (g1 : Group.ports ∈ G) (hk : Kept G w0 s) :
    Kept G w0 (renewRead old s) := by
  unfold renewRead
  try dsimp only
  repeat' first
    | with_reducible assumption
    | with_reducible apply updPorts_kept
    | with_reducible refine kept_ite (fun _ => ?_) (fun _ => ?_)
    | split
    | (intro _ _)

/-- What `rereadWindow` can change. -/
theorem rereadWindow_kept (k : ReadKind) (r : ReadReq) (s : State) (g1 : Group.ports ∈ G) (hk : Kept G w0 s) :
    Kept G w0 (rereadWindow k r s) := by
  unfold rereadWindow
  try dsimp only
  repeat' first
    | with_reducible assumption
    | with_reducible apply issueReadBack_kept
    | with_reducible apply dropRead_kept
    | with_reducible refine kept_ite (fun _ => ?_) (fun _ => ?_)
    | split
    | (intro _ _)

/-- What `responseIn` can change. -/
theorem responseIn_kept (c : Option ImageCfg) (k : ReadKind) (r : ReadReq) (data : List Byte) (s : State) (g1 : Group.tide ∈ G) (g2 : Group.ca ∈ G) (g3 : Group.cb ∈ G) (g4 : Group.ports ∈ G) (g5 : Group.pipe ∈ G) (g6 : Group.masks ∈ G) (g7 : Group.fn ∈ G) (g8 : Group.brine ∈ G) (g9 : Group.weights ∈ G) (g10 : Group.adapters ∈ G) (g11 : Group.image ∈ G) (g12 : Group.fabric ∈ G) (g13 : Group.bb ∈ G) (g14 : Group.events ∈ G) (g15 : Group.reach ∈ G) (hk : Kept G w0 s) :
    Kept G w0 (responseIn c k r data s) := by
  unfold responseIn
  try dsimp only
  repeat' first
    | with_reducible assumption
    | with_reducible apply regrant_kept
    | with_reducible apply dropRead_kept
    | with_reducible apply windowIn_kept
    | with_reducible apply windowPatched_kept
    | with_reducible apply windowReplayed_kept
    | with_reducible apply adapterData_kept
    | with_reducible apply maskData_kept
    | with_reducible apply fnData_kept
    | with_reducible apply imageData_kept
    | with_reducible apply groupArrives_kept
    | with_reducible apply renewRead_kept
    | with_reducible apply rereadWindow_kept
    | with_reducible refine kept_ite (fun _ => ?_) (fun _ => ?_)
    | split
    | (intro _ _)

/-- What `readError` can change. -/
theorem readError_kept (c : Option ImageCfg) (k : ReadKind) (r : ReadReq) (s : State) (g1 : Group.tide ∈ G) (g2 : Group.ca ∈ G) (g3 : Group.cb ∈ G) (g4 : Group.ports ∈ G) (g5 : Group.pipe ∈ G) (g6 : Group.masks ∈ G) (g7 : Group.fn ∈ G) (g8 : Group.weights ∈ G) (g9 : Group.adapters ∈ G) (g10 : Group.image ∈ G) (g11 : Group.fabric ∈ G) (g12 : Group.bb ∈ G) (g13 : Group.events ∈ G) (g14 : Group.reach ∈ G) (hk : Kept G w0 s) :
    Kept G w0 (readError c k r s) := by
  unfold readError
  try dsimp only
  repeat' first
    | with_reducible assumption
    | with_reducible apply dropRead_kept
    | with_reducible apply windowIn_kept
    | with_reducible apply endLoad_kept
    | with_reducible apply endMaskLoad_kept
    | with_reducible apply failFn_kept
    | with_reducible apply imageReadFails_kept
    | with_reducible apply groupFails_kept
    | with_reducible apply rereadWindow_kept
    | with_reducible refine kept_ite (fun _ => ?_) (fun _ => ?_)
    | split
    | (intro _ _)

/-- What `beginParity` can change. -/
theorem beginParity_kept (s : State) (b : Nat) (g1 : Group.fabric ∈ G) (g2 : Group.bb ∈ G) (g3 : Group.events ∈ G) (hk : Kept G w0 s) :
    Kept G w0 (beginParity s b) := by
  unfold beginParity
  try dsimp only
  repeat' first
    | with_reducible assumption
    | with_reducible apply changeBed_kept
    | with_reducible refine kept_ite (fun _ => ?_) (fun _ => ?_)
    | split
    | (intro _ _)

/-- What `passVerdict` can change. -/
theorem passVerdict_kept (c : ImageCfg) (s : State) (g1 : Group.brine ∈ G) (g2 : Group.image ∈ G) (g3 : Group.fabric ∈ G) (g4 : Group.bb ∈ G) (g5 : Group.events ∈ G) (hk : Kept G w0 s) :
    Kept G w0 (passVerdict c s) := by
  unfold passVerdict
  try dsimp only
  repeat' first
    | with_reducible assumption
    | with_reducible apply updImage_kept
    | with_reducible apply pushMirror_kept
    | with_reducible apply writeLeaf_kept
    | with_reducible apply beginParity_kept
    | with_reducible refine kept_foldl (fun _ _ _ => ?_) ?_
    | with_reducible refine kept_ite (fun _ => ?_) (fun _ => ?_)
    | split
    | (intro _ _)

/-- What `authFails` can change. -/
theorem authFails_kept (s : State) (g1 : Group.tide ∈ G) (g2 : Group.cb ∈ G) (g3 : Group.ports ∈ G) (g4 : Group.pipe ∈ G) (g5 : Group.masks ∈ G) (g6 : Group.fn ∈ G) (g7 : Group.weights ∈ G) (g8 : Group.adapters ∈ G) (g9 : Group.image ∈ G) (g10 : Group.fabric ∈ G) (g11 : Group.bb ∈ G) (g12 : Group.events ∈ G) (g13 : Group.reach ∈ G) (hk : Kept G w0 s) :
    Kept G w0 (authFails s) := by
  unfold authFails
  try dsimp only
  repeat' first
    | with_reducible assumption
    | with_reducible apply refuseOn_kept
    | with_reducible refine kept_ite (fun _ => ?_) (fun _ => ?_)
    | split
    | (intro _ _)

/-- What `drainBb` can change. -/
theorem drainBb_kept (s : State) (g1 : Group.bb ∈ G) (hk : Kept G w0 s) :
    Kept G w0 (drainBb s) := by
  unfold drainBb
  try dsimp only
  repeat' first
    | with_reducible assumption
    | with_reducible apply updBb_kept
    | with_reducible refine kept_ite (fun _ => ?_) (fun _ => ?_)
    | split
    | (intro _ _)

/-- What `bedRestored` can change. -/
theorem bedRestored_kept (b : Nat) (s : State) (g1 : Group.fabric ∈ G) (g2 : Group.bb ∈ G) (g3 : Group.events ∈ G) (hk : Kept G w0 s) :
    Kept G w0 (bedRestored b s) := by
  unfold bedRestored
  try dsimp only
  repeat' first
    | with_reducible assumption
    | with_reducible apply changeBed_kept
    | with_reducible refine kept_ite (fun _ => ?_) (fun _ => ?_)
    | split
    | (intro _ _)

/-- What `panRestored` can change. -/
theorem panRestored_kept (c : ImageCfg) (p : Nat) (s : State) (g1 : Group.brine ∈ G) (g2 : Group.fabric ∈ G) (g3 : Group.bb ∈ G) (g4 : Group.events ∈ G) (hk : Kept G w0 s) :
    Kept G w0 (panRestored c p s) := by
  unfold panRestored
  try dsimp only
  repeat' first
    | with_reducible assumption
    | with_reducible apply updFabric_kept
    | with_reducible apply setBed_kept
    | with_reducible apply noteRead_kept
    | with_reducible apply copyRegion_kept
    | with_reducible apply writeLeaf_kept
    | with_reducible apply bedRestored_kept
    | with_reducible refine kept_ite (fun _ => ?_) (fun _ => ?_)
    | split
    | (intro _ _)

/-- What `imagePass` can change. -/
theorem imagePass_kept (c : ImageCfg) (u : UnitId) (s : State) (g1 : Group.brine ∈ G) (g2 : Group.fabric ∈ G) (g3 : Group.bb ∈ G) (g4 : Group.events ∈ G) (hk : Kept G w0 s) :
    Kept G w0 (imagePass c u s) := by
  unfold imagePass
  try dsimp only
  repeat' first
    | with_reducible assumption
    | with_reducible apply setPan_kept
    | with_reducible apply setCell_kept
    | with_reducible apply unitRecord_kept
    | with_reducible apply panRestored_kept
    | with_reducible refine kept_ite (fun _ => ?_) (fun _ => ?_)
    | split
    | (intro _ _)

/-- What `imageBedFails` can change. -/
theorem imageBedFails_kept (p : Nat) (s : State) (g1 : Group.ports ∈ G) (g2 : Group.pipe ∈ G) (g3 : Group.brine ∈ G) (g4 : Group.fabric ∈ G) (g5 : Group.bb ∈ G) (g6 : Group.events ∈ G) (hk : Kept G w0 s) :
    Kept G w0 (imageBedFails p s) := by
  unfold imageBedFails
  try dsimp only
  repeat' first
    | with_reducible assumption
    | with_reducible apply changeBed_kept
    | with_reducible apply unplaceAll_kept
    | with_reducible apply copyRegion_kept
    | with_reducible refine kept_ite (fun _ => ?_) (fun _ => ?_)
    | split
    | (intro _ _)

/-- What `imageFail` can change. -/
theorem imageFail_kept (u : UnitId) (phase : Nat) (s : State) (g1 : Group.ports ∈ G) (g2 : Group.pipe ∈ G) (g3 : Group.brine ∈ G) (g4 : Group.fabric ∈ G) (g5 : Group.bb ∈ G) (g6 : Group.events ∈ G) (hk : Kept G w0 s) :
    Kept G w0 (imageFail u phase s) := by
  unfold imageFail
  try dsimp only
  repeat' first
    | with_reducible assumption
    | with_reducible apply setPan_kept
    | with_reducible apply setCell_kept
    | with_reducible apply unitRecord_kept
    | with_reducible apply imageBedFails_kept
    | with_reducible refine kept_ite (fun _ => ?_) (fun _ => ?_)
    | split
    | (intro _ _)

/-- What `imageProbe` can change. -/
theorem imageProbe_kept (c : ImageCfg) (failing : List (UnitId × Nat)) (s : State) (u : UnitId) (g1 : Group.ports ∈ G) (g2 : Group.pipe ∈ G) (g3 : Group.brine ∈ G) (g4 : Group.fabric ∈ G) (g5 : Group.bb ∈ G) (g6 : Group.events ∈ G) (hk : Kept G w0 s) :
    Kept G w0 (imageProbe c failing s u) := by
  unfold imageProbe
  try dsimp only
  repeat' first
    | with_reducible assumption
    | with_reducible apply updFabric_kept
    | with_reducible apply unitRecord_kept
    | with_reducible apply drainBb_kept
    | with_reducible apply imagePass_kept
    | with_reducible apply imageFail_kept
    | with_reducible refine kept_ite (fun _ => ?_) (fun _ => ?_)
    | split
    | (intro _ _)

/-- What `endParity` can change. -/
theorem endParity_kept (s : State) (b : Nat) (g1 : Group.brine ∈ G) (g2 : Group.fabric ∈ G) (g3 : Group.bb ∈ G) (g4 : Group.events ∈ G) (hk : Kept G w0 s) :
    Kept G w0 (endParity s b) := by
  unfold endParity
  try dsimp only
  repeat' first
    | with_reducible assumption
    | with_reducible apply changeBed_kept
    | with_reducible apply formParity_kept
    | with_reducible refine kept_ite (fun _ => ?_) (fun _ => ?_)
    | split
    | (intro _ _)

/-- What `placeNode` can change. -/
theorem placeNode_kept (fs : List Nat) (s : State) (n : Nat) (g1 : Group.image ∈ G) (g2 : Group.fabric ∈ G) (g3 : Group.bb ∈ G) (g4 : Group.events ∈ G) (hk : Kept G w0 s) :
    Kept G w0 (placeNode fs s n) := by
  unfold placeNode
  try dsimp only
  repeat' first
    | with_reducible assumption
    | with_reducible apply updFabric_kept
    | with_reducible apply bbRecord_kept
    | with_reducible apply assignCell_kept
    | with_reducible refine kept_foldl (fun _ _ _ => ?_) ?_
    | with_reducible refine kept_ite (fun _ => ?_) (fun _ => ?_)
    | split
    | (intro _ _)

/-- What `placeNodes` can change. -/
theorem placeNodes_kept (fs : List Nat) (s : State) (g1 : Group.image ∈ G) (g2 : Group.fabric ∈ G) (g3 : Group.bb ∈ G) (g4 : Group.events ∈ G) (hk : Kept G w0 s) :
    Kept G w0 (placeNodes fs s) := by
  unfold placeNodes
  try dsimp only
  repeat' first
    | with_reducible assumption
    | with_reducible apply placeNode_kept
    | with_reducible refine kept_foldl (fun _ _ _ => ?_) ?_
    | with_reducible refine kept_ite (fun _ => ?_) (fun _ => ?_)
    | split
    | (intro _ _)

/-- What `tideRole` can change. -/
theorem tideRole_kept (follower : Bool) (s : State) (g1 : Group.power ∈ G) (g2 : Group.tide ∈ G) (g3 : Group.brine ∈ G) (g4 : Group.fabric ∈ G) (hk : Kept G w0 s) :
    Kept G w0 (tideRole follower s) := by
  unfold tideRole
  try dsimp only
  repeat' first
    | with_reducible assumption
    | with_reducible apply updTide_kept
    | with_reducible apply tideUnlocked_kept
    | with_reducible refine kept_ite (fun _ => ?_) (fun _ => ?_)
    | split
    | (intro _ _)

/-- What `takeSettings` can change. -/
theorem takeSettings_kept (c : ImageCfg) (s : State) (g1 : Group.ports ∈ G) (g2 : Group.fn ∈ G) (g3 : Group.weights ∈ G) (g4 : Group.image ∈ G) (g5 : Group.events ∈ G) (g6 : Group.reach ∈ G) (hk : Kept G w0 s) :
    Kept G w0 (takeSettings c s) := by
  unfold takeSettings
  try dsimp only
  repeat' first
    | with_reducible assumption
    | with_reducible apply updFn_kept
    | with_reducible apply updWeights_kept
    | with_reducible apply updImage_kept
    | with_reducible apply updReach_kept
    | with_reducible apply abandonFn_kept
    | with_reducible refine kept_ite (fun _ => ?_) (fun _ => ?_)
    | split
    | (intro _ _)

/-- What `applyImage` can change. -/
theorem applyImage_kept (failing : List (UnitId × Nat)) (c : ImageCfg) (s : State) (g1 : Group.power ∈ G) (g2 : Group.tide ∈ G) (g3 : Group.cb ∈ G) (g4 : Group.ports ∈ G) (g5 : Group.pipe ∈ G) (g6 : Group.fn ∈ G) (g7 : Group.brine ∈ G) (g8 : Group.weights ∈ G) (g9 : Group.adapters ∈ G) (g10 : Group.image ∈ G) (g11 : Group.fabric ∈ G) (g12 : Group.bb ∈ G) (g13 : Group.events ∈ G) (g14 : Group.reach ∈ G) (hk : Kept G w0 s) :
    Kept G w0 (applyImage failing c s) := by
  unfold applyImage
  try dsimp only
  repeat' first
    | with_reducible assumption
    | with_reducible apply updCb_kept
    | with_reducible apply updImage_kept
    | with_reducible apply bbRecord_kept
    | with_reducible apply pushMirror_kept
    | with_reducible apply regrant_kept
    | with_reducible apply setFlipSeq_kept
    | with_reducible apply setHops_kept
    | with_reducible apply regroup_kept
    | with_reducible apply releaseHeld_kept
    | with_reducible apply setDomPhase_kept
    | with_reducible apply tryJoin_kept
    | with_reducible apply drainBb_kept
    | with_reducible apply imageProbe_kept
    | with_reducible apply endParity_kept
    | with_reducible apply placeNodes_kept
    | with_reducible apply tideRole_kept
    | with_reducible apply takeSettings_kept
    | with_reducible refine kept_foldl (fun _ _ _ => ?_) ?_
    | with_reducible refine kept_ite (fun _ => ?_) (fun _ => ?_)
    | split
    | (intro _ _)

/-- What `paceMeasured` can change. -/
theorem paceMeasured_kept (pace : BitVec 16) (tj : BitVec 8) (s : State) (g1 : Group.power ∈ G) (hk : Kept G w0 s) :
    Kept G w0 (paceMeasured pace tj s) := by
  unfold paceMeasured
  try dsimp only
  repeat' first
    | with_reducible assumption
    | with_reducible apply updPower_kept
    | with_reducible refine kept_ite (fun _ => ?_) (fun _ => ?_)
    | split
    | exact Nat.le_refl _
    | (intro _ _)

/-- What `startRamp` can change. -/
theorem startRamp_kept (o : OpPoint) (s : State) (g1 : Group.power ∈ G) (hk : Kept G w0 s) :
    Kept G w0 (startRamp o s) := by
  unfold startRamp
  try dsimp only
  repeat' first
    | with_reducible assumption
    | with_reducible apply updPower_kept
    | with_reducible refine kept_ite (fun _ => ?_) (fun _ => ?_)
    | split
    | exact Nat.le_refl _
    | (intro _ _)

/-- What `writeOppt` can change. -/
theorem writeOppt_kept (value : Word) (s : State) (g1 : Group.power ∈ G) (hk : Kept G w0 s) :
    Kept G w0 (writeOppt value s) := by
  unfold writeOppt
  try dsimp only
  repeat' first
    | with_reducible assumption
    | with_reducible apply updPower_kept
    | with_reducible apply startRamp_kept
    | with_reducible refine kept_ite (fun _ => ?_) (fun _ => ?_)
    | split
    | exact Nat.le_refl _
    | (intro _ _)

/-- What `rampEnds` can change. -/
theorem rampEnds_kept (o : OpPoint) (s : State) (g1 : Group.power ∈ G) (g2 : Group.bb ∈ G) (g3 : Group.events ∈ G) (hk : Kept G w0 s) :
    Kept G w0 (rampEnds o s) := by
  unfold rampEnds
  try dsimp only
  repeat' first
    | with_reducible assumption
    | with_reducible apply updPower_kept
    | with_reducible apply bbRecord_kept
    | with_reducible apply startRamp_kept
    | with_reducible refine kept_ite (fun _ => ?_) (fun _ => ?_)
    | split
    | exact Nat.le_refl _
    | (intro _ _)

/-- A reset of the logic domain and the memory die. -/
theorem logicReset_kept (s : State) (g1 : Group.power ∈ G) (g2 : Group.tide ∈ G) (g3 : Group.soft ∈ G) (g4 : Group.ca ∈ G) (g5 : Group.cb ∈ G) (g6 : Group.ports ∈ G) (g7 : Group.pipe ∈ G) (g8 : Group.masks ∈ G) (g9 : Group.fn ∈ G) (g10 : Group.brine ∈ G) (g11 : Group.weights ∈ G) (g12 : Group.adapters ∈ G) (g13 : Group.image ∈ G) (g14 : Group.fabric ∈ G) (g15 : Group.reach ∈ G) (h : Kept G w0 s) : Kept G w0 (logicReset s) :=
  (staleMirror_kept s ‹_› h).trans ⟨⟨rfl, rfl, fun g hg => by cases g <;> first | rfl | exact absurd ‹_› hg⟩, Nat.le_refl _, id, fun _ => rfl⟩

/-- What `leaveOn` can change. -/
theorem leaveOn_kept (s : State) (g1 : Group.power ∈ G) (g2 : Group.fabric ∈ G) (g3 : Group.events ∈ G) (hk : Kept G w0 s) :
    Kept G w0 (leaveOn s) := by
  unfold leaveOn
  try dsimp only
  repeat' first
    | with_reducible assumption
    | with_reducible apply updPower_kept
    | with_reducible apply staleMirror_kept
    | with_reducible apply eventsDown_kept
    | with_reducible refine kept_ite (fun _ => ?_) (fun _ => ?_)
    | split
    | exact Nat.le_refl _
    | (intro _ _)

/-- What `enterOff` can change. -/
theorem enterOff_kept (s : State) (g1 : Group.power ∈ G) (g2 : Group.tide ∈ G) (g3 : Group.soft ∈ G) (g4 : Group.ca ∈ G) (g5 : Group.cb ∈ G) (g6 : Group.ports ∈ G) (g7 : Group.pipe ∈ G) (g8 : Group.masks ∈ G) (g9 : Group.fn ∈ G) (g10 : Group.brine ∈ G) (g11 : Group.weights ∈ G) (g12 : Group.adapters ∈ G) (g13 : Group.image ∈ G) (g14 : Group.fabric ∈ G) (g15 : Group.events ∈ G) (g16 : Group.reach ∈ G) (hk : Kept G w0 s) :
    Kept G w0 (enterOff s) := by
  unfold enterOff
  try dsimp only
  repeat' first
    | with_reducible assumption
    | with_reducible apply updPower_kept
    | with_reducible apply logicReset_kept
    | with_reducible apply leaveOn_kept
    | with_reducible refine kept_ite (fun _ => ?_) (fun _ => ?_)
    | split
    | exact Nat.le_refl _
    | (intro _ _)

/-- What `beginState` can change. -/
theorem beginState_kept (t : PowerState) (s : State) (g1 : Group.power ∈ G) (g2 : Group.tide ∈ G) (g3 : Group.soft ∈ G) (g4 : Group.ca ∈ G) (g5 : Group.cb ∈ G) (g6 : Group.ports ∈ G) (g7 : Group.pipe ∈ G) (g8 : Group.masks ∈ G) (g9 : Group.fn ∈ G) (g10 : Group.brine ∈ G) (g11 : Group.weights ∈ G) (g12 : Group.adapters ∈ G) (g13 : Group.image ∈ G) (g14 : Group.fabric ∈ G) (g15 : Group.events ∈ G) (g16 : Group.reach ∈ G) (hk : Kept G w0 s) :
    Kept G w0 (beginState t s) := by
  unfold beginState
  try dsimp only
  repeat' first
    | with_reducible assumption
    | with_reducible apply updPower_kept
    | with_reducible apply withdrawCredits_kept
    | with_reducible apply enterOff_kept
    | with_reducible refine kept_ite (fun _ => ?_) (fun _ => ?_)
    | split
    | exact Nat.le_refl _
    | (intro _ _)

/-- What `nextState` can change. -/
theorem nextState_kept (s : State) (g1 : Group.power ∈ G) (g2 : Group.tide ∈ G) (g3 : Group.soft ∈ G) (g4 : Group.ca ∈ G) (g5 : Group.cb ∈ G) (g6 : Group.ports ∈ G) (g7 : Group.pipe ∈ G) (g8 : Group.masks ∈ G) (g9 : Group.fn ∈ G) (g10 : Group.brine ∈ G) (g11 : Group.weights ∈ G) (g12 : Group.adapters ∈ G) (g13 : Group.image ∈ G) (g14 : Group.fabric ∈ G) (g15 : Group.events ∈ G) (g16 : Group.reach ∈ G) (hk : Kept G w0 s) :
    Kept G w0 (nextState s) := by
  unfold nextState
  try dsimp only
  repeat' first
    | with_reducible assumption
    | with_reducible apply updPower_kept
    | with_reducible apply beginState_kept
    | with_reducible refine kept_ite (fun _ => ?_) (fun _ => ?_)
    | split
    | exact Nat.le_refl _
    | (intro _ _)

/-- What `requestState` can change. -/
theorem requestState_kept (t : PowerState) (s : State) (g1 : Group.power ∈ G) (g2 : Group.tide ∈ G) (g3 : Group.soft ∈ G) (g4 : Group.ca ∈ G) (g5 : Group.cb ∈ G) (g6 : Group.ports ∈ G) (g7 : Group.pipe ∈ G) (g8 : Group.masks ∈ G) (g9 : Group.fn ∈ G) (g10 : Group.brine ∈ G) (g11 : Group.weights ∈ G) (g12 : Group.adapters ∈ G) (g13 : Group.image ∈ G) (g14 : Group.fabric ∈ G) (g15 : Group.events ∈ G) (g16 : Group.reach ∈ G) (hk : Kept G w0 s) :
    Kept G w0 (requestState t s) := by
  unfold requestState
  try dsimp only
  repeat' first
    | with_reducible assumption
    | with_reducible apply updPower_kept
    | with_reducible apply watcherWake_kept
    | with_reducible apply beginState_kept
    | with_reducible refine kept_ite (fun _ => ?_) (fun _ => ?_)
    | split
    | exact Nat.le_refl _
    | (intro _ _)

/-- What `lockLinks` can change. -/
theorem lockLinks_kept (s : State) (g1 : Group.reach ∈ G) (hk : Kept G w0 s) :
    Kept G w0 (lockLinks s) := by
  unfold lockLinks
  try dsimp only
  repeat' first
    | with_reducible assumption
    | with_reducible apply tryLock_kept
    | with_reducible refine kept_foldl (fun _ _ _ => ?_) ?_
    | with_reducible refine kept_ite (fun _ => ?_) (fun _ => ?_)
    | split
    | (intro _ _)

/-- What `dropDarkLinks` can change. -/
theorem dropDarkLinks_kept (s : State) (g1 : Group.tide ∈ G) (g2 : Group.cb ∈ G) (g3 : Group.ports ∈ G) (g4 : Group.pipe ∈ G) (g5 : Group.weights ∈ G) (g6 : Group.adapters ∈ G) (g7 : Group.bb ∈ G) (g8 : Group.events ∈ G) (g9 : Group.reach ∈ G) (hk : Kept G w0 s) :
    Kept G w0 (dropDarkLinks s) := by
  unfold dropDarkLinks
  try dsimp only
  repeat' first
    | with_reducible assumption
    | with_reducible apply enterDown_kept
    | with_reducible refine kept_foldl (fun _ _ _ => ?_) ?_
    | with_reducible refine kept_ite (fun _ => ?_) (fun _ => ?_)
    | split
    | (intro _ _)

/-- What `addrOnReturn` can change. -/
theorem addrOnReturn_kept (s : State) (g1 : Group.cb ∈ G) (g2 : Group.ports ∈ G) (g3 : Group.pipe ∈ G) (g4 : Group.weights ∈ G) (g5 : Group.adapters ∈ G) (g6 : Group.bb ∈ G) (g7 : Group.events ∈ G) (g8 : Group.reach ∈ G) (hk : Kept G w0 s) :
    Kept G w0 (addrOnReturn s) := by
  unfold addrOnReturn
  try dsimp only
  repeat' first
    | with_reducible assumption
    | with_reducible apply tellAddr_kept
    | with_reducible refine kept_ite (fun _ => ?_) (fun _ => ?_)
    | split
    | (intro _ _)

/-- What `exitRetain` can change. -/
theorem exitRetain_kept (s : State) (g1 : Group.power ∈ G) (g2 : Group.tide ∈ G) (g3 : Group.soft ∈ G) (g4 : Group.ca ∈ G) (g5 : Group.cb ∈ G) (g6 : Group.ports ∈ G) (g7 : Group.pipe ∈ G) (g8 : Group.masks ∈ G) (g9 : Group.fn ∈ G) (g10 : Group.brine ∈ G) (g11 : Group.weights ∈ G) (g12 : Group.adapters ∈ G) (g13 : Group.image ∈ G) (g14 : Group.fabric ∈ G) (g15 : Group.bb ∈ G) (g16 : Group.events ∈ G) (g17 : Group.reach ∈ G) (hk : Kept G w0 s) :
    Kept G w0 (exitRetain s) := by
  unfold exitRetain
  try dsimp only
  repeat' first
    | with_reducible assumption
    | with_reducible apply updPower_kept
    | with_reducible apply regrant_kept
    | with_reducible apply mirrorUp_kept
    | with_reducible apply aoLatches_kept
    | with_reducible apply nextState_kept
    | with_reducible apply lockLinks_kept
    | with_reducible apply dropDarkLinks_kept
    | with_reducible apply addrOnReturn_kept
    | with_reducible refine kept_ite (fun _ => ?_) (fun _ => ?_)
    | split
    | exact Nat.le_refl _
    | (intro _ _)

/-- What `runFromReset` can change. -/
theorem runFromReset_kept (s : State) (g1 : Group.power ∈ G) (g2 : Group.tide ∈ G) (g3 : Group.soft ∈ G) (g4 : Group.ca ∈ G) (g5 : Group.cb ∈ G) (g6 : Group.ports ∈ G) (g7 : Group.pipe ∈ G) (g8 : Group.masks ∈ G) (g9 : Group.fn ∈ G) (g10 : Group.brine ∈ G) (g11 : Group.weights ∈ G) (g12 : Group.adapters ∈ G) (g13 : Group.image ∈ G) (g14 : Group.fabric ∈ G) (g15 : Group.events ∈ G) (g16 : Group.reach ∈ G) (hk : Kept G w0 s) :
    Kept G w0 (runFromReset s) := by
  unfold runFromReset
  try dsimp only
  repeat' first
    | with_reducible assumption
    | with_reducible apply updPower_kept
    | with_reducible apply aoLatches_kept
    | with_reducible apply logicReset_kept
    | with_reducible apply lockLinks_kept
    | with_reducible refine kept_ite (fun _ => ?_) (fun _ => ?_)
    | split
    | exact Nat.le_refl _
    | (intro _ _)

/-- What `bootReleased` can change. -/
theorem bootReleased_kept (s : State) (g1 : Group.power ∈ G) (g2 : Group.tide ∈ G) (g3 : Group.soft ∈ G) (g4 : Group.ca ∈ G) (g5 : Group.cb ∈ G) (g6 : Group.ports ∈ G) (g7 : Group.pipe ∈ G) (g8 : Group.masks ∈ G) (g9 : Group.fn ∈ G) (g10 : Group.brine ∈ G) (g11 : Group.weights ∈ G) (g12 : Group.adapters ∈ G) (g13 : Group.image ∈ G) (g14 : Group.fabric ∈ G) (g15 : Group.events ∈ G) (g16 : Group.reach ∈ G) (hk : Kept G w0 s) :
    Kept G w0 (bootReleased s) := by
  unfold bootReleased
  try dsimp only
  repeat' first
    | with_reducible assumption
    | with_reducible apply updPower_kept
    | with_reducible apply nextState_kept
    | with_reducible apply runFromReset_kept
    | with_reducible refine kept_ite (fun _ => ?_) (fun _ => ?_)
    | split
    | exact Nat.le_refl _
    | (intro _ _)

/-- What `bootFence` can change. -/
theorem bootFence_kept (s : State) (q : UnitId × Nat) (g1 : Group.fabric ∈ G) (hk : Kept G w0 s) :
    Kept G w0 (bootFence s q) := by
  unfold bootFence
  try dsimp only
  repeat' first
    | with_reducible assumption
    | with_reducible apply setPan_kept
    | with_reducible apply setCell_kept
    | with_reducible refine kept_ite (fun _ => ?_) (fun _ => ?_)
    | split
    | (intro _ _)

/-- What `bootNext` can change. -/
theorem bootNext_kept (s : State) (g1 : Group.power ∈ G) (hk : Kept G w0 s) :
    Kept G w0 (bootNext s) := by
  unfold bootNext
  try dsimp only
  repeat' first
    | with_reducible assumption
    | with_reducible apply updPower_kept
    | with_reducible refine kept_ite (fun _ => ?_) (fun _ => ?_)
    | split
    | exact Nat.le_refl _
    | (intro _ _)

/-- What `bootDrop` can change. -/
theorem bootDrop_kept (n : Nat) (s : State) (g1 : Group.power ∈ G) (hk : Kept G w0 s) :
    Kept G w0 (bootDrop n s) := by
  unfold bootDrop
  try dsimp only
  repeat' first
    | with_reducible assumption
    | with_reducible apply updPower_kept
    | with_reducible refine kept_ite (fun _ => ?_) (fun _ => ?_)
    | split
    | exact Nat.le_refl _
    | (intro _ _)

/-- What `bootProbed` can change. -/
theorem bootProbed_kept (failing : List (UnitId × Nat)) (s : State) (g1 : Group.power ∈ G) (g2 : Group.fabric ∈ G) (hk : Kept G w0 s) :
    Kept G w0 (bootProbed failing s) := by
  unfold bootProbed
  try dsimp only
  repeat' first
    | with_reducible assumption
    | with_reducible apply updPower_kept
    | with_reducible apply bootFence_kept
    | with_reducible apply bootNext_kept
    | with_reducible apply bootDrop_kept
    | with_reducible refine kept_foldl (fun _ _ _ => ?_) ?_
    | with_reducible refine kept_ite (fun _ => ?_) (fun _ => ?_)
    | split
    | exact Nat.le_refl _
    | (intro _ _)

/-- What `bootHead` can change. -/
theorem bootHead_kept (pass : Bool) (s : State) (g1 : Group.power ∈ G) (g2 : Group.tide ∈ G) (g3 : Group.cb ∈ G) (g4 : Group.ports ∈ G) (g5 : Group.pipe ∈ G) (g6 : Group.masks ∈ G) (g7 : Group.fn ∈ G) (g8 : Group.weights ∈ G) (g9 : Group.adapters ∈ G) (g10 : Group.image ∈ G) (g11 : Group.fabric ∈ G) (g12 : Group.bb ∈ G) (g13 : Group.events ∈ G) (g14 : Group.reach ∈ G) (hk : Kept G w0 s) :
    Kept G w0 (bootHead pass s) := by
  unfold bootHead
  try dsimp only
  repeat' first
    | with_reducible assumption
    | with_reducible apply updPower_kept
    | with_reducible apply halt_kept
    | with_reducible apply bootNext_kept
    | with_reducible apply bootDrop_kept
    | with_reducible refine kept_ite (fun _ => ?_) (fun _ => ?_)
    | split
    | exact Nat.le_refl _
    | (intro _ _)

/-- What `bootDone` can change. -/
theorem bootDone_kept (s : State) (g1 : Group.power ∈ G) (g2 : Group.ports ∈ G) (g3 : Group.fabric ∈ G) (g4 : Group.bb ∈ G) (g5 : Group.events ∈ G) (hk : Kept G w0 s) :
    Kept G w0 (bootDone s) := by
  unfold bootDone
  try dsimp only
  repeat' first
    | with_reducible assumption
    | with_reducible apply updPower_kept
    | with_reducible apply bbRecord_kept
    | with_reducible apply regrant_kept
    | with_reducible apply mirrorUp_kept
    | with_reducible refine kept_ite (fun _ => ?_) (fun _ => ?_)
    | split
    | exact Nat.le_refl _
    | (intro _ _)

/-- What `bootStep` can change. -/
theorem bootStep_kept (r : BootReport) (s : State) (g1 : Group.power ∈ G) (g2 : Group.tide ∈ G) (g3 : Group.soft ∈ G) (g4 : Group.ca ∈ G) (g5 : Group.cb ∈ G) (g6 : Group.ports ∈ G) (g7 : Group.pipe ∈ G) (g8 : Group.masks ∈ G) (g9 : Group.fn ∈ G) (g10 : Group.brine ∈ G) (g11 : Group.weights ∈ G) (g12 : Group.adapters ∈ G) (g13 : Group.image ∈ G) (g14 : Group.fabric ∈ G) (g15 : Group.bb ∈ G) (g16 : Group.events ∈ G) (g17 : Group.reach ∈ G) (hk : Kept G w0 s) :
    Kept G w0 (bootStep r s) := by
  unfold bootStep
  try dsimp only
  repeat' first
    | with_reducible assumption
    | with_reducible apply updPower_kept
    | with_reducible apply bootReleased_kept
    | with_reducible apply bootProbed_kept
    | with_reducible apply bootHead_kept
    | with_reducible apply bootDone_kept
    | with_reducible refine kept_ite (fun _ => ?_) (fun _ => ?_)
    | split
    | exact Nat.le_refl _
    | (intro _ _)

/-- What `writeMgReset` can change. -/
theorem writeMgReset_kept (value : Word) (s : State) (g1 : Group.power ∈ G) (g2 : Group.tide ∈ G) (g3 : Group.soft ∈ G) (g4 : Group.ca ∈ G) (g5 : Group.cb ∈ G) (g6 : Group.ports ∈ G) (g7 : Group.pipe ∈ G) (g8 : Group.masks ∈ G) (g9 : Group.fn ∈ G) (g10 : Group.brine ∈ G) (g11 : Group.weights ∈ G) (g12 : Group.adapters ∈ G) (g13 : Group.image ∈ G) (g14 : Group.fabric ∈ G) (g15 : Group.events ∈ G) (g16 : Group.reach ∈ G) (hk : Kept G w0 s) :
    Kept G w0 (writeMgReset value s) := by
  unfold writeMgReset
  try dsimp only
  repeat' first
    | with_reducible assumption
    | with_reducible apply runFromReset_kept
    | with_reducible refine kept_ite (fun _ => ?_) (fun _ => ?_)
    | split
    | (intro _ _)

/-- The always-on supply comes or goes. -/
theorem supplyState_kept (up : Bool) (s : State) (g1 : Group.power ∈ G) (g2 : Group.tide ∈ G) (g3 : Group.soft ∈ G) (g4 : Group.ca ∈ G) (g5 : Group.cb ∈ G) (g6 : Group.ports ∈ G) (g7 : Group.pipe ∈ G) (g8 : Group.masks ∈ G) (g9 : Group.fn ∈ G) (g10 : Group.brine ∈ G) (g11 : Group.weights ∈ G) (g12 : Group.adapters ∈ G) (g13 : Group.image ∈ G) (g14 : Group.fabric ∈ G) (g15 : Group.bb ∈ G) (g16 : Group.events ∈ G) (g17 : Group.reach ∈ G) (g18 : Group.resp ∈ G) (h : Kept G w0 s) : Kept G w0 (supplyState up s) := by
  refine h.trans ⟨⟨rfl, rfl, fun g hg => by cases g <;> exact absurd ‹_› hg⟩, Nat.le_refl _, fun he => ?_, fun _ => rfl⟩
  have hst : stacked (supplyState up s).events = [] := by
    simp only [supplyState, stacked, List.map_eq_nil_iff, List.flatMap_eq_nil_iff, List.mem_map]
    rintro x ⟨y, -, rfl⟩
    rfl
  refine ⟨by simpa [supplyState] using he.1, by simpa [supplyState] using he.2.1, by simp [supplyState, State.resetOf, eventsReset],
    by simp [supplyState, State.resetOf, eventsReset], by simp [supplyState, State.resetOf, eventsReset], ?_, ?_, hst ▸ List.nodup_nil, fun k => ?_⟩
  · intro x hx
    simp only [supplyState, List.mem_map] at hx
    obtain ⟨y, -, rfl⟩ := hx
    exact ⟨List.Pairwise.nil, fun p hp => absurd hp (by simp [targetReset])⟩
  · exact fun q hq => absurd hq (by simp [supplyState, State.resetOf, eventsReset])
  · rw [hst]
    simp [supplyState, State.resetOf, eventsReset]

/-- A write of MG_IMG_FLOOR: the floor only rises. -/
theorem writeFloor_kept (v : Word) (s : State) (g1 : Group.power ∈ G) (h : Kept G w0 s) : Kept G w0 (writeFloor v s) := by
  refine updPower_kept _ g1 ?_ h
  dsimp only
  split
  · rename_i hv; exact Nat.le_of_lt hv
  · exact Nat.le_refl _

/-- What `writeLinkCal` can change. -/
theorem writeLinkCal_kept (l : Nat) (v : Word) (s : State) (g1 : Group.reach ∈ G) (hk : Kept G w0 s) :
    Kept G w0 (writeLinkCal l v s) := by
  unfold writeLinkCal
  try dsimp only
  repeat' first
    | with_reducible assumption
    | with_reducible apply updLink_kept
    | with_reducible refine kept_ite (fun _ => ?_) (fun _ => ?_)
    | split
    | (intro _ _)

/-- What `writeMcastCfg` can change. -/
theorem writeMcastCfg_kept (g : Nat) (v : Word) (s : State) (g1 : Group.ports ∈ G) (g2 : Group.reach ∈ G) (hk : Kept G w0 s) :
    Kept G w0 (writeMcastCfg g v s) := by
  unfold writeMcastCfg
  try dsimp only
  repeat' first
    | with_reducible assumption
    | with_reducible apply updReach_kept
    | with_reducible apply reportGroups_kept
    | with_reducible apply settleMcast_kept
    | with_reducible apply dropCopies_kept
    | with_reducible refine kept_foldl (fun _ _ _ => ?_) ?_
    | with_reducible refine kept_ite (fun _ => ?_) (fun _ => ?_)
    | split
    | (intro _ _)

/-- A write of one register of an array. -/
theorem onEntry_kept (o base stride n : Nat) (f : Nat → State → State) (rest : State → State) (s : State)
    (hf : ∀ i, i < n → ∀ t, Kept G w0 t → Kept G w0 (f i t)) (hr : ∀ t, Kept G w0 t → Kept G w0 (rest t)) (h : Kept G w0 s) :
    Kept G w0 (onEntry o base stride n f rest s) := by
  unfold onEntry
  split
  · rename_i i hi
    refine hf i ?_ _ h
    unfold entryOf at hi
    split at hi
    · rename_i hc
      obtain rfl := Option.some.inj hi
      exact Nat.div_lt_of_lt_mul (by omega)
    · exact absurd hi (by simp)
  · exact hr _ h

/-- Writes in the events region. -/
theorem writeEv_kept (o : Nat) (v : Word) (s : State) (g1 : Group.power ∈ G) (g2 : Group.events ∈ G) (h : Kept G w0 s) : Kept G w0 (writeEv o v s) := by
  unfold writeEv
  repeat' first
    | with_reducible apply kept_id
    | with_reducible refine onEntry_kept _ _ _ _ _ _ _ (fun _ _ _ _ => ?_) (fun _ _ => ?_) ?_
    | with_reducible assumption
    | with_reducible apply pendingSet_kept
    | with_reducible apply pendingClr_kept
    | with_reducible apply maskSet_kept
    | with_reducible apply maskClr_kept
    | with_reducible apply complete_kept
    | with_reducible apply writeTgtCtl_kept
    | with_reducible apply writeExtInv_kept
    | with_reducible apply quarRelease_kept
  · exact updEvents_kept _ ‹_› (fun he => eventsOk_pending he _ (clearSrc0_zero _)) ‹_›
  · exact updEvents_kept _ ‹_› (fun he => eventsOk_of_same he rfl rfl he.2.2.1 (maskSrc0_zero _) rfl he.2.2.2.2.2.2.1) ‹_›
  · exact events_other_kept _ ‹_› (fun _ => ⟨rfl, rfl, rfl, rfl, rfl, rfl⟩) ‹_›
  · refine updEvents_kept _ ‹_› (fun he => ?_) ‹_›
    unfold writeSrcCfg
    dsimp only
    refine eventsOk_of_same he rfl rfl he.2.2.1 he.2.2.2.1 rfl fun q hq => ?_
    rcases List.mem_cons.mp hq with rfl | hq
    · show bitsOf _ 3 0 ≤ 15
      unfold bitsOf; omega
    · exact he.2.2.2.2.2.2.1 q (List.mem_filter.mp hq).1
  · exact events_other_kept _ ‹_› (fun _ => ⟨rfl, rfl, rfl, rfl, rfl, rfl⟩) ‹_›
  · exact events_other_kept _ ‹_› (fun _ => ⟨rfl, rfl, rfl, rfl, rfl, rfl⟩) ‹_›

/-- Writes in the reach region. -/
theorem writeReach_kept (o : Nat) (v : Word) (s : State) (g1 : Group.tide ∈ G) (g2 : Group.cb ∈ G) (g3 : Group.ports ∈ G) (g4 : Group.pipe ∈ G) (g5 : Group.weights ∈ G) (g6 : Group.adapters ∈ G) (g7 : Group.bb ∈ G) (g8 : Group.events ∈ G) (g9 : Group.reach ∈ G) (h : Kept G w0 s) : Kept G w0 (writeReach o v s) := by
  unfold writeReach
  repeat' first
    | with_reducible apply kept_id
    | with_reducible refine onEntry_kept _ _ _ _ _ _ _ (fun _ _ _ _ => ?_) (fun _ _ => ?_) ?_
    | with_reducible assumption
    | with_reducible apply writeLinkCal_kept
    | with_reducible apply writeLinkCtl_kept
    | with_reducible apply writeMcastCfg_kept

/-- What `chipEffect` can change. -/
theorem chipEffect_kept (o : Nat) (v : Word) (s : State) (g1 : Group.power ∈ G) (g2 : Group.tide ∈ G) (g3 : Group.soft ∈ G) (g4 : Group.ca ∈ G) (g5 : Group.cb ∈ G) (g6 : Group.ports ∈ G) (g7 : Group.pipe ∈ G) (g8 : Group.masks ∈ G) (g9 : Group.fn ∈ G) (g10 : Group.brine ∈ G) (g11 : Group.weights ∈ G) (g12 : Group.adapters ∈ G) (g13 : Group.image ∈ G) (g14 : Group.fabric ∈ G) (g15 : Group.bb ∈ G) (g16 : Group.events ∈ G) (g17 : Group.reach ∈ G) (hk : Kept G w0 s) :
    Kept G w0 (chipEffect o v s) := by
  unfold chipEffect
  try dsimp only
  repeat' first
    | with_reducible assumption
    | with_reducible apply updSoft_kept
    | with_reducible apply writeBbCtl_kept
    | with_reducible apply swMark_kept
    | with_reducible apply writeMaskLoad_kept
    | with_reducible apply writeFnLoad_kept
    | with_reducible apply writeStCtl_kept
    | with_reducible apply writeGateCtl_kept
    | with_reducible apply writeImgLoad_kept
    | with_reducible apply writeEv_kept
    | with_reducible apply writeReach_kept
    | with_reducible refine kept_ite (fun _ => ?_) (fun _ => ?_)
    | split
    | (intro _ _)

/-- What `writePwrCtl` can change. -/
theorem writePwrCtl_kept (v : Word) (s : State) (g1 : Group.power ∈ G) (g2 : Group.tide ∈ G) (g3 : Group.soft ∈ G) (g4 : Group.ca ∈ G) (g5 : Group.cb ∈ G) (g6 : Group.ports ∈ G) (g7 : Group.pipe ∈ G) (g8 : Group.masks ∈ G) (g9 : Group.fn ∈ G) (g10 : Group.brine ∈ G) (g11 : Group.weights ∈ G) (g12 : Group.adapters ∈ G) (g13 : Group.image ∈ G) (g14 : Group.fabric ∈ G) (g15 : Group.events ∈ G) (g16 : Group.reach ∈ G) (hk : Kept G w0 s) :
    Kept G w0 (writePwrCtl v s) := by
  unfold writePwrCtl
  try dsimp only
  repeat' first
    | with_reducible assumption
    | with_reducible apply requestState_kept
    | with_reducible refine kept_ite (fun _ => ?_) (fun _ => ?_)
    | split
    | (intro _ _)

/-- What `mgEffect` can change. -/
theorem mgEffect_kept (o : Nat) (v : Word) (s : State) (g1 : Group.power ∈ G) (g2 : Group.tide ∈ G) (g3 : Group.soft ∈ G) (g4 : Group.ca ∈ G) (g5 : Group.cb ∈ G) (g6 : Group.ports ∈ G) (g7 : Group.pipe ∈ G) (g8 : Group.masks ∈ G) (g9 : Group.fn ∈ G) (g10 : Group.brine ∈ G) (g11 : Group.weights ∈ G) (g12 : Group.adapters ∈ G) (g13 : Group.image ∈ G) (g14 : Group.fabric ∈ G) (g15 : Group.bb ∈ G) (g16 : Group.events ∈ G) (g17 : Group.reach ∈ G) (hk : Kept G w0 s) :
    Kept G w0 (mgEffect o v s) := by
  unfold mgEffect
  try dsimp only
  repeat' first
    | with_reducible assumption
    | with_reducible apply writeBbCtl_kept
    | with_reducible apply bbSelect_kept
    | with_reducible apply writeAddr_kept
    | with_reducible apply writeOppt_kept
    | with_reducible apply writeMgReset_kept
    | with_reducible apply writeFloor_kept
    | with_reducible apply writePwrCtl_kept
    | with_reducible refine kept_ite (fun _ => ?_) (fun _ => ?_)
    | split
    | (intro _ _)

end Sys2Proof.Laws
end

