-- ==== Sys2Proof/Laws/KeptCommands.lean ====
section
/-!
SUPPORT. What each command can change: one lemma per command, with the groups of the state that it may change. The frame of a command is its
lemma at that list of groups.
-/

set_option Elab.async false

namespace Sys2Proof.Laws

open Sys2Proof.Machine Sys2Proof.Safety

/-- A next state, if there is one, follows with only the groups in `G` changed and the invariants kept. -/
def Fine (G : List Group) (s : State) (o : Host.Outcome State Fault Refusal) : Prop := ∀ u, o = .next u → Kept G s u

variable {G : List Group} {w0 : State}

/-- A next state. -/
theorem fine_next {s u : State} (h : Kept G s u) : Fine G s (.next u) := by
  intro v hv
  cases hv
  exact h

/-- A command guarded by its enabling condition. -/
theorem fine_when {s t u : State} {c : Bool} (ht : c = true → Kept G s t) (hu : Kept G s u) : Fine G s (when' c t u) :=
  fine_next (by
    split
    · exact ht ‹_›
    · exact hu)

/-- A command of a unit that may not be there. -/
theorem fine_forUnit {s : State} {b : Bool} {o : Host.Outcome State Fault Refusal} (h : b = true → Fine G s o) : Fine G s (forUnit b o) := by
  cases b with
  | true => exact h rfl
  | false => intro u hu; cases hu

/-- What `execEgressCredit` can change. -/
theorem execEgressCredit_fine (port : Fin 2) (n : Nat) (s : State) (g1 : Group.ports ∈ G) : Fine G s (execEgressCredit port n s) := by
  unfold execEgressCredit
  repeat' first
    | with_reducible exact Kept.refl _ _
    | with_reducible assumption
    | refine fine_when (fun _ => ?_) ?_
    | refine fine_next ?_
    | with_reducible apply updPort_kept
    | with_reducible refine kept_ite (fun _ => ?_) (fun _ => ?_)
    | (exact of_decide_eq_true ‹_›)
    | split
    | exact Nat.le_refl _
    | exact fun _ => rfl
    | exact fun hb => hb
    | (intro _ _)
    | (intro _)
    | with_reducible rfl

/-- What `execPortRstRise` can change. -/
theorem execPortRstRise_fine (port : Fin 2) (cut : Bool) (s : State) (g1 : Group.cb ∈ G) (g2 : Group.ports ∈ G) : Fine G s (execPortRstRise port cut s) := by
  unfold execPortRstRise
  repeat' first
    | with_reducible exact Kept.refl _ _
    | with_reducible assumption
    | refine fine_when (fun _ => ?_) ?_
    | refine fine_next ?_
    | with_reducible apply portRise_kept
    | with_reducible refine kept_ite (fun _ => ?_) (fun _ => ?_)
    | (exact of_decide_eq_true ‹_›)
    | split
    | exact Nat.le_refl _
    | exact fun _ => rfl
    | exact fun hb => hb
    | (intro _ _)
    | (intro _)
    | with_reducible rfl

/-- What `execPortRstFall` can change. -/
theorem execPortRstFall_fine (port : Fin 2) (s : State) (g1 : Group.ports ∈ G) : Fine G s (execPortRstFall port s) := by
  unfold execPortRstFall
  repeat' first
    | with_reducible exact Kept.refl _ _
    | with_reducible assumption
    | refine fine_when (fun _ => ?_) ?_
    | refine fine_next ?_
    | with_reducible apply updPort_kept
    | with_reducible apply regrant_kept
    | with_reducible apply sendWaitingReads_kept
    | with_reducible refine kept_ite (fun _ => ?_) (fun _ => ?_)
    | (exact of_decide_eq_true ‹_›)
    | split
    | exact Nat.le_refl _
    | exact fun _ => rfl
    | exact fun hb => hb
    | (intro _ _)
    | (intro _)
    | with_reducible rfl

/-- What `execPatchRowRetire` can change. -/
theorem execPatchRowRetire_fine (leaf : Nat) (s : State) (g1 : Group.cb ∈ G) (g2 : Group.ports ∈ G) (g3 : Group.brine ∈ G) (g4 : Group.weights ∈ G) : Fine G s (execPatchRowRetire leaf s) := by
  unfold execPatchRowRetire
  repeat' first
    | with_reducible exact Kept.refl _ _
    | with_reducible assumption
    | refine fine_forUnit fun _ => ?_
    | refine fine_when (fun _ => ?_) ?_
    | refine fine_next ?_
    | with_reducible apply retireRow_kept
    | with_reducible refine kept_ite (fun _ => ?_) (fun _ => ?_)
    | (exact of_decide_eq_true ‹_›)
    | split
    | exact Nat.le_refl _
    | exact fun _ => rfl
    | exact fun hb => hb
    | (intro _ _)
    | (intro _)
    | with_reducible rfl

/-- What `execSealEffect` can change. -/
theorem execSealEffect_fine (leaf : Nat) (s : State) (g1 : Group.ports ∈ G) (g2 : Group.pipe ∈ G) (g3 : Group.weights ∈ G) (g4 : Group.bb ∈ G) (g5 : Group.events ∈ G) (g6 : Group.reach ∈ G) : Fine G s (execSealEffect leaf s) := by
  unfold execSealEffect
  repeat' first
    | with_reducible exact Kept.refl _ _
    | with_reducible assumption
    | refine fine_forUnit fun _ => ?_
    | refine fine_when (fun _ => ?_) ?_
    | refine fine_next ?_
    | with_reducible apply sealAt_kept
    | with_reducible refine kept_ite (fun _ => ?_) (fun _ => ?_)
    | (exact of_decide_eq_true ‹_›)
    | split
    | exact Nat.le_refl _
    | exact fun _ => rfl
    | exact fun hb => hb
    | (intro _ _)
    | (intro _)
    | with_reducible rfl

/-- What `execFlipDecision` can change. -/
theorem execFlipDecision_fine (s : State) (g1 : Group.weights ∈ G) (g2 : Group.bb ∈ G) (g3 : Group.events ∈ G) : Fine G s (execFlipDecision s) := by
  unfold execFlipDecision
  repeat' first
    | with_reducible exact Kept.refl _ _
    | with_reducible assumption
    | refine fine_when (fun _ => ?_) ?_
    | refine fine_next ?_
    | with_reducible apply decideFlip_kept
    | with_reducible refine kept_ite (fun _ => ?_) (fun _ => ?_)
    | (exact of_decide_eq_true ‹_›)
    | split
    | exact Nat.le_refl _
    | exact fun _ => rfl
    | exact fun hb => hb
    | (intro _ _)
    | (intro _)
    | with_reducible rfl

/-- What `execFlipFire` can change. -/
theorem execFlipFire_fine (s : State) (g1 : Group.ports ∈ G) (g2 : Group.pipe ∈ G) (g3 : Group.brine ∈ G) (g4 : Group.weights ∈ G) (g5 : Group.bb ∈ G) (g6 : Group.events ∈ G) (g7 : Group.reach ∈ G) : Fine G s (execFlipFire s) := by
  unfold execFlipFire
  repeat' first
    | with_reducible exact Kept.refl _ _
    | with_reducible assumption
    | refine fine_when (fun _ => ?_) ?_
    | refine fine_next ?_
    | with_reducible apply fireFlip_kept
    | with_reducible refine kept_ite (fun _ => ?_) (fun _ => ?_)
    | (exact of_decide_eq_true ‹_›)
    | split
    | exact Nat.le_refl _
    | exact fun _ => rfl
    | exact fun hb => hb
    | (intro _ _)
    | (intro _)
    | with_reducible rfl

/-- What `execFlipAbandon` can change. -/
theorem execFlipAbandon_fine (s : State) (g1 : Group.ports ∈ G) (g2 : Group.weights ∈ G) (g3 : Group.bb ∈ G) (g4 : Group.events ∈ G) : Fine G s (execFlipAbandon s) := by
  unfold execFlipAbandon
  repeat' first
    | with_reducible exact Kept.refl _ _
    | with_reducible assumption
    | refine fine_when (fun _ => ?_) ?_
    | refine fine_next ?_
    | with_reducible apply abandonFlip_kept
    | with_reducible refine kept_ite (fun _ => ?_) (fun _ => ?_)
    | (exact of_decide_eq_true ‹_›)
    | split
    | exact Nat.le_refl _
    | exact fun _ => rfl
    | exact fun hb => hb
    | (intro _ _)
    | (intro _)
    | with_reducible rfl

/-- What `execReplayDone` can change. -/
theorem execReplayDone_fine (leaf : Nat) (s : State) (g1 : Group.brine ∈ G) (g2 : Group.weights ∈ G) : Fine G s (execReplayDone leaf s) := by
  unfold execReplayDone
  repeat' first
    | with_reducible exact Kept.refl _ _
    | with_reducible assumption
    | refine fine_forUnit fun _ => ?_
    | refine fine_when (fun _ => ?_) ?_
    | refine fine_next ?_
    | with_reducible apply replayAll_kept
    | with_reducible refine kept_ite (fun _ => ?_) (fun _ => ?_)
    | (exact of_decide_eq_true ‹_›)
    | split
    | exact Nat.le_refl _
    | exact fun _ => rfl
    | exact fun hb => hb
    | (intro _ _)
    | (intro _)
    | with_reducible rfl

/-- What `execWindowOpen` can change. -/
theorem execWindowOpen_fine (s : State) (g1 : Group.ports ∈ G) (g2 : Group.pipe ∈ G) (g3 : Group.weights ∈ G) (g4 : Group.bb ∈ G) (g5 : Group.events ∈ G) (g6 : Group.reach ∈ G) : Fine G s (execWindowOpen s) := by
  unfold execWindowOpen
  repeat' first
    | with_reducible exact Kept.refl _ _
    | with_reducible assumption
    | refine fine_when (fun _ => ?_) ?_
    | refine fine_next ?_
    | with_reducible apply updWeights_kept
    | with_reducible apply tryClose_kept
    | with_reducible refine kept_ite (fun _ => ?_) (fun _ => ?_)
    | (exact of_decide_eq_true ‹_›)
    | split
    | exact Nat.le_refl _
    | exact fun _ => rfl
    | exact fun hb => hb
    | (intro _ _)
    | (intro _)
    | with_reducible rfl

/-- What `execWindowHoldLimit` can change. -/
theorem execWindowHoldLimit_fine (s : State) (g1 : Group.weights ∈ G) (g2 : Group.bb ∈ G) (g3 : Group.events ∈ G) : Fine G s (execWindowHoldLimit s) := by
  unfold execWindowHoldLimit
  repeat' first
    | with_reducible exact Kept.refl _ _
    | with_reducible assumption
    | refine fine_when (fun _ => ?_) ?_
    | refine fine_next ?_
    | with_reducible apply updWeights_kept
    | with_reducible apply raiseSplit_kept
    | with_reducible refine kept_ite (fun _ => ?_) (fun _ => ?_)
    | (exact of_decide_eq_true ‹_›)
    | split
    | exact Nat.le_refl _
    | exact fun _ => rfl
    | exact fun hb => hb
    | (intro _ _)
    | (intro _)
    | with_reducible rfl

/-- What `execAdapterLoadStart` can change. -/
theorem execAdapterLoadStart_fine (s : State) (g1 : Group.ports ∈ G) (g2 : Group.adapters ∈ G) : Fine G s (execAdapterLoadStart s) := by
  unfold execAdapterLoadStart
  repeat' first
    | with_reducible exact Kept.refl _ _
    | with_reducible assumption
    | refine fine_when (fun _ => ?_) ?_
    | refine fine_next ?_
    | with_reducible apply startLoad_kept
    | with_reducible refine kept_ite (fun _ => ?_) (fun _ => ?_)
    | (exact of_decide_eq_true ‹_›)
    | split
    | exact Nat.le_refl _
    | exact fun _ => rfl
    | exact fun hb => hb
    | (intro _ _)
    | (intro _)
    | with_reducible rfl

/-- What `execRearm` can change. -/
theorem execRearm_fine (mg : Bool) (value : Word) (s : State) (g1 : Group.bb ∈ G) (g2 : Group.events ∈ G) (g3 : Group.resp ∈ G) : Fine G s (execRearm mg value s) := by
  unfold execRearm
  repeat' first
    | with_reducible exact Kept.refl _ _
    | with_reducible assumption
    | refine fine_next ?_
    | with_reducible apply writeBbCtl_kept
    | with_reducible apply portWrite_kept
    | with_reducible refine kept_ite (fun _ => ?_) (fun _ => ?_)
    | (exact of_decide_eq_true ‹_›)
    | split
    | exact Nat.le_refl _
    | exact fun _ => rfl
    | exact fun hb => hb
    | (intro _ _)
    | (intro _)
    | with_reducible rfl

/-- What `execFreeze` can change. -/
theorem execFreeze_fine (mg : Bool) (value : Word) (s : State) (g1 : Group.bb ∈ G) (g2 : Group.events ∈ G) (g3 : Group.resp ∈ G) : Fine G s (execFreeze mg value s) := by
  unfold execFreeze
  repeat' first
    | with_reducible exact Kept.refl _ _
    | with_reducible assumption
    | refine fine_next ?_
    | with_reducible apply writeBbCtl_kept
    | with_reducible apply portWrite_kept
    | with_reducible refine kept_ite (fun _ => ?_) (fun _ => ?_)
    | (exact of_decide_eq_true ‹_›)
    | split
    | exact Nat.le_refl _
    | exact fun _ => rfl
    | exact fun hb => hb
    | (intro _ _)
    | (intro _)
    | with_reducible rfl

/-- What `execSwMark` can change. -/
theorem execSwMark_fine (value : Word) (s : State) (g1 : Group.bb ∈ G) (g2 : Group.events ∈ G) (g3 : Group.resp ∈ G) : Fine G s (execSwMark value s) := by
  unfold execSwMark
  repeat' first
    | with_reducible exact Kept.refl _ _
    | with_reducible assumption
    | refine fine_next ?_
    | with_reducible apply chipWrite_kept
    | with_reducible apply swMark_kept
    | with_reducible refine kept_ite (fun _ => ?_) (fun _ => ?_)
    | (exact of_decide_eq_true ‹_›)
    | split
    | exact Nat.le_refl _
    | exact fun _ => rfl
    | exact fun hb => hb
    | (intro _ _)
    | (intro _)
    | with_reducible rfl

/-- What `execMgBbSel` can change. -/
theorem execMgBbSel_fine (value : Word) (s : State) (g1 : Group.bb ∈ G) (g2 : Group.resp ∈ G) : Fine G s (execMgBbSel value s) := by
  unfold execMgBbSel
  repeat' first
    | with_reducible exact Kept.refl _ _
    | with_reducible assumption
    | refine fine_next ?_
    | with_reducible apply mgWrite_kept
    | with_reducible apply bbSelect_kept
    | with_reducible refine kept_ite (fun _ => ?_) (fun _ => ?_)
    | (exact of_decide_eq_true ‹_›)
    | split
    | exact Nat.le_refl _
    | exact fun _ => rfl
    | exact fun hb => hb
    | (intro _ _)
    | (intro _)
    | with_reducible rfl

/-- What `execCtxOpEffect` can change. -/
theorem execCtxOpEffect_fine (idx : Nat) (s : State) (g1 : Group.cb ∈ G) (g2 : Group.ports ∈ G) (g3 : Group.pipe ∈ G) (g4 : Group.adapters ∈ G) (g5 : Group.events ∈ G) (g6 : Group.reach ∈ G) : Fine G s (execCtxOpEffect idx s) := by
  unfold execCtxOpEffect
  repeat' first
    | with_reducible exact Kept.refl _ _
    | with_reducible assumption
    | refine fine_when (fun _ => ?_) ?_
    | refine fine_next ?_
    | with_reducible apply opEffect_kept
    | with_reducible refine kept_ite (fun _ => ?_) (fun _ => ?_)
    | (exact of_decide_eq_true ‹_›)
    | split
    | exact Nat.le_refl _
    | exact fun _ => rfl
    | exact fun hb => hb
    | (intro _ _)
    | (intro _)
    | with_reducible rfl

/-- What `arrival` can change. -/
theorem arrival_fine (port : Fin 2) (bs : List Byte) (s : State) (g1 : Group.cb ∈ G) (g2 : Group.ports ∈ G) (g3 : Group.pipe ∈ G) (g4 : Group.weights ∈ G) (g5 : Group.adapters ∈ G) (g6 : Group.events ∈ G) (g7 : Group.reach ∈ G) : Fine G s (arrival port bs s) := by
  unfold arrival
  repeat' first
    | with_reducible exact Kept.refl _ _
    | with_reducible assumption
    | refine fine_when (fun _ => ?_) ?_
    | refine fine_next ?_
    | with_reducible apply arrive_kept
    | with_reducible refine kept_ite (fun _ => ?_) (fun _ => ?_)
    | (exact of_decide_eq_true ‹_›)
    | split
    | exact Nat.le_refl _
    | exact fun _ => rfl
    | exact fun hb => hb
    | (intro _ _)
    | (intro _)
    | with_reducible rfl

/-- What `execStep` can change. -/
theorem execStep_fine (port : Fin 2) (bs : List Byte) (s : State) (g1 : Group.cb ∈ G) (g2 : Group.ports ∈ G) (g3 : Group.pipe ∈ G) (g4 : Group.weights ∈ G) (g5 : Group.adapters ∈ G) (g6 : Group.events ∈ G) (g7 : Group.reach ∈ G) : Fine G s (execStep port bs s) := by
  unfold execStep
  repeat' first
    | with_reducible exact Kept.refl _ _
    | with_reducible assumption
    | with_reducible apply arrival_fine
    | refine fine_next ?_
    | with_reducible refine kept_ite (fun _ => ?_) (fun _ => ?_)
    | (exact of_decide_eq_true ‹_›)
    | split
    | exact Nat.le_refl _
    | exact fun _ => rfl
    | exact fun hb => hb
    | (intro _ _)
    | (intro _)
    | with_reducible rfl

/-- What `execUnknownType` can change. -/
theorem execUnknownType_fine (port : Fin 2) (bs : List Byte) (s : State) (g1 : Group.cb ∈ G) (g2 : Group.ports ∈ G) (g3 : Group.pipe ∈ G) (g4 : Group.weights ∈ G) (g5 : Group.adapters ∈ G) (g6 : Group.events ∈ G) (g7 : Group.reach ∈ G) : Fine G s (execUnknownType port bs s) := by
  unfold execUnknownType
  repeat' first
    | with_reducible exact Kept.refl _ _
    | with_reducible assumption
    | with_reducible apply arrival_fine
    | refine fine_next ?_
    | with_reducible refine kept_ite (fun _ => ?_) (fun _ => ?_)
    | (exact of_decide_eq_true ‹_›)
    | split
    | exact Nat.le_refl _
    | exact fun _ => rfl
    | exact fun hb => hb
    | (intro _ _)
    | (intro _)
    | with_reducible rfl

/-- What `execCtxOpen` can change. -/
theorem execCtxOpen_fine (port : Fin 2) (bs : List Byte) (s : State) (g1 : Group.cb ∈ G) (g2 : Group.ports ∈ G) (g3 : Group.pipe ∈ G) (g4 : Group.weights ∈ G) (g5 : Group.adapters ∈ G) (g6 : Group.events ∈ G) (g7 : Group.reach ∈ G) : Fine G s (execCtxOpen port bs s) := by
  unfold execCtxOpen
  repeat' first
    | with_reducible exact Kept.refl _ _
    | with_reducible assumption
    | with_reducible apply arrival_fine
    | refine fine_next ?_
    | with_reducible refine kept_ite (fun _ => ?_) (fun _ => ?_)
    | (exact of_decide_eq_true ‹_›)
    | split
    | exact Nat.le_refl _
    | exact fun _ => rfl
    | exact fun hb => hb
    | (intro _ _)
    | (intro _)
    | with_reducible rfl

/-- What `execCtxSet` can change. -/
theorem execCtxSet_fine (port : Fin 2) (bs : List Byte) (s : State) (g1 : Group.cb ∈ G) (g2 : Group.ports ∈ G) (g3 : Group.pipe ∈ G) (g4 : Group.weights ∈ G) (g5 : Group.adapters ∈ G) (g6 : Group.events ∈ G) (g7 : Group.reach ∈ G) : Fine G s (execCtxSet port bs s) := by
  unfold execCtxSet
  repeat' first
    | with_reducible exact Kept.refl _ _
    | with_reducible assumption
    | with_reducible apply arrival_fine
    | refine fine_next ?_
    | with_reducible refine kept_ite (fun _ => ?_) (fun _ => ?_)
    | (exact of_decide_eq_true ‹_›)
    | split
    | exact Nat.le_refl _
    | exact fun _ => rfl
    | exact fun hb => hb
    | (intro _ _)
    | (intro _)
    | with_reducible rfl

/-- What `execCtxRead` can change. -/
theorem execCtxRead_fine (port : Fin 2) (bs : List Byte) (s : State) (g1 : Group.cb ∈ G) (g2 : Group.ports ∈ G) (g3 : Group.pipe ∈ G) (g4 : Group.weights ∈ G) (g5 : Group.adapters ∈ G) (g6 : Group.events ∈ G) (g7 : Group.reach ∈ G) : Fine G s (execCtxRead port bs s) := by
  unfold execCtxRead
  repeat' first
    | with_reducible exact Kept.refl _ _
    | with_reducible assumption
    | with_reducible apply arrival_fine
    | refine fine_next ?_
    | with_reducible refine kept_ite (fun _ => ?_) (fun _ => ?_)
    | (exact of_decide_eq_true ‹_›)
    | split
    | exact Nat.le_refl _
    | exact fun _ => rfl
    | exact fun hb => hb
    | (intro _ _)
    | (intro _)
    | with_reducible rfl

/-- What `execCtxImport` can change. -/
theorem execCtxImport_fine (port : Fin 2) (bs : List Byte) (s : State) (g1 : Group.cb ∈ G) (g2 : Group.ports ∈ G) (g3 : Group.pipe ∈ G) (g4 : Group.weights ∈ G) (g5 : Group.adapters ∈ G) (g6 : Group.events ∈ G) (g7 : Group.reach ∈ G) : Fine G s (execCtxImport port bs s) := by
  unfold execCtxImport
  repeat' first
    | with_reducible exact Kept.refl _ _
    | with_reducible assumption
    | with_reducible apply arrival_fine
    | refine fine_next ?_
    | with_reducible refine kept_ite (fun _ => ?_) (fun _ => ?_)
    | (exact of_decide_eq_true ‹_›)
    | split
    | exact Nat.le_refl _
    | exact fun _ => rfl
    | exact fun hb => hb
    | (intro _ _)
    | (intro _)
    | with_reducible rfl

/-- What `execCtxCancel` can change. -/
theorem execCtxCancel_fine (port : Fin 2) (bs : List Byte) (s : State) (g1 : Group.cb ∈ G) (g2 : Group.ports ∈ G) (g3 : Group.pipe ∈ G) (g4 : Group.weights ∈ G) (g5 : Group.adapters ∈ G) (g6 : Group.events ∈ G) (g7 : Group.reach ∈ G) : Fine G s (execCtxCancel port bs s) := by
  unfold execCtxCancel
  repeat' first
    | with_reducible exact Kept.refl _ _
    | with_reducible assumption
    | with_reducible apply arrival_fine
    | refine fine_next ?_
    | with_reducible refine kept_ite (fun _ => ?_) (fun _ => ?_)
    | (exact of_decide_eq_true ‹_›)
    | split
    | exact Nat.le_refl _
    | exact fun _ => rfl
    | exact fun hb => hb
    | (intro _ _)
    | (intro _)
    | with_reducible rfl

/-- What `execRows` can change. -/
theorem execRows_fine (port : Fin 2) (bs : List Byte) (s : State) (g1 : Group.cb ∈ G) (g2 : Group.ports ∈ G) (g3 : Group.pipe ∈ G) (g4 : Group.weights ∈ G) (g5 : Group.adapters ∈ G) (g6 : Group.events ∈ G) (g7 : Group.reach ∈ G) : Fine G s (execRows port bs s) := by
  unfold execRows
  repeat' first
    | with_reducible exact Kept.refl _ _
    | with_reducible assumption
    | with_reducible apply arrival_fine
    | refine fine_next ?_
    | with_reducible refine kept_ite (fun _ => ?_) (fun _ => ?_)
    | (exact of_decide_eq_true ‹_›)
    | split
    | exact Nat.le_refl _
    | exact fun _ => rfl
    | exact fun hb => hb
    | (intro _ _)
    | (intro _)
    | with_reducible rfl

/-- What `execSeal` can change. -/
theorem execSeal_fine (port : Fin 2) (bs : List Byte) (s : State) (g1 : Group.cb ∈ G) (g2 : Group.ports ∈ G) (g3 : Group.pipe ∈ G) (g4 : Group.weights ∈ G) (g5 : Group.adapters ∈ G) (g6 : Group.events ∈ G) (g7 : Group.reach ∈ G) : Fine G s (execSeal port bs s) := by
  unfold execSeal
  repeat' first
    | with_reducible exact Kept.refl _ _
    | with_reducible assumption
    | with_reducible apply arrival_fine
    | refine fine_next ?_
    | with_reducible refine kept_ite (fun _ => ?_) (fun _ => ?_)
    | (exact of_decide_eq_true ‹_›)
    | split
    | exact Nat.le_refl _
    | exact fun _ => rfl
    | exact fun hb => hb
    | (intro _ _)
    | (intro _)
    | with_reducible rfl

/-- What `execArm` can change. -/
theorem execArm_fine (port : Fin 2) (bs : List Byte) (s : State) (g1 : Group.cb ∈ G) (g2 : Group.ports ∈ G) (g3 : Group.pipe ∈ G) (g4 : Group.weights ∈ G) (g5 : Group.adapters ∈ G) (g6 : Group.events ∈ G) (g7 : Group.reach ∈ G) : Fine G s (execArm port bs s) := by
  unfold execArm
  repeat' first
    | with_reducible exact Kept.refl _ _
    | with_reducible assumption
    | with_reducible apply arrival_fine
    | refine fine_next ?_
    | with_reducible refine kept_ite (fun _ => ?_) (fun _ => ?_)
    | (exact of_decide_eq_true ‹_›)
    | split
    | exact Nat.le_refl _
    | exact fun _ => rfl
    | exact fun hb => hb
    | (intro _ _)
    | (intro _)
    | with_reducible rfl

/-- What `execDisarm` can change. -/
theorem execDisarm_fine (port : Fin 2) (bs : List Byte) (s : State) (g1 : Group.cb ∈ G) (g2 : Group.ports ∈ G) (g3 : Group.pipe ∈ G) (g4 : Group.weights ∈ G) (g5 : Group.adapters ∈ G) (g6 : Group.events ∈ G) (g7 : Group.reach ∈ G) : Fine G s (execDisarm port bs s) := by
  unfold execDisarm
  repeat' first
    | with_reducible exact Kept.refl _ _
    | with_reducible assumption
    | with_reducible apply arrival_fine
    | refine fine_next ?_
    | with_reducible refine kept_ite (fun _ => ?_) (fun _ => ?_)
    | (exact of_decide_eq_true ‹_›)
    | split
    | exact Nat.le_refl _
    | exact fun _ => rfl
    | exact fun hb => hb
    | (intro _ _)
    | (intro _)
    | with_reducible rfl

/-- What `execAdapterLoad` can change. -/
theorem execAdapterLoad_fine (port : Fin 2) (bs : List Byte) (s : State) (g1 : Group.cb ∈ G) (g2 : Group.ports ∈ G) (g3 : Group.pipe ∈ G) (g4 : Group.weights ∈ G) (g5 : Group.adapters ∈ G) (g6 : Group.events ∈ G) (g7 : Group.reach ∈ G) : Fine G s (execAdapterLoad port bs s) := by
  unfold execAdapterLoad
  repeat' first
    | with_reducible exact Kept.refl _ _
    | with_reducible assumption
    | with_reducible apply arrival_fine
    | refine fine_next ?_
    | with_reducible refine kept_ite (fun _ => ?_) (fun _ => ?_)
    | (exact of_decide_eq_true ‹_›)
    | split
    | exact Nat.le_refl _
    | exact fun _ => rfl
    | exact fun hb => hb
    | (intro _ _)
    | (intro _)
    | with_reducible rfl

/-- What `execAdapterRetire` can change. -/
theorem execAdapterRetire_fine (port : Fin 2) (bs : List Byte) (s : State) (g1 : Group.cb ∈ G) (g2 : Group.ports ∈ G) (g3 : Group.pipe ∈ G) (g4 : Group.weights ∈ G) (g5 : Group.adapters ∈ G) (g6 : Group.events ∈ G) (g7 : Group.reach ∈ G) : Fine G s (execAdapterRetire port bs s) := by
  unfold execAdapterRetire
  repeat' first
    | with_reducible exact Kept.refl _ _
    | with_reducible assumption
    | with_reducible apply arrival_fine
    | refine fine_next ?_
    | with_reducible refine kept_ite (fun _ => ?_) (fun _ => ?_)
    | (exact of_decide_eq_true ‹_›)
    | split
    | exact Nat.le_refl _
    | exact fun _ => rfl
    | exact fun hb => hb
    | (intro _ _)
    | (intro _)
    | with_reducible rfl

/-- What `execOutboundSend` can change. -/
theorem execOutboundSend_fine (port : Fin 2) (s : State) (g1 : Group.cb ∈ G) (g2 : Group.ports ∈ G) (g3 : Group.pipe ∈ G) (g4 : Group.adapters ∈ G) (g5 : Group.events ∈ G) (g6 : Group.reach ∈ G) : Fine G s (execOutboundSend port s) := by
  unfold execOutboundSend
  split
  · refine fine_next ?_
    have hk := sendFirst_kept _ _ _ ‹_› ‹_› (Kept.refl G s)
    apply settleClosings_kept <;> assumption
  · exact fine_next (Kept.refl _ _)

/-- What `execSheetEnterStage2` can change. -/
theorem execSheetEnterStage2_fine (s : State) (g1 : Group.ca ∈ G) (g2 : Group.cb ∈ G) (g3 : Group.ports ∈ G) (g4 : Group.pipe ∈ G) (g5 : Group.fn ∈ G) (g6 : Group.events ∈ G) : Fine G s (execSheetEnterStage2 s) := by
  unfold execSheetEnterStage2
  repeat' first
    | with_reducible exact Kept.refl _ _
    | with_reducible assumption
    | refine fine_when (fun _ => ?_) ?_
    | refine fine_next ?_
    | with_reducible apply enterStage2_kept
    | with_reducible refine kept_ite (fun _ => ?_) (fun _ => ?_)
    | (exact of_decide_eq_true ‹_›)
    | split
    | exact Nat.le_refl _
    | exact fun _ => rfl
    | exact fun hb => hb
    | (intro _ _)
    | (intro _)
    | with_reducible rfl

/-- What `execSheetEnterStage3` can change. -/
theorem execSheetEnterStage3_fine (s : State) (g1 : Group.ca ∈ G) (g2 : Group.pipe ∈ G) : Fine G s (execSheetEnterStage3 s) := by
  unfold execSheetEnterStage3
  repeat' first
    | with_reducible exact Kept.refl _ _
    | with_reducible assumption
    | refine fine_when (fun _ => ?_) ?_
    | refine fine_next ?_
    | with_reducible apply enterStage3_kept
    | with_reducible refine kept_ite (fun _ => ?_) (fun _ => ?_)
    | (exact of_decide_eq_true ‹_›)
    | split
    | exact Nat.le_refl _
    | exact fun _ => rfl
    | exact fun hb => hb
    | (intro _ _)
    | (intro _)
    | with_reducible rfl

/-- What `execSheetEnterStage4` can change. -/
theorem execSheetEnterStage4_fine (s : State) (g1 : Group.ports ∈ G) (g2 : Group.pipe ∈ G) (g3 : Group.brine ∈ G) (g4 : Group.reach ∈ G) : Fine G s (execSheetEnterStage4 s) := by
  unfold execSheetEnterStage4
  repeat' first
    | with_reducible exact Kept.refl _ _
    | with_reducible assumption
    | refine fine_next ?_
    | with_reducible apply settleFetch_kept
    | with_reducible apply beginScoring_kept
    | with_reducible apply settleStages_kept
    | with_reducible refine kept_ite (fun _ => ?_) (fun _ => ?_)
    | (exact of_decide_eq_true ‹_›)
    | split
    | exact Nat.le_refl _
    | exact fun _ => rfl
    | exact fun hb => hb
    | (intro _ _)
    | (intro _)
    | with_reducible rfl

/-- What `execScoreBatch` can change. -/
theorem execScoreBatch_fine (seq leaf slot : Nat) (s : State) (g1 : Group.ca ∈ G) (g2 : Group.cb ∈ G) (g3 : Group.ports ∈ G) (g4 : Group.pipe ∈ G) (g5 : Group.brine ∈ G) : Fine G s (execScoreBatch seq leaf slot s) := by
  unfold execScoreBatch
  repeat' first
    | with_reducible exact Kept.refl _ _
    | with_reducible assumption
    | refine fine_forUnit fun _ => ?_
    | refine fine_when (fun _ => ?_) ?_
    | refine fine_next ?_
    | with_reducible apply settleFetch_kept
    | with_reducible apply settleStages_kept
    | with_reducible apply scoreBatch_kept
    | with_reducible refine kept_ite (fun _ => ?_) (fun _ => ?_)
    | (exact of_decide_eq_true ‹_›)
    | split
    | exact Nat.le_refl _
    | exact fun _ => rfl
    | exact fun hb => hb
    | (intro _ _)
    | (intro _)
    | with_reducible rfl

/-- What `execRakeMerge` can change. -/
theorem execRakeMerge_fine (seq node slot : Nat) (s : State) (g1 : Group.ca ∈ G) (g2 : Group.cb ∈ G) (g3 : Group.pipe ∈ G) (g4 : Group.reach ∈ G) : Fine G s (execRakeMerge seq node slot s) := by
  unfold execRakeMerge
  repeat' first
    | with_reducible exact Kept.refl _ _
    | with_reducible assumption
    | refine fine_forUnit fun _ => ?_
    | refine fine_when (fun _ => ?_) ?_
    | refine fine_next ?_
    | with_reducible apply settleStages_kept
    | with_reducible apply mergeAt_kept
    | with_reducible refine kept_ite (fun _ => ?_) (fun _ => ?_)
    | (exact of_decide_eq_true ‹_›)
    | split
    | exact Nat.le_refl _
    | exact fun _ => rfl
    | exact fun hb => hb
    | (intro _ _)
    | (intro _)
    | with_reducible rfl

/-- What `execGradientPacket` can change. -/
theorem execGradientPacket_fine (seq leaf slot chunk : Nat) (s : State) (g1 : Group.cb ∈ G) (g2 : Group.ports ∈ G) (g3 : Group.pipe ∈ G) (g4 : Group.brine ∈ G) (g5 : Group.reach ∈ G) : Fine G s (execGradientPacket seq leaf slot chunk s) := by
  unfold execGradientPacket
  repeat' first
    | with_reducible exact Kept.refl _ _
    | with_reducible assumption
    | refine fine_forUnit fun _ => ?_
    | refine fine_when (fun _ => ?_) ?_
    | refine fine_next ?_
    | with_reducible apply gradientPacket_kept
    | with_reducible refine kept_ite (fun _ => ?_) (fun _ => ?_)
    | (exact of_decide_eq_true ‹_›)
    | split
    | exact Nat.le_refl _
    | exact fun _ => rfl
    | exact fun hb => hb
    | (intro _ _)
    | (intro _)
    | with_reducible rfl

/-- What `execHeadPassEnd` can change. -/
theorem execHeadPassEnd_fine (seq row : Nat) (s : State) (g1 : Group.ca ∈ G) (g2 : Group.ports ∈ G) (g3 : Group.pipe ∈ G) (g4 : Group.reach ∈ G) : Fine G s (execHeadPassEnd seq row s) := by
  unfold execHeadPassEnd
  repeat' first
    | with_reducible exact Kept.refl _ _
    | with_reducible assumption
    | refine fine_when (fun _ => ?_) ?_
    | refine fine_next ?_
    | with_reducible apply headPassEnd_kept
    | with_reducible refine kept_ite (fun _ => ?_) (fun _ => ?_)
    | (exact of_decide_eq_true ‹_›)
    | split
    | exact Nat.le_refl _
    | exact fun _ => rfl
    | exact fun hb => hb
    | (intro _ _)
    | (intro _)
    | with_reducible rfl

/-- What `execSheetCommit` can change. -/
theorem execSheetCommit_fine (s : State) (g1 : Group.ca ∈ G) (g2 : Group.cb ∈ G) (g3 : Group.ports ∈ G) (g4 : Group.pipe ∈ G) (g5 : Group.adapters ∈ G) (g6 : Group.events ∈ G) (g7 : Group.reach ∈ G) : Fine G s (execSheetCommit s) := by
  unfold execSheetCommit
  repeat' first
    | with_reducible exact Kept.refl _ _
    | with_reducible assumption
    | refine fine_when (fun _ => ?_) ?_
    | refine fine_next ?_
    | with_reducible apply commitSheet_kept
    | with_reducible refine kept_ite (fun _ => ?_) (fun _ => ?_)
    | (exact of_decide_eq_true ‹_›)
    | split
    | exact Nat.le_refl _
    | exact fun _ => rfl
    | exact fun hb => hb
    | (intro _ _)
    | (intro _)
    | with_reducible rfl

/-- What `execMaskLoad` can change. -/
theorem execMaskLoad_fine (value : Word) (s : State) (g1 : Group.ports ∈ G) (g2 : Group.masks ∈ G) (g3 : Group.events ∈ G) (g4 : Group.resp ∈ G) : Fine G s (execMaskLoad value s) := by
  unfold execMaskLoad
  repeat' first
    | with_reducible exact Kept.refl _ _
    | with_reducible assumption
    | refine fine_next ?_
    | with_reducible apply chipWrite_kept
    | with_reducible apply writeMaskLoad_kept
    | with_reducible refine kept_ite (fun _ => ?_) (fun _ => ?_)
    | (exact of_decide_eq_true ‹_›)
    | split
    | exact Nat.le_refl _
    | exact fun _ => rfl
    | exact fun hb => hb
    | (intro _ _)
    | (intro _)
    | with_reducible rfl

/-- What `execMaskCopy` can change. -/
theorem execMaskCopy_fine (s : State) (g1 : Group.masks ∈ G) : Fine G s (execMaskCopy s) := by
  unfold execMaskCopy
  repeat' first
    | with_reducible exact Kept.refl _ _
    | with_reducible assumption
    | refine fine_when (fun _ => ?_) ?_
    | refine fine_next ?_
    | with_reducible apply updMasks_kept
    | with_reducible refine kept_ite (fun _ => ?_) (fun _ => ?_)
    | (exact of_decide_eq_true ‹_›)
    | split
    | exact Nat.le_refl _
    | exact fun _ => rfl
    | exact fun hb => hb
    | (intro _ _)
    | (intro _)
    | with_reducible rfl

/-- What `execMaskLoadEnd` can change. -/
theorem execMaskLoadEnd_fine (s : State) (g1 : Group.cb ∈ G) (g2 : Group.ports ∈ G) (g3 : Group.masks ∈ G) (g4 : Group.events ∈ G) : Fine G s (execMaskLoadEnd s) := by
  unfold execMaskLoadEnd
  repeat' first
    | with_reducible exact Kept.refl _ _
    | with_reducible assumption
    | refine fine_when (fun _ => ?_) ?_
    | refine fine_next ?_
    | with_reducible apply maskCopied_kept
    | with_reducible refine kept_ite (fun _ => ?_) (fun _ => ?_)
    | (exact of_decide_eq_true ‹_›)
    | split
    | exact Nat.le_refl _
    | exact fun _ => rfl
    | exact fun hb => hb
    | (intro _ _)
    | (intro _)
    | with_reducible rfl

/-- What `execFnLoad` can change. -/
theorem execFnLoad_fine (value : Word) (s : State) (g1 : Group.ports ∈ G) (g2 : Group.fn ∈ G) (g3 : Group.events ∈ G) (g4 : Group.resp ∈ G) : Fine G s (execFnLoad value s) := by
  unfold execFnLoad
  repeat' first
    | with_reducible exact Kept.refl _ _
    | with_reducible assumption
    | refine fine_next ?_
    | with_reducible apply chipWrite_kept
    | with_reducible apply writeFnLoad_kept
    | with_reducible refine kept_ite (fun _ => ?_) (fun _ => ?_)
    | (exact of_decide_eq_true ‹_›)
    | split
    | exact Nat.le_refl _
    | exact fun _ => rfl
    | exact fun hb => hb
    | (intro _ _)
    | (intro _)
    | with_reducible rfl

/-- What `execFnWrite` can change. -/
theorem execFnWrite_fine (s : State) (g1 : Group.fn ∈ G) : Fine G s (execFnWrite s) := by
  unfold execFnWrite
  try dsimp only
  try dsimp only
  repeat' first
    | with_reducible exact Kept.refl _ _
    | with_reducible assumption
    | refine fine_when (fun _ => ?_) ?_
    | refine fine_next ?_
    | with_reducible apply updFn_kept
    | with_reducible refine kept_ite (fun _ => ?_) (fun _ => ?_)
    | (exact of_decide_eq_true ‹_›)
    | split
    | exact Nat.le_refl _
    | exact fun _ => rfl
    | exact fun hb => hb
    | (intro _ _)
    | (intro _)
    | with_reducible rfl

/-- What `execFnReady` can change. -/
theorem execFnReady_fine (s : State) (g1 : Group.fn ∈ G) : Fine G s (execFnReady s) := by
  unfold execFnReady
  repeat' first
    | with_reducible exact Kept.refl _ _
    | with_reducible assumption
    | refine fine_when (fun _ => ?_) ?_
    | refine fine_next ?_
    | with_reducible apply updFn_kept
    | with_reducible refine kept_ite (fun _ => ?_) (fun _ => ?_)
    | (exact of_decide_eq_true ‹_›)
    | split
    | exact Nat.le_refl _
    | exact fun _ => rfl
    | exact fun hb => hb
    | (intro _ _)
    | (intro _)
    | with_reducible rfl

/-- What `execFault` can change. -/
theorem execFault_fine (u : UnitId) (d : Faults) (s : State) (g1 : Group.tide ∈ G) (g2 : Group.ca ∈ G) (g3 : Group.cb ∈ G) (g4 : Group.ports ∈ G) (g5 : Group.pipe ∈ G) (g6 : Group.masks ∈ G) (g7 : Group.fn ∈ G) (g8 : Group.brine ∈ G) (g9 : Group.weights ∈ G) (g10 : Group.adapters ∈ G) (g11 : Group.image ∈ G) (g12 : Group.fabric ∈ G) (g13 : Group.bb ∈ G) (g14 : Group.events ∈ G) (g15 : Group.reach ∈ G) : Fine G s (execFault u d s) := by
  unfold execFault
  repeat' first
    | with_reducible exact Kept.refl _ _
    | with_reducible assumption
    | refine fine_forUnit fun _ => ?_
    | refine fine_when (fun _ => ?_) ?_
    | refine fine_next ?_
    | with_reducible apply pushMirror_kept
    | with_reducible apply detectAll_kept
    | with_reducible refine kept_ite (fun _ => ?_) (fun _ => ?_)
    | (exact of_decide_eq_true ‹_›)
    | split
    | exact Nat.le_refl _
    | exact fun _ => rfl
    | exact fun hb => hb
    | (intro _ _)
    | (intro _)
    | with_reducible rfl

/-- What `execWatchdogExpiry` can change. -/
theorem execWatchdogExpiry_fine (u : UnitId) (q : Request) (nb : UnitId) (s : State) (g1 : Group.tide ∈ G) (g2 : Group.ca ∈ G) (g3 : Group.cb ∈ G) (g4 : Group.ports ∈ G) (g5 : Group.pipe ∈ G) (g6 : Group.masks ∈ G) (g7 : Group.fn ∈ G) (g8 : Group.brine ∈ G) (g9 : Group.weights ∈ G) (g10 : Group.adapters ∈ G) (g11 : Group.image ∈ G) (g12 : Group.fabric ∈ G) (g13 : Group.bb ∈ G) (g14 : Group.events ∈ G) (g15 : Group.reach ∈ G) : Fine G s (execWatchdogExpiry u q nb s) := by
  unfold execWatchdogExpiry
  repeat' first
    | with_reducible exact Kept.refl _ _
    | with_reducible assumption
    | refine fine_forUnit fun _ => ?_
    | refine fine_when (fun _ => ?_) ?_
    | refine fine_next ?_
    | with_reducible apply pushMirror_kept
    | with_reducible apply watchdog_kept
    | with_reducible refine kept_ite (fun _ => ?_) (fun _ => ?_)
    | (exact of_decide_eq_true ‹_›)
    | split
    | exact Nat.le_refl _
    | exact fun _ => rfl
    | exact fun hb => hb
    | (intro _ _)
    | (intro _)
    | with_reducible rfl

/-- What `execRebuildDone` can change. -/
theorem execRebuildDone_fine (bed : Nat) (s : State) (g1 : Group.ca ∈ G) (g2 : Group.cb ∈ G) (g3 : Group.ports ∈ G) (g4 : Group.pipe ∈ G) (g5 : Group.brine ∈ G) (g6 : Group.weights ∈ G) (g7 : Group.fabric ∈ G) (g8 : Group.bb ∈ G) (g9 : Group.events ∈ G) (g10 : Group.reach ∈ G) : Fine G s (execRebuildDone bed s) := by
  unfold execRebuildDone
  repeat' first
    | with_reducible exact Kept.refl _ _
    | with_reducible assumption
    | refine fine_forUnit fun _ => ?_
    | refine fine_when (fun _ => ?_) ?_
    | refine fine_next ?_
    | with_reducible apply pushMirror_kept
    | with_reducible apply rebuilt_kept
    | with_reducible refine kept_ite (fun _ => ?_) (fun _ => ?_)
    | (exact of_decide_eq_true ‹_›)
    | split
    | exact Nat.le_refl _
    | exact fun _ => rfl
    | exact fun hb => hb
    | (intro _ _)
    | (intro _)
    | with_reducible rfl

/-- What `execShadowRebuildDone` can change. -/
theorem execShadowRebuildDone_fine (bed : Nat) (s : State) (g1 : Group.brine ∈ G) (g2 : Group.weights ∈ G) (g3 : Group.fabric ∈ G) : Fine G s (execShadowRebuildDone bed s) := by
  unfold execShadowRebuildDone
  repeat' first
    | with_reducible exact Kept.refl _ _
    | with_reducible assumption
    | refine fine_forUnit fun _ => ?_
    | refine fine_when (fun _ => ?_) ?_
    | refine fine_next ?_
    | with_reducible apply shadowRebuilt_kept
    | with_reducible refine kept_ite (fun _ => ?_) (fun _ => ?_)
    | (exact of_decide_eq_true ‹_›)
    | split
    | exact Nat.le_refl _
    | exact fun _ => rfl
    | exact fun hb => hb
    | (intro _ _)
    | (intro _)
    | with_reducible rfl

/-- What `execProbeEnd` can change. -/
theorem execProbeEnd_fine (u : UnitId) (v : ProbeVerdict) (s : State) (g1 : Group.tide ∈ G) (g2 : Group.ca ∈ G) (g3 : Group.cb ∈ G) (g4 : Group.ports ∈ G) (g5 : Group.pipe ∈ G) (g6 : Group.masks ∈ G) (g7 : Group.fn ∈ G) (g8 : Group.brine ∈ G) (g9 : Group.weights ∈ G) (g10 : Group.adapters ∈ G) (g11 : Group.image ∈ G) (g12 : Group.fabric ∈ G) (g13 : Group.bb ∈ G) (g14 : Group.events ∈ G) (g15 : Group.reach ∈ G) : Fine G s (execProbeEnd u v s) := by
  unfold execProbeEnd
  try dsimp only
  repeat' first
    | with_reducible exact Kept.refl _ _
    | with_reducible assumption
    | refine fine_forUnit fun _ => ?_
    | refine fine_when (fun _ => ?_) ?_
    | refine fine_next ?_
    | with_reducible apply endProbe_kept
    | with_reducible refine kept_ite (fun _ => ?_) (fun _ => ?_)
    | (exact of_decide_eq_true ‹_›)
    | split
    | exact Nat.le_refl _
    | exact fun _ => rfl
    | exact fun hb => hb
    | (intro _ _)
    | (intro _)
    | with_reducible rfl

/-- What `execProbeTimeout` can change. -/
theorem execProbeTimeout_fine (u : UnitId) (s : State) (g1 : Group.tide ∈ G) (g2 : Group.ca ∈ G) (g3 : Group.cb ∈ G) (g4 : Group.ports ∈ G) (g5 : Group.pipe ∈ G) (g6 : Group.masks ∈ G) (g7 : Group.fn ∈ G) (g8 : Group.brine ∈ G) (g9 : Group.weights ∈ G) (g10 : Group.adapters ∈ G) (g11 : Group.image ∈ G) (g12 : Group.fabric ∈ G) (g13 : Group.bb ∈ G) (g14 : Group.events ∈ G) (g15 : Group.reach ∈ G) : Fine G s (execProbeTimeout u s) := by
  unfold execProbeTimeout
  repeat' first
    | with_reducible exact Kept.refl _ _
    | with_reducible assumption
    | refine fine_forUnit fun _ => ?_
    | refine fine_when (fun _ => ?_) ?_
    | refine fine_next ?_
    | with_reducible apply endProbe_kept
    | with_reducible refine kept_ite (fun _ => ?_) (fun _ => ?_)
    | (exact of_decide_eq_true ‹_›)
    | split
    | exact Nat.le_refl _
    | exact fun _ => rfl
    | exact fun hb => hb
    | (intro _ _)
    | (intro _)
    | with_reducible rfl

/-- What `execReturnCopyDone` can change. -/
theorem execReturnCopyDone_fine (bed : Nat) (s : State) (g1 : Group.brine ∈ G) (g2 : Group.fabric ∈ G) : Fine G s (execReturnCopyDone bed s) := by
  unfold execReturnCopyDone
  repeat' first
    | with_reducible exact Kept.refl _ _
    | with_reducible assumption
    | refine fine_forUnit fun _ => ?_
    | refine fine_when (fun _ => ?_) ?_
    | refine fine_next ?_
    | with_reducible apply setBed_kept
    | with_reducible apply noteRead_kept
    | with_reducible apply copyRegion_kept
    | with_reducible refine kept_ite (fun _ => ?_) (fun _ => ?_)
    | (exact of_decide_eq_true ‹_›)
    | split
    | exact Nat.le_refl _
    | exact fun _ => rfl
    | exact fun hb => hb
    | (intro _ _)
    | (intro _)
    | with_reducible rfl

/-- What `execLeafMoveBack` can change. -/
theorem execLeafMoveBack_fine (bed : Nat) (s : State) (g1 : Group.ca ∈ G) (g2 : Group.cb ∈ G) (g3 : Group.brine ∈ G) (g4 : Group.fabric ∈ G) (g5 : Group.bb ∈ G) (g6 : Group.events ∈ G) : Fine G s (execLeafMoveBack bed s) := by
  unfold execLeafMoveBack
  repeat' first
    | with_reducible exact Kept.refl _ _
    | with_reducible assumption
    | refine fine_forUnit fun _ => ?_
    | refine fine_when (fun _ => ?_) ?_
    | refine fine_next ?_
    | with_reducible apply pushMirror_kept
    | with_reducible apply moveBack_kept
    | with_reducible refine kept_ite (fun _ => ?_) (fun _ => ?_)
    | (exact of_decide_eq_true ‹_›)
    | split
    | exact Nat.le_refl _
    | exact fun _ => rfl
    | exact fun hb => hb
    | (intro _ _)
    | (intro _)
    | with_reducible rfl

/-- What `execParityDone` can change. -/
theorem execParityDone_fine (bed : Nat) (s : State) (g1 : Group.brine ∈ G) (g2 : Group.fabric ∈ G) (g3 : Group.bb ∈ G) (g4 : Group.events ∈ G) : Fine G s (execParityDone bed s) := by
  unfold execParityDone
  repeat' first
    | with_reducible exact Kept.refl _ _
    | with_reducible assumption
    | refine fine_forUnit fun _ => ?_
    | refine fine_when (fun _ => ?_) ?_
    | refine fine_next ?_
    | with_reducible apply pushMirror_kept
    | with_reducible apply changeBed_kept
    | with_reducible apply formParity_kept
    | with_reducible refine kept_ite (fun _ => ?_) (fun _ => ?_)
    | (exact of_decide_eq_true ‹_›)
    | split
    | exact Nat.le_refl _
    | exact fun _ => rfl
    | exact fun hb => hb
    | (intro _ _)
    | (intro _)
    | with_reducible rfl

/-- What `execStProbe` can change. -/
theorem execStProbe_fine (value : Word) (s : State) (g1 : Group.ca ∈ G) (g2 : Group.cb ∈ G) (g3 : Group.ports ∈ G) (g4 : Group.pipe ∈ G) (g5 : Group.brine ∈ G) (g6 : Group.image ∈ G) (g7 : Group.fabric ∈ G) (g8 : Group.bb ∈ G) (g9 : Group.events ∈ G) (g10 : Group.reach ∈ G) (g11 : Group.resp ∈ G) : Fine G s (execStProbe value s) := by
  unfold execStProbe
  repeat' first
    | with_reducible exact Kept.refl _ _
    | with_reducible assumption
    | refine fine_next ?_
    | with_reducible apply chipWrite_kept
    | with_reducible apply writeStCtl_kept
    | with_reducible refine kept_ite (fun _ => ?_) (fun _ => ?_)
    | (exact of_decide_eq_true ‹_›)
    | split
    | exact Nat.le_refl _
    | exact fun _ => rfl
    | exact fun hb => hb
    | (intro _ _)
    | (intro _)
    | with_reducible rfl

/-- What `execScrubRead` can change. -/
theorem execScrubRead_fine (p : Nat) (found : List WordCheck) (s : State) (g1 : Group.tide ∈ G) (g2 : Group.ca ∈ G) (g3 : Group.cb ∈ G) (g4 : Group.ports ∈ G) (g5 : Group.pipe ∈ G) (g6 : Group.masks ∈ G) (g7 : Group.fn ∈ G) (g8 : Group.brine ∈ G) (g9 : Group.weights ∈ G) (g10 : Group.adapters ∈ G) (g11 : Group.image ∈ G) (g12 : Group.fabric ∈ G) (g13 : Group.bb ∈ G) (g14 : Group.events ∈ G) (g15 : Group.reach ∈ G) : Fine G s (execScrubRead p found s) := by
  unfold execScrubRead
  repeat' first
    | with_reducible exact Kept.refl _ _
    | with_reducible assumption
    | refine fine_forUnit fun _ => ?_
    | refine fine_when (fun _ => ?_) ?_
    | refine fine_next ?_
    | with_reducible apply pushMirror_kept
    | with_reducible apply scrubLine_kept
    | with_reducible refine kept_ite (fun _ => ?_) (fun _ => ?_)
    | (exact of_decide_eq_true ‹_›)
    | split
    | exact Nat.le_refl _
    | exact fun _ => rfl
    | exact fun hb => hb
    | (intro _ _)
    | (intro _)
    | with_reducible rfl

/-- What `execMirrorCheck` can change. -/
theorem execMirrorCheck_fine (s : State) (g1 : Group.fabric ∈ G) (g2 : Group.bb ∈ G) (g3 : Group.events ∈ G) : Fine G s (execMirrorCheck s) := by
  unfold execMirrorCheck
  repeat' first
    | with_reducible exact Kept.refl _ _
    | with_reducible assumption
    | refine fine_when (fun _ => ?_) ?_
    | refine fine_next ?_
    | with_reducible apply mirrorRun_kept
    | with_reducible refine kept_ite (fun _ => ?_) (fun _ => ?_)
    | (exact of_decide_eq_true ‹_›)
    | split
    | exact Nat.le_refl _
    | exact fun _ => rfl
    | exact fun hb => hb
    | (intro _ _)
    | (intro _)
    | with_reducible rfl

/-- What `execDomainChange` can change. -/
theorem execDomainChange_fine (s : State) (g1 : Group.ports ∈ G) (g2 : Group.pipe ∈ G) (g3 : Group.weights ∈ G) (g4 : Group.adapters ∈ G) (g5 : Group.bb ∈ G) (g6 : Group.events ∈ G) (g7 : Group.reach ∈ G) : Fine G s (execDomainChange s) := by
  unfold execDomainChange
  repeat' first
    | with_reducible exact Kept.refl _ _
    | with_reducible assumption
    | refine fine_when (fun _ => ?_) ?_
    | refine fine_next ?_
    | with_reducible apply changeDomain_kept
    | with_reducible refine kept_ite (fun _ => ?_) (fun _ => ?_)
    | (exact of_decide_eq_true ‹_›)
    | split
    | exact Nat.le_refl _
    | exact fun _ => rfl
    | exact fun hb => hb
    | (intro _ _)
    | (intro _)
    | with_reducible rfl

/-- What `execStepTimeout` can change. -/
theorem execStepTimeout_fine (k : Nat) (s : State) (g1 : Group.cb ∈ G) (g2 : Group.ports ∈ G) (g3 : Group.pipe ∈ G) (g4 : Group.weights ∈ G) (g5 : Group.bb ∈ G) (g6 : Group.events ∈ G) (g7 : Group.reach ∈ G) : Fine G s (execStepTimeout k s) := by
  unfold execStepTimeout
  repeat' first
    | with_reducible exact Kept.refl _ _
    | with_reducible assumption
    | refine fine_forUnit fun _ => ?_
    | refine fine_when (fun _ => ?_) ?_
    | refine fine_next ?_
    | with_reducible apply loseChild_kept
    | with_reducible refine kept_ite (fun _ => ?_) (fun _ => ?_)
    | (exact of_decide_eq_true ‹_›)
    | split
    | exact Nat.le_refl _
    | exact fun _ => rfl
    | exact fun hb => hb
    | (intro _ _)
    | (intro _)
    | with_reducible rfl

/-- What `execProgressSend` can change. -/
theorem execProgressSend_fine (s : State) (g1 : Group.pipe ∈ G) (g2 : Group.reach ∈ G) : Fine G s (execProgressSend s) := by
  unfold execProgressSend
  repeat' first
    | with_reducible exact Kept.refl _ _
    | with_reducible assumption
    | refine fine_when (fun _ => ?_) ?_
    | refine fine_next ?_
    | with_reducible apply sendProgress_kept
    | with_reducible refine kept_foldl (fun _ _ _ => ?_) ?_
    | with_reducible refine kept_ite (fun _ => ?_) (fun _ => ?_)
    | (exact of_decide_eq_true ‹_›)
    | split
    | exact Nat.le_refl _
    | exact fun _ => rfl
    | exact fun hb => hb
    | (intro _ _)
    | (intro _)
    | with_reducible rfl

/-- What `execRouteAdvertise` can change. -/
theorem execRouteAdvertise_fine (s : State) (g1 : Group.reach ∈ G) : Fine G s (execRouteAdvertise s) := by
  unfold execRouteAdvertise
  repeat' first
    | with_reducible exact Kept.refl _ _
    | with_reducible assumption
    | refine fine_when (fun _ => ?_) ?_
    | refine fine_next ?_
    | with_reducible apply advertise_kept
    | with_reducible refine kept_ite (fun _ => ?_) (fun _ => ?_)
    | (exact of_decide_eq_true ‹_›)
    | split
    | exact Nat.le_refl _
    | exact fun _ => rfl
    | exact fun hb => hb
    | (intro _ _)
    | (intro _)
    | with_reducible rfl

/-- What `execRouteAge` can change. -/
theorem execRouteAge_fine (addr : Nat) (s : State) (g1 : Group.reach ∈ G) : Fine G s (execRouteAge addr s) := by
  unfold execRouteAge
  repeat' first
    | with_reducible exact Kept.refl _ _
    | with_reducible assumption
    | refine fine_when (fun _ => ?_) ?_
    | refine fine_next ?_
    | with_reducible apply dropRoutes_kept
    | with_reducible refine kept_ite (fun _ => ?_) (fun _ => ?_)
    | (exact of_decide_eq_true ‹_›)
    | split
    | exact Nat.le_refl _
    | exact fun _ => rfl
    | exact fun hb => hb
    | (intro _ _)
    | (intro _)
    | with_reducible rfl

/-- What `execPhyReadyRise` can change. -/
theorem execPhyReadyRise_fine (lane : Nat) (s : State) (g1 : Group.reach ∈ G) : Fine G s (execPhyReadyRise lane s) := by
  unfold execPhyReadyRise
  repeat' first
    | with_reducible exact Kept.refl _ _
    | with_reducible assumption
    | refine fine_forUnit fun _ => ?_
    | refine fine_when (fun _ => ?_) ?_
    | refine fine_next ?_
    | with_reducible apply tryLock_kept
    | with_reducible apply setPhy_kept
    | with_reducible refine kept_ite (fun _ => ?_) (fun _ => ?_)
    | (exact of_decide_eq_true ‹_›)
    | split
    | exact Nat.le_refl _
    | exact fun _ => rfl
    | exact fun hb => hb
    | (intro _ _)
    | (intro _)
    | with_reducible rfl

/-- What `execPhyReadyFall` can change. -/
theorem execPhyReadyFall_fine (lane : Nat) (s : State) (g1 : Group.tide ∈ G) (g2 : Group.cb ∈ G) (g3 : Group.ports ∈ G) (g4 : Group.pipe ∈ G) (g5 : Group.weights ∈ G) (g6 : Group.adapters ∈ G) (g7 : Group.bb ∈ G) (g8 : Group.events ∈ G) (g9 : Group.reach ∈ G) : Fine G s (execPhyReadyFall lane s) := by
  unfold execPhyReadyFall
  repeat' first
    | with_reducible exact Kept.refl _ _
    | with_reducible assumption
    | refine fine_forUnit fun _ => ?_
    | refine fine_when (fun _ => ?_) ?_
    | refine fine_next ?_
    | with_reducible apply enterDown_kept
    | with_reducible apply setPhy_kept
    | with_reducible refine kept_ite (fun _ => ?_) (fun _ => ?_)
    | (exact of_decide_eq_true ‹_›)
    | split
    | exact Nat.le_refl _
    | exact fun _ => rfl
    | exact fun hb => hb
    | (intro _ _)
    | (intro _)
    | with_reducible rfl

/-- What `execLaneLock` can change. -/
theorem execLaneLock_fine (l : Nat) (lanes : List LaneSync) (s : State) (g1 : Group.reach ∈ G) : Fine G s (execLaneLock l lanes s) := by
  unfold execLaneLock
  repeat' first
    | with_reducible exact Kept.refl _ _
    | with_reducible assumption
    | refine fine_forUnit fun _ => ?_
    | refine fine_when (fun _ => ?_) ?_
    | refine fine_next ?_
    | with_reducible apply countCodewords_kept
    | with_reducible apply enterHail_kept
    | with_reducible refine kept_ite (fun _ => ?_) (fun _ => ?_)
    | (exact of_decide_eq_true ‹_›)
    | split
    | exact Nat.le_refl _
    | exact fun _ => rfl
    | exact fun hb => hb
    | (intro _ _)
    | (intro _)
    | with_reducible rfl

/-- What `execLinkStateTimeout` can change. -/
theorem execLinkStateTimeout_fine (l : Nat) (s : State) (g1 : Group.tide ∈ G) (g2 : Group.cb ∈ G) (g3 : Group.ports ∈ G) (g4 : Group.pipe ∈ G) (g5 : Group.weights ∈ G) (g6 : Group.adapters ∈ G) (g7 : Group.bb ∈ G) (g8 : Group.events ∈ G) (g9 : Group.reach ∈ G) : Fine G s (execLinkStateTimeout l s) := by
  unfold execLinkStateTimeout
  repeat' first
    | with_reducible exact Kept.refl _ _
    | with_reducible assumption
    | refine fine_forUnit fun _ => ?_
    | refine fine_when (fun _ => ?_) ?_
    | refine fine_next ?_
    | with_reducible apply stateExpired_kept
    | with_reducible refine kept_ite (fun _ => ?_) (fun _ => ?_)
    | (exact of_decide_eq_true ‹_›)
    | split
    | exact Nat.le_refl _
    | exact fun _ => rfl
    | exact fun hb => hb
    | (intro _ _)
    | (intro _)
    | with_reducible rfl

/-- What `execLinkTimeout` can change. -/
theorem execLinkTimeout_fine (l : Nat) (s : State) (g1 : Group.tide ∈ G) (g2 : Group.cb ∈ G) (g3 : Group.ports ∈ G) (g4 : Group.pipe ∈ G) (g5 : Group.weights ∈ G) (g6 : Group.adapters ∈ G) (g7 : Group.bb ∈ G) (g8 : Group.events ∈ G) (g9 : Group.reach ∈ G) : Fine G s (execLinkTimeout l s) := by
  unfold execLinkTimeout
  repeat' first
    | with_reducible exact Kept.refl _ _
    | with_reducible assumption
    | refine fine_forUnit fun _ => ?_
    | refine fine_when (fun _ => ?_) ?_
    | refine fine_next ?_
    | with_reducible apply enterDown_kept
    | with_reducible refine kept_ite (fun _ => ?_) (fun _ => ?_)
    | (exact of_decide_eq_true ‹_›)
    | split
    | exact Nat.le_refl _
    | exact fun _ => rfl
    | exact fun hb => hb
    | (intro _ _)
    | (intro _)
    | with_reducible rfl

/-- What `execHailResend` can change. -/
theorem execHailResend_fine (l : Nat) (s : State) (g1 : Group.reach ∈ G) : Fine G s (execHailResend l s) := by
  unfold execHailResend
  repeat' first
    | with_reducible exact Kept.refl _ _
    | with_reducible assumption
    | refine fine_forUnit fun _ => ?_
    | refine fine_when (fun _ => ?_) ?_
    | refine fine_next ?_
    | with_reducible apply updLink_kept
    | with_reducible apply sendHail_kept
    | with_reducible refine kept_ite (fun _ => ?_) (fun _ => ?_)
    | (exact of_decide_eq_true ‹_›)
    | split
    | exact Nat.le_refl _
    | exact fun _ => rfl
    | exact fun hb => hb
    | (intro _ _)
    | (intro _)
    | with_reducible rfl

/-- What `execHailCheck` can change. -/
theorem execHailCheck_fine (l : Nat) (s : State) (g1 : Group.tide ∈ G) (g2 : Group.cb ∈ G) (g3 : Group.ports ∈ G) (g4 : Group.pipe ∈ G) (g5 : Group.weights ∈ G) (g6 : Group.adapters ∈ G) (g7 : Group.bb ∈ G) (g8 : Group.events ∈ G) (g9 : Group.reach ∈ G) : Fine G s (execHailCheck l s) := by
  unfold execHailCheck
  repeat' first
    | with_reducible exact Kept.refl _ _
    | with_reducible assumption
    | refine fine_forUnit fun _ => ?_
    | refine fine_when (fun _ => ?_) ?_
    | refine fine_next ?_
    | with_reducible apply hailCheck_kept
    | with_reducible refine kept_ite (fun _ => ?_) (fun _ => ?_)
    | (exact of_decide_eq_true ‹_›)
    | split
    | exact Nat.le_refl _
    | exact fun _ => rfl
    | exact fun hb => hb
    | (intro _ _)
    | (intro _)
    | with_reducible rfl

/-- What `execDetach` can change. -/
theorem execDetach_fine (l : Nat) (value : Word) (s : State) (g1 : Group.tide ∈ G) (g2 : Group.cb ∈ G) (g3 : Group.ports ∈ G) (g4 : Group.pipe ∈ G) (g5 : Group.weights ∈ G) (g6 : Group.adapters ∈ G) (g7 : Group.bb ∈ G) (g8 : Group.events ∈ G) (g9 : Group.reach ∈ G) (g10 : Group.resp ∈ G) : Fine G s (execDetach l value s) := by
  unfold execDetach
  repeat' first
    | with_reducible exact Kept.refl _ _
    | with_reducible assumption
    | refine fine_forUnit fun _ => ?_
    | refine fine_next ?_
    | with_reducible apply chipWrite_kept
    | with_reducible apply writeLinkCtl_kept
    | with_reducible refine kept_ite (fun _ => ?_) (fun _ => ?_)
    | (exact of_decide_eq_true ‹_›)
    | split
    | exact Nat.le_refl _
    | exact fun _ => rfl
    | exact fun hb => hb
    | (intro _ _)
    | (intro _)
    | with_reducible rfl

/-- What `execRetrain` can change. -/
theorem execRetrain_fine (l : Nat) (value : Word) (s : State) (g1 : Group.tide ∈ G) (g2 : Group.cb ∈ G) (g3 : Group.ports ∈ G) (g4 : Group.pipe ∈ G) (g5 : Group.weights ∈ G) (g6 : Group.adapters ∈ G) (g7 : Group.bb ∈ G) (g8 : Group.events ∈ G) (g9 : Group.reach ∈ G) (g10 : Group.resp ∈ G) : Fine G s (execRetrain l value s) := by
  unfold execRetrain
  repeat' first
    | with_reducible exact Kept.refl _ _
    | with_reducible assumption
    | refine fine_forUnit fun _ => ?_
    | refine fine_next ?_
    | with_reducible apply chipWrite_kept
    | with_reducible apply writeLinkCtl_kept
    | with_reducible refine kept_ite (fun _ => ?_) (fun _ => ?_)
    | (exact of_decide_eq_true ‹_›)
    | split
    | exact Nat.le_refl _
    | exact fun _ => rfl
    | exact fun hb => hb
    | (intro _ _)
    | (intro _)
    | with_reducible rfl

/-- What `execLinkEn` can change. -/
theorem execLinkEn_fine (l : Nat) (value : Word) (s : State) (g1 : Group.tide ∈ G) (g2 : Group.cb ∈ G) (g3 : Group.ports ∈ G) (g4 : Group.pipe ∈ G) (g5 : Group.weights ∈ G) (g6 : Group.adapters ∈ G) (g7 : Group.bb ∈ G) (g8 : Group.events ∈ G) (g9 : Group.reach ∈ G) (g10 : Group.resp ∈ G) : Fine G s (execLinkEn l value s) := by
  unfold execLinkEn
  repeat' first
    | with_reducible exact Kept.refl _ _
    | with_reducible assumption
    | refine fine_forUnit fun _ => ?_
    | refine fine_next ?_
    | with_reducible apply chipWrite_kept
    | with_reducible apply writeLinkCtl_kept
    | with_reducible refine kept_ite (fun _ => ?_) (fun _ => ?_)
    | (exact of_decide_eq_true ‹_›)
    | split
    | exact Nat.le_refl _
    | exact fun _ => rfl
    | exact fun hb => hb
    | (intro _ _)
    | (intro _)
    | with_reducible rfl

/-- What `recvFlit` can change. -/
theorem recvFlit_fine (l ty vc : Nat) (training : Bool) (h : FlitHdr) (content : Option (List Byte)) (eff : State → State) (s : State) (g1 : Group.tide ∈ G) (g2 : Group.cb ∈ G) (g3 : Group.ports ∈ G) (g4 : Group.pipe ∈ G) (g5 : Group.weights ∈ G) (g6 : Group.adapters ∈ G) (g7 : Group.bb ∈ G) (g8 : Group.events ∈ G) (g9 : Group.reach ∈ G) (he : ∀ t, Kept G s t → Kept G s (eff t)) : Fine G s (recvFlit l ty vc training h content eff s) := by
  unfold recvFlit
  repeat' first
    | with_reducible exact Kept.refl _ _
    | with_reducible assumption
    | with_reducible apply he
    | refine fine_forUnit fun _ => ?_
    | refine fine_when (fun _ => ?_) ?_
    | refine fine_next ?_
    | with_reducible apply sendIdle_kept
    | with_reducible apply sequenced_kept
    | with_reducible apply unheard_kept
    | with_reducible refine kept_ite (fun _ => ?_) (fun _ => ?_)
    | (exact of_decide_eq_true ‹_›)
    | split
    | exact Nat.le_refl _
    | exact fun _ => rfl
    | exact fun hb => hb
    | (intro _ _)
    | (intro _)
    | with_reducible rfl

/-- What `recvRecord` can change. -/
theorem recvRecord_fine (l vc kind len : Nat) (hs : List FlitHdr) (r : RecHdr) (content : Option (List Byte)) (eff : State → State) (s : State) (g1 : Group.tide ∈ G) (g2 : Group.cb ∈ G) (g3 : Group.ports ∈ G) (g4 : Group.pipe ∈ G) (g5 : Group.weights ∈ G) (g6 : Group.adapters ∈ G) (g7 : Group.bb ∈ G) (g8 : Group.events ∈ G) (g9 : Group.reach ∈ G) (he : ∀ t, Kept G s t → Kept G s (eff t)) : Fine G s (recvRecord l vc kind len hs r content eff s) := by
  unfold recvRecord
  repeat' first
    | with_reducible exact Kept.refl _ _
    | with_reducible assumption
    | with_reducible apply he
    | refine fine_forUnit fun _ => ?_
    | refine fine_when (fun _ => ?_) ?_
    | refine fine_next ?_
    | with_reducible apply recordIn_kept
    | with_reducible refine kept_ite (fun _ => ?_) (fun _ => ?_)
    | (exact of_decide_eq_true ‹_›)
    | split
    | exact Nat.le_refl _
    | exact fun _ => rfl
    | exact fun hb => hb
    | (intro _ _)
    | (intro _)
    | with_reducible rfl

/-- What `execIdle` can change. -/
theorem execIdle_fine (l : Nat) (h : FlitHdr) (s : State) (g1 : Group.tide ∈ G) (g2 : Group.cb ∈ G) (g3 : Group.ports ∈ G) (g4 : Group.pipe ∈ G) (g5 : Group.weights ∈ G) (g6 : Group.adapters ∈ G) (g7 : Group.bb ∈ G) (g8 : Group.events ∈ G) (g9 : Group.reach ∈ G) : Fine G s (execIdle l h s) := by
  unfold execIdle
  repeat' first
    | with_reducible exact Kept.refl _ _
    | with_reducible assumption
    | refine fine_forUnit fun _ => ?_
    | refine fine_when (fun _ => ?_) ?_
    | refine fine_next ?_
    | with_reducible apply unheard_kept
    | with_reducible apply idleIn_kept
    | with_reducible refine kept_ite (fun _ => ?_) (fun _ => ?_)
    | (exact of_decide_eq_true ‹_›)
    | split
    | exact Nat.le_refl _
    | exact fun _ => rfl
    | exact fun hb => hb
    | (intro _ _)
    | (intro _)
    | with_reducible rfl

/-- What `execHail` can change. -/
theorem execHail_fine (l : Nat) (h : FlitHdr) (frame : List Byte) (s : State) (g1 : Group.tide ∈ G) (g2 : Group.cb ∈ G) (g3 : Group.ports ∈ G) (g4 : Group.pipe ∈ G) (g5 : Group.weights ∈ G) (g6 : Group.adapters ∈ G) (g7 : Group.bb ∈ G) (g8 : Group.events ∈ G) (g9 : Group.reach ∈ G) : Fine G s (execHail l h frame s) := by
  unfold execHail
  repeat' first
    | with_reducible exact Kept.refl _ _
    | with_reducible assumption
    | with_reducible apply recvFlit_fine
    | refine fine_next ?_
    | with_reducible apply hailArrives_kept
    | with_reducible refine kept_ite (fun _ => ?_) (fun _ => ?_)
    | (exact of_decide_eq_true ‹_›)
    | split
    | exact Nat.le_refl _
    | exact fun _ => rfl
    | exact fun hb => hb
    | (intro _ _)
    | (intro _)
    | with_reducible rfl

/-- What `execGoodbye` can change. -/
theorem execGoodbye_fine (l : Nat) (h : FlitHdr) (addr : Nat) (s : State) (g1 : Group.tide ∈ G) (g2 : Group.cb ∈ G) (g3 : Group.ports ∈ G) (g4 : Group.pipe ∈ G) (g5 : Group.weights ∈ G) (g6 : Group.adapters ∈ G) (g7 : Group.bb ∈ G) (g8 : Group.events ∈ G) (g9 : Group.reach ∈ G) : Fine G s (execGoodbye l h addr s) := by
  unfold execGoodbye
  repeat' first
    | with_reducible exact Kept.refl _ _
    | with_reducible assumption
    | with_reducible apply recvFlit_fine
    | refine fine_next ?_
    | with_reducible apply goodbye_kept
    | with_reducible refine kept_ite (fun _ => ?_) (fun _ => ?_)
    | (exact of_decide_eq_true ‹_›)
    | split
    | exact Nat.le_refl _
    | exact fun _ => rfl
    | exact fun hb => hb
    | (intro _ _)
    | (intro _)
    | with_reducible rfl

/-- What `execRoute` can change. -/
theorem execRoute_fine (l : Nat) (h : FlitHdr) (entries : List (Nat × Nat)) (s : State) (g1 : Group.tide ∈ G) (g2 : Group.cb ∈ G) (g3 : Group.ports ∈ G) (g4 : Group.pipe ∈ G) (g5 : Group.weights ∈ G) (g6 : Group.adapters ∈ G) (g7 : Group.bb ∈ G) (g8 : Group.events ∈ G) (g9 : Group.reach ∈ G) : Fine G s (execRoute l h entries s) := by
  unfold execRoute
  repeat' first
    | with_reducible exact Kept.refl _ _
    | with_reducible assumption
    | with_reducible apply recvFlit_fine
    | refine fine_next ?_
    | with_reducible apply routeArrives_kept
    | with_reducible refine kept_ite (fun _ => ?_) (fun _ => ?_)
    | (exact of_decide_eq_true ‹_›)
    | split
    | exact Nat.le_refl _
    | exact fun _ => rfl
    | exact fun hb => hb
    | (intro _ _)
    | (intro _)
    | with_reducible rfl

/-- What `execAddrAssign` can change. -/
theorem execAddrAssign_fine (value : Word) (s : State) (g1 : Group.cb ∈ G) (g2 : Group.ports ∈ G) (g3 : Group.pipe ∈ G) (g4 : Group.weights ∈ G) (g5 : Group.adapters ∈ G) (g6 : Group.bb ∈ G) (g7 : Group.events ∈ G) (g8 : Group.reach ∈ G) (g9 : Group.resp ∈ G) : Fine G s (execAddrAssign value s) := by
  unfold execAddrAssign
  repeat' first
    | with_reducible exact Kept.refl _ _
    | with_reducible assumption
    | refine fine_next ?_
    | with_reducible apply mgWrite_kept
    | with_reducible apply writeAddr_kept
    | with_reducible refine kept_ite (fun _ => ?_) (fun _ => ?_)
    | (exact of_decide_eq_true ‹_›)
    | split
    | exact Nat.le_refl _
    | exact fun _ => rfl
    | exact fun hb => hb
    | (intro _ _)
    | (intro _)
    | with_reducible rfl

/-- What `execJoin` can change. -/
theorem execJoin_fine (l : Nat) (h : FlitHdr) (addr : Nat) (sig : List Byte) (live sealed : Word) (s : State) (g1 : Group.tide ∈ G) (g2 : Group.cb ∈ G) (g3 : Group.ports ∈ G) (g4 : Group.pipe ∈ G) (g5 : Group.weights ∈ G) (g6 : Group.adapters ∈ G) (g7 : Group.bb ∈ G) (g8 : Group.events ∈ G) (g9 : Group.reach ∈ G) : Fine G s (execJoin l h addr sig live sealed s) := by
  unfold execJoin
  repeat' first
    | with_reducible exact Kept.refl _ _
    | with_reducible assumption
    | with_reducible apply recvFlit_fine
    | refine fine_next ?_
    | with_reducible apply joinArrives_kept
    | with_reducible refine kept_ite (fun _ => ?_) (fun _ => ?_)
    | (exact of_decide_eq_true ‹_›)
    | split
    | exact Nat.le_refl _
    | exact fun _ => rfl
    | exact fun hb => hb
    | (intro _ _)
    | (intro _)
    | with_reducible rfl

/-- What `execPlacement` can change. -/
theorem execPlacement_fine (l : Nat) (hs : List FlitHdr) (r : RecHdr) (bytes : List Byte) (s : State) (g1 : Group.tide ∈ G) (g2 : Group.cb ∈ G) (g3 : Group.ports ∈ G) (g4 : Group.pipe ∈ G) (g5 : Group.weights ∈ G) (g6 : Group.adapters ∈ G) (g7 : Group.bb ∈ G) (g8 : Group.events ∈ G) (g9 : Group.reach ∈ G) : Fine G s (execPlacement l hs r bytes s) := by
  unfold execPlacement
  repeat' first
    | with_reducible exact Kept.refl _ _
    | with_reducible assumption
    | with_reducible apply recvRecord_fine
    | refine fine_next ?_
    | with_reducible apply placementArrives_kept
    | with_reducible refine kept_ite (fun _ => ?_) (fun _ => ?_)
    | (exact of_decide_eq_true ‹_›)
    | split
    | exact Nat.le_refl _
    | exact fun _ => rfl
    | exact fun hb => hb
    | (intro _ _)
    | (intro _)
    | with_reducible rfl

/-- What `execAdmit` can change. -/
theorem execAdmit_fine (l : Nat) (h : FlitHdr) (s : State) (g1 : Group.tide ∈ G) (g2 : Group.cb ∈ G) (g3 : Group.ports ∈ G) (g4 : Group.pipe ∈ G) (g5 : Group.weights ∈ G) (g6 : Group.adapters ∈ G) (g7 : Group.bb ∈ G) (g8 : Group.events ∈ G) (g9 : Group.reach ∈ G) : Fine G s (execAdmit l h s) := by
  unfold execAdmit
  repeat' first
    | with_reducible exact Kept.refl _ _
    | with_reducible assumption
    | with_reducible apply recvFlit_fine
    | refine fine_next ?_
    | with_reducible apply admitted_kept
    | with_reducible refine kept_ite (fun _ => ?_) (fun _ => ?_)
    | (exact of_decide_eq_true ‹_›)
    | split
    | exact Nat.le_refl _
    | exact fun _ => rfl
    | exact fun hb => hb
    | (intro _ _)
    | (intro _)
    | with_reducible rfl

/-- What `execRefuse` can change. -/
theorem execRefuse_fine (l : Nat) (h : FlitHdr) (reason : Nat) (s : State) (g1 : Group.tide ∈ G) (g2 : Group.cb ∈ G) (g3 : Group.ports ∈ G) (g4 : Group.pipe ∈ G) (g5 : Group.weights ∈ G) (g6 : Group.adapters ∈ G) (g7 : Group.bb ∈ G) (g8 : Group.events ∈ G) (g9 : Group.reach ∈ G) : Fine G s (execRefuse l h reason s) := by
  unfold execRefuse
  repeat' first
    | with_reducible exact Kept.refl _ _
    | with_reducible assumption
    | with_reducible apply recvFlit_fine
    | refine fine_next ?_
    | with_reducible apply refused_kept
    | with_reducible refine kept_ite (fun _ => ?_) (fun _ => ?_)
    | (exact of_decide_eq_true ‹_›)
    | split
    | exact Nat.le_refl _
    | exact fun _ => rfl
    | exact fun hb => hb
    | (intro _ _)
    | (intro _)
    | with_reducible rfl

/-- What `execSealed` can change. -/
theorem execSealed_fine (l : Nat) (h : FlitHdr) (stp : Word) (s : State) (g1 : Group.tide ∈ G) (g2 : Group.cb ∈ G) (g3 : Group.ports ∈ G) (g4 : Group.pipe ∈ G) (g5 : Group.weights ∈ G) (g6 : Group.adapters ∈ G) (g7 : Group.bb ∈ G) (g8 : Group.events ∈ G) (g9 : Group.reach ∈ G) : Fine G s (execSealed l h stp s) := by
  unfold execSealed
  repeat' first
    | with_reducible exact Kept.refl _ _
    | with_reducible assumption
    | with_reducible apply recvFlit_fine
    | refine fine_next ?_
    | with_reducible apply sealedArrives_kept
    | with_reducible refine kept_ite (fun _ => ?_) (fun _ => ?_)
    | (exact of_decide_eq_true ‹_›)
    | split
    | exact Nat.le_refl _
    | exact fun _ => rfl
    | exact fun hb => hb
    | (intro _ _)
    | (intro _)
    | with_reducible rfl

/-- What `execDomainArm` can change. -/
theorem execDomainArm_fine (l : Nat) (h : FlitHdr) (stp : Word) (tide : Dword) (s : State) (g1 : Group.tide ∈ G) (g2 : Group.cb ∈ G) (g3 : Group.ports ∈ G) (g4 : Group.pipe ∈ G) (g5 : Group.weights ∈ G) (g6 : Group.adapters ∈ G) (g7 : Group.bb ∈ G) (g8 : Group.events ∈ G) (g9 : Group.reach ∈ G) : Fine G s (execDomainArm l h stp tide s) := by
  unfold execDomainArm
  repeat' first
    | with_reducible exact Kept.refl _ _
    | with_reducible assumption
    | with_reducible apply recvFlit_fine
    | refine fine_next ?_
    | with_reducible apply armArrives_kept
    | with_reducible refine kept_ite (fun _ => ?_) (fun _ => ?_)
    | (exact of_decide_eq_true ‹_›)
    | split
    | exact Nat.le_refl _
    | exact fun _ => rfl
    | exact fun hb => hb
    | (intro _ _)
    | (intro _)
    | with_reducible rfl

/-- What `execDomainDisarm` can change. -/
theorem execDomainDisarm_fine (l : Nat) (h : FlitHdr) (stp : Word) (tide : Dword) (s : State) (g1 : Group.tide ∈ G) (g2 : Group.cb ∈ G) (g3 : Group.ports ∈ G) (g4 : Group.pipe ∈ G) (g5 : Group.weights ∈ G) (g6 : Group.adapters ∈ G) (g7 : Group.bb ∈ G) (g8 : Group.events ∈ G) (g9 : Group.reach ∈ G) : Fine G s (execDomainDisarm l h stp tide s) := by
  unfold execDomainDisarm
  repeat' first
    | with_reducible exact Kept.refl _ _
    | with_reducible assumption
    | with_reducible apply recvFlit_fine
    | refine fine_next ?_
    | with_reducible apply disarmArrives_kept
    | with_reducible refine kept_ite (fun _ => ?_) (fun _ => ?_)
    | (exact of_decide_eq_true ‹_›)
    | split
    | exact Nat.le_refl _
    | exact fun _ => rfl
    | exact fun hb => hb
    | (intro _ _)
    | (intro _)
    | with_reducible rfl

/-- What `execFire` can change. -/
theorem execFire_fine (l : Nat) (h : FlitHdr) (stp : Word) (s : State) (g1 : Group.tide ∈ G) (g2 : Group.cb ∈ G) (g3 : Group.ports ∈ G) (g4 : Group.pipe ∈ G) (g5 : Group.weights ∈ G) (g6 : Group.adapters ∈ G) (g7 : Group.bb ∈ G) (g8 : Group.events ∈ G) (g9 : Group.reach ∈ G) : Fine G s (execFire l h stp s) := by
  unfold execFire
  repeat' first
    | with_reducible exact Kept.refl _ _
    | with_reducible assumption
    | with_reducible apply recvFlit_fine
    | refine fine_next ?_
    | with_reducible apply fireArrives_kept
    | with_reducible refine kept_ite (fun _ => ?_) (fun _ => ?_)
    | (exact of_decide_eq_true ‹_›)
    | split
    | exact Nat.le_refl _
    | exact fun _ => rfl
    | exact fun hb => hb
    | (intro _ _)
    | (intro _)
    | with_reducible rfl

/-- What `execLost` can change. -/
theorem execLost_fine (l : Nat) (h : FlitHdr) (_addr : Nat) (s : State) (g1 : Group.tide ∈ G) (g2 : Group.cb ∈ G) (g3 : Group.ports ∈ G) (g4 : Group.pipe ∈ G) (g5 : Group.weights ∈ G) (g6 : Group.adapters ∈ G) (g7 : Group.bb ∈ G) (g8 : Group.events ∈ G) (g9 : Group.reach ∈ G) : Fine G s (execLost l h _addr s) := by
  unfold execLost
  repeat' first
    | with_reducible exact Kept.refl _ _
    | with_reducible assumption
    | with_reducible apply recvFlit_fine
    | refine fine_next ?_
    | with_reducible apply lostArrives_kept
    | with_reducible refine kept_ite (fun _ => ?_) (fun _ => ?_)
    | (exact of_decide_eq_true ‹_›)
    | split
    | exact Nat.le_refl _
    | exact fun _ => rfl
    | exact fun hb => hb
    | (intro _ _)
    | (intro _)
    | with_reducible rfl

/-- What `execMcast` can change. -/
theorem execMcast_fine (l : Nat) (h : FlitHdr) (g : Nat) (seg : List Byte) (s : State) (g1 : Group.tide ∈ G) (g2 : Group.cb ∈ G) (g3 : Group.ports ∈ G) (g4 : Group.pipe ∈ G) (g5 : Group.weights ∈ G) (g6 : Group.adapters ∈ G) (g7 : Group.bb ∈ G) (g8 : Group.events ∈ G) (g9 : Group.reach ∈ G) : Fine G s (execMcast l h g seg s) := by
  unfold execMcast
  repeat' first
    | with_reducible exact Kept.refl _ _
    | with_reducible assumption
    | with_reducible apply recvFlit_fine
    | refine fine_next ?_
    | with_reducible apply mcastArrives_kept
    | with_reducible refine kept_ite (fun _ => ?_) (fun _ => ?_)
    | (exact of_decide_eq_true ‹_›)
    | split
    | exact Nat.le_refl _
    | exact fun _ => rfl
    | exact fun hb => hb
    | (intro _ _)
    | (intro _)
    | with_reducible rfl

/-- What `execMcastReport` can change. -/
theorem execMcastReport_fine (l : Nat) (h : FlitHdr) (g : Nat) (stp : Word) (s : State) (g1 : Group.tide ∈ G) (g2 : Group.cb ∈ G) (g3 : Group.ports ∈ G) (g4 : Group.pipe ∈ G) (g5 : Group.weights ∈ G) (g6 : Group.adapters ∈ G) (g7 : Group.bb ∈ G) (g8 : Group.events ∈ G) (g9 : Group.reach ∈ G) : Fine G s (execMcastReport l h g stp s) := by
  unfold execMcastReport
  repeat' first
    | with_reducible exact Kept.refl _ _
    | with_reducible assumption
    | with_reducible apply recvFlit_fine
    | refine fine_next ?_
    | with_reducible apply reportArrives_kept
    | with_reducible refine kept_ite (fun _ => ?_) (fun _ => ?_)
    | (exact of_decide_eq_true ‹_›)
    | split
    | exact Nat.le_refl _
    | exact fun _ => rfl
    | exact fun hb => hb
    | (intro _ _)
    | (intro _)
    | with_reducible rfl

/-- What `execDepart` can change. -/
theorem execDepart_fine (l : Nat) (h : FlitHdr) (s : State) (g1 : Group.tide ∈ G) (g2 : Group.cb ∈ G) (g3 : Group.ports ∈ G) (g4 : Group.pipe ∈ G) (g5 : Group.weights ∈ G) (g6 : Group.adapters ∈ G) (g7 : Group.bb ∈ G) (g8 : Group.events ∈ G) (g9 : Group.reach ∈ G) : Fine G s (execDepart l h s) := by
  unfold execDepart
  repeat' first
    | with_reducible exact Kept.refl _ _
    | with_reducible assumption
    | with_reducible apply recvFlit_fine
    | refine fine_next ?_
    | with_reducible apply departArrives_kept
    | with_reducible refine kept_ite (fun _ => ?_) (fun _ => ?_)
    | (exact of_decide_eq_true ‹_›)
    | split
    | exact Nat.le_refl _
    | exact fun _ => rfl
    | exact fun hb => hb
    | (intro _ _)
    | (intro _)
    | with_reducible rfl

/-- What `execSheetOpen` can change. -/
theorem execSheetOpen_fine (l : Nat) (hs : List FlitHdr) (r : RecHdr) (seq : Nat) (live genId : Word) (slots order : Nat) (s : State) (g1 : Group.tide ∈ G) (g2 : Group.cb ∈ G) (g3 : Group.ports ∈ G) (g4 : Group.pipe ∈ G) (g5 : Group.weights ∈ G) (g6 : Group.adapters ∈ G) (g7 : Group.bb ∈ G) (g8 : Group.events ∈ G) (g9 : Group.reach ∈ G) : Fine G s (execSheetOpen l hs r seq live genId slots order s) := by
  unfold execSheetOpen
  repeat' first
    | with_reducible exact Kept.refl _ _
    | with_reducible assumption
    | with_reducible apply recvRecord_fine
    | refine fine_next ?_
    | with_reducible apply sheetOpens_kept
    | with_reducible refine kept_ite (fun _ => ?_) (fun _ => ?_)
    | (exact of_decide_eq_true ‹_›)
    | split
    | exact Nat.le_refl _
    | exact fun _ => rfl
    | exact fun hb => hb
    | (intro _ _)
    | (intro _)
    | with_reducible rfl

/-- What `execRowCtl` can change. -/
theorem execRowCtl_fine (l : Nat) (hs : List FlitHdr) (r : RecHdr) (c : CtlWord) (s : State) (g1 : Group.tide ∈ G) (g2 : Group.cb ∈ G) (g3 : Group.ports ∈ G) (g4 : Group.pipe ∈ G) (g5 : Group.weights ∈ G) (g6 : Group.adapters ∈ G) (g7 : Group.bb ∈ G) (g8 : Group.events ∈ G) (g9 : Group.reach ∈ G) : Fine G s (execRowCtl l hs r c s) := by
  unfold execRowCtl
  repeat' first
    | with_reducible exact Kept.refl _ _
    | with_reducible assumption
    | with_reducible apply recvRecord_fine
    | refine fine_next ?_
    | with_reducible apply rowOpens_kept
    | with_reducible refine kept_ite (fun _ => ?_) (fun _ => ?_)
    | (exact of_decide_eq_true ‹_›)
    | split
    | exact Nat.le_refl _
    | exact fun _ => rfl
    | exact fun hb => hb
    | (intro _ _)
    | (intro _)
    | with_reducible rfl

/-- What `execBrine` can change. -/
theorem execBrine_fine (l : Nat) (hs : List FlitHdr) (r : RecHdr) (bs : List Byte) (s : State) (g1 : Group.tide ∈ G) (g2 : Group.cb ∈ G) (g3 : Group.ports ∈ G) (g4 : Group.pipe ∈ G) (g5 : Group.weights ∈ G) (g6 : Group.adapters ∈ G) (g7 : Group.bb ∈ G) (g8 : Group.events ∈ G) (g9 : Group.reach ∈ G) : Fine G s (execBrine l hs r bs s) := by
  unfold execBrine
  repeat' first
    | with_reducible exact Kept.refl _ _
    | with_reducible assumption
    | with_reducible apply recvRecord_fine
    | refine fine_next ?_
    | with_reducible apply brineArrives_kept
    | with_reducible refine kept_ite (fun _ => ?_) (fun _ => ?_)
    | (exact of_decide_eq_true ‹_›)
    | split
    | exact Nat.le_refl _
    | exact fun _ => rfl
    | exact fun hb => hb
    | (intro _ _)
    | (intro _)
    | with_reducible rfl

/-- What `execGrader` can change. -/
theorem execGrader_fine (l : Nat) (hs : List FlitHdr) (r : RecHdr) (bs : List Byte) (s : State) (g1 : Group.tide ∈ G) (g2 : Group.ca ∈ G) (g3 : Group.cb ∈ G) (g4 : Group.ports ∈ G) (g5 : Group.pipe ∈ G) (g6 : Group.weights ∈ G) (g7 : Group.adapters ∈ G) (g8 : Group.bb ∈ G) (g9 : Group.events ∈ G) (g10 : Group.reach ∈ G) : Fine G s (execGrader l hs r bs s) := by
  unfold execGrader
  repeat' first
    | with_reducible exact Kept.refl _ _
    | with_reducible assumption
    | with_reducible apply recvRecord_fine
    | refine fine_next ?_
    | with_reducible apply graderArrives_kept
    | with_reducible refine kept_ite (fun _ => ?_) (fun _ => ?_)
    | (exact of_decide_eq_true ‹_›)
    | split
    | exact Nat.le_refl _
    | exact fun _ => rfl
    | exact fun hb => hb
    | (intro _ _)
    | (intro _)
    | with_reducible rfl

/-- What `execMask` can change. -/
theorem execMask_fine (l : Nat) (hs : List FlitHdr) (r : RecHdr) (ref : Nat) (s : State) (g1 : Group.tide ∈ G) (g2 : Group.cb ∈ G) (g3 : Group.ports ∈ G) (g4 : Group.pipe ∈ G) (g5 : Group.weights ∈ G) (g6 : Group.adapters ∈ G) (g7 : Group.bb ∈ G) (g8 : Group.events ∈ G) (g9 : Group.reach ∈ G) : Fine G s (execMask l hs r ref s) := by
  unfold execMask
  repeat' first
    | with_reducible exact Kept.refl _ _
    | with_reducible assumption
    | with_reducible apply recvRecord_fine
    | refine fine_next ?_
    | with_reducible apply maskArrives_kept
    | with_reducible refine kept_ite (fun _ => ?_) (fun _ => ?_)
    | (exact of_decide_eq_true ‹_›)
    | split
    | exact Nat.le_refl _
    | exact fun _ => rfl
    | exact fun hb => hb
    | (intro _ _)
    | (intro _)
    | with_reducible rfl

/-- What `execWatch` can change. -/
theorem execWatch_fine (l : Nat) (hs : List FlitHdr) (r : RecHdr) (toks : List Nat) (s : State) (g1 : Group.tide ∈ G) (g2 : Group.cb ∈ G) (g3 : Group.ports ∈ G) (g4 : Group.pipe ∈ G) (g5 : Group.weights ∈ G) (g6 : Group.adapters ∈ G) (g7 : Group.bb ∈ G) (g8 : Group.events ∈ G) (g9 : Group.reach ∈ G) : Fine G s (execWatch l hs r toks s) := by
  unfold execWatch
  repeat' first
    | with_reducible exact Kept.refl _ _
    | with_reducible assumption
    | with_reducible apply recvRecord_fine
    | refine fine_next ?_
    | with_reducible apply watchArrives_kept
    | with_reducible refine kept_ite (fun _ => ?_) (fun _ => ?_)
    | (exact of_decide_eq_true ‹_›)
    | split
    | exact Nat.le_refl _
    | exact fun _ => rfl
    | exact fun hb => hb
    | (intro _ _)
    | (intro _)
    | with_reducible rfl

/-- What `execPass` can change. -/
theorem execPass_fine (l : Nat) (hs : List FlitHdr) (r : RecHdr) (c : CtlWord) (s : State) (g1 : Group.tide ∈ G) (g2 : Group.cb ∈ G) (g3 : Group.ports ∈ G) (g4 : Group.pipe ∈ G) (g5 : Group.weights ∈ G) (g6 : Group.adapters ∈ G) (g7 : Group.bb ∈ G) (g8 : Group.events ∈ G) (g9 : Group.reach ∈ G) : Fine G s (execPass l hs r c s) := by
  unfold execPass
  repeat' first
    | with_reducible exact Kept.refl _ _
    | with_reducible assumption
    | with_reducible apply recvRecord_fine
    | refine fine_next ?_
    | with_reducible apply passArrives_kept
    | with_reducible refine kept_ite (fun _ => ?_) (fun _ => ?_)
    | (exact of_decide_eq_true ‹_›)
    | split
    | exact Nat.le_refl _
    | exact fun _ => rfl
    | exact fun hb => hb
    | (intro _ _)
    | (intro _)
    | with_reducible rfl

/-- What `execAbort` can change. -/
theorem execAbort_fine (l : Nat) (hs : List FlitHdr) (r : RecHdr) (seq : Nat) (s : State) (g1 : Group.tide ∈ G) (g2 : Group.cb ∈ G) (g3 : Group.ports ∈ G) (g4 : Group.pipe ∈ G) (g5 : Group.weights ∈ G) (g6 : Group.adapters ∈ G) (g7 : Group.bb ∈ G) (g8 : Group.events ∈ G) (g9 : Group.reach ∈ G) : Fine G s (execAbort l hs r seq s) := by
  unfold execAbort
  repeat' first
    | with_reducible exact Kept.refl _ _
    | with_reducible assumption
    | with_reducible apply recvRecord_fine
    | refine fine_next ?_
    | with_reducible apply sheetAborts_kept
    | with_reducible refine kept_ite (fun _ => ?_) (fun _ => ?_)
    | (exact of_decide_eq_true ‹_›)
    | split
    | exact Nat.le_refl _
    | exact fun _ => rfl
    | exact fun hb => hb
    | (intro _ _)
    | (intro _)
    | with_reducible rfl

/-- What `execAdapter` can change. -/
theorem execAdapter_fine (l : Nat) (hs : List FlitHdr) (r : RecHdr) (v handle rank : Nat) (bytes : List Byte) (s : State) (g1 : Group.tide ∈ G) (g2 : Group.cb ∈ G) (g3 : Group.ports ∈ G) (g4 : Group.pipe ∈ G) (g5 : Group.brine ∈ G) (g6 : Group.weights ∈ G) (g7 : Group.adapters ∈ G) (g8 : Group.bb ∈ G) (g9 : Group.events ∈ G) (g10 : Group.reach ∈ G) : Fine G s (execAdapter l hs r v handle rank bytes s) := by
  unfold execAdapter
  repeat' first
    | with_reducible exact Kept.refl _ _
    | with_reducible assumption
    | with_reducible apply recvRecord_fine
    | refine fine_next ?_
    | with_reducible apply adapterArrives_kept
    | with_reducible refine kept_ite (fun _ => ?_) (fun _ => ?_)
    | (exact of_decide_eq_true ‹_›)
    | split
    | exact Nat.le_refl _
    | exact fun _ => rfl
    | exact fun hb => hb
    | (intro _ _)
    | (intro _)
    | with_reducible rfl

/-- What `execAdapterWritten` can change. -/
theorem execAdapterWritten_fine (s : State) (g1 : Group.ports ∈ G) (g2 : Group.brine ∈ G) (g3 : Group.adapters ∈ G) (g4 : Group.events ∈ G) (g5 : Group.reach ∈ G) : Fine G s (execAdapterWritten s) := by
  unfold execAdapterWritten
  repeat' first
    | with_reducible exact Kept.refl _ _
    | with_reducible assumption
    | refine fine_when (fun _ => ?_) ?_
    | refine fine_next ?_
    | with_reducible apply writeLoad_kept
    | with_reducible apply settleRecords_kept
    | with_reducible refine kept_ite (fun _ => ?_) (fun _ => ?_)
    | (exact of_decide_eq_true ‹_›)
    | split
    | exact Nat.le_refl _
    | exact fun _ => rfl
    | exact fun hb => hb
    | (intro _ _)
    | (intro _)
    | with_reducible rfl

/-- What `execAdapterFree` can change. -/
theorem execAdapterFree_fine (l : Nat) (hs : List FlitHdr) (r : RecHdr) (v : Nat) (s : State) (g1 : Group.tide ∈ G) (g2 : Group.cb ∈ G) (g3 : Group.ports ∈ G) (g4 : Group.pipe ∈ G) (g5 : Group.brine ∈ G) (g6 : Group.weights ∈ G) (g7 : Group.adapters ∈ G) (g8 : Group.bb ∈ G) (g9 : Group.events ∈ G) (g10 : Group.reach ∈ G) : Fine G s (execAdapterFree l hs r v s) := by
  unfold execAdapterFree
  repeat' first
    | with_reducible exact Kept.refl _ _
    | with_reducible assumption
    | with_reducible apply recvRecord_fine
    | refine fine_next ?_
    | with_reducible apply adapterFrees_kept
    | with_reducible refine kept_ite (fun _ => ?_) (fun _ => ?_)
    | (exact of_decide_eq_true ‹_›)
    | split
    | exact Nat.le_refl _
    | exact fun _ => rfl
    | exact fun hb => hb
    | (intro _ _)
    | (intro _)
    | with_reducible rfl

/-- What `execAdapterDone` can change. -/
theorem execAdapterDone_fine (l : Nat) (hs : List FlitHdr) (r : RecHdr) (v result : Nat) (s : State) (g1 : Group.tide ∈ G) (g2 : Group.cb ∈ G) (g3 : Group.ports ∈ G) (g4 : Group.pipe ∈ G) (g5 : Group.weights ∈ G) (g6 : Group.adapters ∈ G) (g7 : Group.bb ∈ G) (g8 : Group.events ∈ G) (g9 : Group.reach ∈ G) : Fine G s (execAdapterDone l hs r v result s) := by
  unfold execAdapterDone
  repeat' first
    | with_reducible exact Kept.refl _ _
    | with_reducible assumption
    | with_reducible apply recvRecord_fine
    | refine fine_next ?_
    | with_reducible apply doneArrives_kept
    | with_reducible refine kept_ite (fun _ => ?_) (fun _ => ?_)
    | (exact of_decide_eq_true ‹_›)
    | split
    | exact Nat.le_refl _
    | exact fun _ => rfl
    | exact fun hb => hb
    | (intro _ _)
    | (intro _)
    | with_reducible rfl

/-- What `execWindrow` can change. -/
theorem execWindrow_fine (l : Nat) (hs : List FlitHdr) (r : RecHdr) (es : List (Nat × F32)) (s : State) (g1 : Group.tide ∈ G) (g2 : Group.cb ∈ G) (g3 : Group.ports ∈ G) (g4 : Group.pipe ∈ G) (g5 : Group.weights ∈ G) (g6 : Group.adapters ∈ G) (g7 : Group.bb ∈ G) (g8 : Group.events ∈ G) (g9 : Group.reach ∈ G) : Fine G s (execWindrow l hs r es s) := by
  unfold execWindrow
  repeat' first
    | with_reducible exact Kept.refl _ _
    | with_reducible assumption
    | with_reducible apply recvRecord_fine
    | refine fine_next ?_
    | with_reducible apply windrowArrives_kept
    | with_reducible apply fromChild_kept
    | with_reducible refine kept_ite (fun _ => ?_) (fun _ => ?_)
    | (exact of_decide_eq_true ‹_›)
    | split
    | exact Nat.le_refl _
    | exact fun _ => rfl
    | exact fun hb => hb
    | (intro _ _)
    | (intro _)
    | with_reducible rfl

/-- What `execStats` can change. -/
theorem execStats_fine (l : Nat) (hs : List FlitHdr) (r : RecHdr) (bs : List Byte) (s : State) (g1 : Group.tide ∈ G) (g2 : Group.cb ∈ G) (g3 : Group.ports ∈ G) (g4 : Group.pipe ∈ G) (g5 : Group.weights ∈ G) (g6 : Group.adapters ∈ G) (g7 : Group.bb ∈ G) (g8 : Group.events ∈ G) (g9 : Group.reach ∈ G) : Fine G s (execStats l hs r bs s) := by
  unfold execStats
  repeat' first
    | with_reducible exact Kept.refl _ _
    | with_reducible assumption
    | with_reducible apply recvRecord_fine
    | refine fine_next ?_
    | with_reducible apply partArrives_kept
    | with_reducible apply fromChild_kept
    | with_reducible refine kept_ite (fun _ => ?_) (fun _ => ?_)
    | (exact of_decide_eq_true ‹_›)
    | split
    | exact Nat.le_refl _
    | exact fun _ => rfl
    | exact fun hb => hb
    | (intro _ _)
    | (intro _)
    | with_reducible rfl

/-- What `execVector` can change. -/
theorem execVector_fine (l : Nat) (hs : List FlitHdr) (r : RecHdr) (v : VectorRec) (s : State) (g1 : Group.tide ∈ G) (g2 : Group.cb ∈ G) (g3 : Group.ports ∈ G) (g4 : Group.pipe ∈ G) (g5 : Group.weights ∈ G) (g6 : Group.adapters ∈ G) (g7 : Group.bb ∈ G) (g8 : Group.events ∈ G) (g9 : Group.reach ∈ G) : Fine G s (execVector l hs r v s) := by
  unfold execVector
  repeat' first
    | with_reducible exact Kept.refl _ _
    | with_reducible assumption
    | with_reducible apply recvRecord_fine
    | refine fine_next ?_
    | with_reducible apply fromChild_kept
    | with_reducible apply vectorArrives_kept
    | with_reducible refine kept_ite (fun _ => ?_) (fun _ => ?_)
    | (exact of_decide_eq_true ‹_›)
    | split
    | exact Nat.le_refl _
    | exact fun _ => rfl
    | exact fun hb => hb
    | (intro _ _)
    | (intro _)
    | with_reducible rfl

/-- What `execReject` can change. -/
theorem execReject_fine (l : Nat) (hs : List FlitHdr) (r : RecHdr) (reason : Nat) (s : State) (g1 : Group.tide ∈ G) (g2 : Group.cb ∈ G) (g3 : Group.ports ∈ G) (g4 : Group.pipe ∈ G) (g5 : Group.weights ∈ G) (g6 : Group.adapters ∈ G) (g7 : Group.bb ∈ G) (g8 : Group.events ∈ G) (g9 : Group.reach ∈ G) : Fine G s (execReject l hs r reason s) := by
  unfold execReject
  repeat' first
    | with_reducible exact Kept.refl _ _
    | with_reducible assumption
    | with_reducible apply recvRecord_fine
    | refine fine_next ?_
    | with_reducible apply fromChild_kept
    | with_reducible apply rejectArrives_kept
    | with_reducible refine kept_ite (fun _ => ?_) (fun _ => ?_)
    | (exact of_decide_eq_true ‹_›)
    | split
    | exact Nat.le_refl _
    | exact fun _ => rfl
    | exact fun hb => hb
    | (intro _ _)
    | (intro _)
    | with_reducible rfl

/-- What `execProgress` can change. -/
theorem execProgress_fine (l : Nat) (hs : List FlitHdr) (r : RecHdr) (seq : Nat) (s : State) (g1 : Group.tide ∈ G) (g2 : Group.cb ∈ G) (g3 : Group.ports ∈ G) (g4 : Group.pipe ∈ G) (g5 : Group.weights ∈ G) (g6 : Group.adapters ∈ G) (g7 : Group.bb ∈ G) (g8 : Group.events ∈ G) (g9 : Group.reach ∈ G) : Fine G s (execProgress l hs r seq s) := by
  unfold execProgress
  repeat' first
    | with_reducible exact Kept.refl _ _
    | with_reducible assumption
    | with_reducible apply recvRecord_fine
    | refine fine_next ?_
    | with_reducible apply heard_kept
    | with_reducible apply fromChild_kept
    | with_reducible refine kept_foldl (fun _ _ _ => ?_) ?_
    | with_reducible refine kept_ite (fun _ => ?_) (fun _ => ?_)
    | (exact of_decide_eq_true ‹_›)
    | split
    | exact Nat.le_refl _
    | exact fun _ => rfl
    | exact fun hb => hb
    | (intro _ _)
    | (intro _)
    | with_reducible rfl

/-- What `execEvArbitrate` can change. -/
theorem execEvArbitrate_fine (s : State) (g1 : Group.events ∈ G) : Fine G s (execEvArbitrate s) := by
  unfold execEvArbitrate
  repeat' first
    | with_reducible exact Kept.refl _ _
    | with_reducible assumption
    | refine fine_when (fun _ => ?_) ?_
    | refine fine_next ?_
    | with_reducible apply arbitrate_kept
    | with_reducible refine kept_ite (fun _ => ?_) (fun _ => ?_)
    | (exact of_decide_eq_true ‹_›)
    | split
    | exact Nat.le_refl _
    | exact fun _ => rfl
    | exact fun hb => hb
    | (intro _ _)
    | (intro _)
    | with_reducible rfl

/-- What `execEvClaim` can change. -/
theorem execEvClaim_fine (t : Nat) (s : State) (g1 : Group.events ∈ G) (g2 : Group.resp ∈ G) : Fine G s (execEvClaim t s) := by
  unfold execEvClaim
  repeat' first
    | with_reducible exact Kept.refl _ _
    | with_reducible assumption
    | refine fine_forUnit fun _ => ?_
    | refine fine_next ?_
    | with_reducible apply chipRead_kept
    | with_reducible apply claim_kept
    | with_reducible refine kept_ite (fun _ => ?_) (fun _ => ?_)
    | (exact of_decide_eq_true ‹_›)
    | split
    | exact Nat.le_refl _
    | exact fun _ => rfl
    | exact fun hb => hb
    | (intro _ _)
    | (intro _)
    | with_reducible rfl

/-- What `execEvComplete` can change. -/
theorem execEvComplete_fine (t : Nat) (value : Word) (s : State) (g1 : Group.events ∈ G) (g2 : Group.resp ∈ G) : Fine G s (execEvComplete t value s) := by
  unfold execEvComplete
  repeat' first
    | with_reducible exact Kept.refl _ _
    | with_reducible assumption
    | refine fine_forUnit fun _ => ?_
    | refine fine_next ?_
    | with_reducible apply chipWrite_kept
    | with_reducible apply complete_kept
    | with_reducible refine kept_ite (fun _ => ?_) (fun _ => ?_)
    | (exact of_decide_eq_true ‹_›)
    | split
    | exact Nat.le_refl _
    | exact fun _ => rfl
    | exact fun hb => hb
    | (intro _ _)
    | (intro _)
    | with_reducible rfl

/-- What `execFlush` can change. -/
theorem execFlush_fine (t : Nat) (value : Word) (s : State) (g1 : Group.events ∈ G) (g2 : Group.resp ∈ G) : Fine G s (execFlush t value s) := by
  unfold execFlush
  repeat' first
    | with_reducible exact Kept.refl _ _
    | with_reducible assumption
    | refine fine_forUnit fun _ => ?_
    | refine fine_next ?_
    | with_reducible apply chipWrite_kept
    | with_reducible apply writeTgtCtl_kept
    | with_reducible refine kept_ite (fun _ => ?_) (fun _ => ?_)
    | (exact of_decide_eq_true ‹_›)
    | split
    | exact Nat.le_refl _
    | exact fun _ => rfl
    | exact fun hb => hb
    | (intro _ _)
    | (intro _)
    | with_reducible rfl

/-- What `execEvPendingSet` can change. -/
theorem execEvPendingSet_fine (w : Nat) (x : Word) (s : State) (g1 : Group.events ∈ G) (g2 : Group.resp ∈ G) : Fine G s (execEvPendingSet w x s) := by
  unfold execEvPendingSet
  repeat' first
    | with_reducible exact Kept.refl _ _
    | with_reducible assumption
    | refine fine_forUnit fun _ => ?_
    | refine fine_next ?_
    | with_reducible apply chipWrite_kept
    | with_reducible apply pendingSet_kept
    | with_reducible refine kept_ite (fun _ => ?_) (fun _ => ?_)
    | (exact of_decide_eq_true ‹_›)
    | split
    | exact Nat.le_refl _
    | exact fun _ => rfl
    | exact fun hb => hb
    | (intro _ _)
    | (intro _)
    | with_reducible rfl

/-- What `execEvPendingClr` can change. -/
theorem execEvPendingClr_fine (w : Nat) (x : Word) (s : State) (g1 : Group.events ∈ G) (g2 : Group.resp ∈ G) : Fine G s (execEvPendingClr w x s) := by
  unfold execEvPendingClr
  repeat' first
    | with_reducible exact Kept.refl _ _
    | with_reducible assumption
    | refine fine_forUnit fun _ => ?_
    | refine fine_next ?_
    | with_reducible apply chipWrite_kept
    | with_reducible apply pendingClr_kept
    | with_reducible refine kept_ite (fun _ => ?_) (fun _ => ?_)
    | (exact of_decide_eq_true ‹_›)
    | split
    | exact Nat.le_refl _
    | exact fun _ => rfl
    | exact fun hb => hb
    | (intro _ _)
    | (intro _)
    | with_reducible rfl

/-- What `execEvMaskSet` can change. -/
theorem execEvMaskSet_fine (w : Nat) (x : Word) (s : State) (g1 : Group.events ∈ G) (g2 : Group.resp ∈ G) : Fine G s (execEvMaskSet w x s) := by
  unfold execEvMaskSet
  repeat' first
    | with_reducible exact Kept.refl _ _
    | with_reducible assumption
    | refine fine_forUnit fun _ => ?_
    | refine fine_next ?_
    | with_reducible apply chipWrite_kept
    | with_reducible apply maskSet_kept
    | with_reducible refine kept_ite (fun _ => ?_) (fun _ => ?_)
    | (exact of_decide_eq_true ‹_›)
    | split
    | exact Nat.le_refl _
    | exact fun _ => rfl
    | exact fun hb => hb
    | (intro _ _)
    | (intro _)
    | with_reducible rfl

/-- What `execEvMaskClr` can change. -/
theorem execEvMaskClr_fine (w : Nat) (x : Word) (s : State) (g1 : Group.events ∈ G) (g2 : Group.resp ∈ G) : Fine G s (execEvMaskClr w x s) := by
  unfold execEvMaskClr
  repeat' first
    | with_reducible exact Kept.refl _ _
    | with_reducible assumption
    | refine fine_forUnit fun _ => ?_
    | refine fine_next ?_
    | with_reducible apply chipWrite_kept
    | with_reducible apply maskClr_kept
    | with_reducible refine kept_ite (fun _ => ?_) (fun _ => ?_)
    | (exact of_decide_eq_true ‹_›)
    | split
    | exact Nat.le_refl _
    | exact fun _ => rfl
    | exact fun hb => hb
    | (intro _ _)
    | (intro _)
    | with_reducible rfl

/-- What `execEvModerationEnd` can change. -/
theorem execEvModerationEnd_fine (t : Nat) (s : State) (g1 : Group.events ∈ G) : Fine G s (execEvModerationEnd t s) := by
  unfold execEvModerationEnd
  try dsimp only
  repeat' first
    | with_reducible exact Kept.refl _ _
    | with_reducible assumption
    | refine fine_forUnit fun _ => ?_
    | refine fine_when (fun _ => ?_) ?_
    | refine fine_next ?_
    | with_reducible apply updTarget_kept
    | with_reducible refine kept_ite (fun _ => ?_) (fun _ => ?_)
    | (exact of_decide_eq_true ‹_›)
    | split
    | exact Nat.le_refl _
    | exact fun _ => rfl
    | exact fun hb => hb
    | (intro _ _)
    | (intro _)
    | with_reducible rfl

/-- What `execSleepChange` can change. -/
theorem execSleepChange_fine (t : Nat) (level : Bool) (s : State) (g1 : Group.events ∈ G) : Fine G s (execSleepChange t level s) := by
  unfold execSleepChange
  repeat' first
    | with_reducible exact Kept.refl _ _
    | with_reducible assumption
    | refine fine_forUnit fun _ => ?_
    | refine fine_when (fun _ => ?_) ?_
    | refine fine_next ?_
    | with_reducible apply updEvents_kept
    | with_reducible apply updTarget_kept
    | with_reducible refine kept_ite (fun _ => ?_) (fun _ => ?_)
    | (exact of_decide_eq_true ‹_›)
    | split
    | exact Nat.le_refl _
    | exact fun _ => rfl
    | exact fun hb => hb
    | (intro _ _)
    | (intro _)
    | with_reducible rfl

/-- What `execExtInputChange` can change. -/
theorem execExtInputChange_fine (n : Nat) (level : Bool) (s : State) (g1 : Group.power ∈ G) (g2 : Group.events ∈ G) : Fine G s (execExtInputChange n level s) := by
  unfold execExtInputChange
  repeat' first
    | with_reducible exact Kept.refl _ _
    | with_reducible assumption
    | refine fine_forUnit fun _ => ?_
    | refine fine_when (fun _ => ?_) ?_
    | refine fine_next ?_
    | with_reducible apply extRaw_kept
    | with_reducible refine kept_ite (fun _ => ?_) (fun _ => ?_)
    | (exact of_decide_eq_true ‹_›)
    | split
    | exact Nat.le_refl _
    | exact fun _ => rfl
    | exact fun hb => hb
    | (intro _ _)
    | (intro _)
    | with_reducible rfl

/-- What `execExtPulseAccept` can change. -/
theorem execExtPulseAccept_fine (n : Nat) (s : State) (g1 : Group.power ∈ G) (g2 : Group.events ∈ G) : Fine G s (execExtPulseAccept n s) := by
  unfold execExtPulseAccept
  repeat' first
    | with_reducible exact Kept.refl _ _
    | with_reducible assumption
    | refine fine_forUnit fun _ => ?_
    | refine fine_when (fun _ => ?_) ?_
    | refine fine_next ?_
    | with_reducible apply extAccept_kept
    | with_reducible refine kept_ite (fun _ => ?_) (fun _ => ?_)
    | (exact of_decide_eq_true ‹_›)
    | split
    | exact Nat.le_refl _
    | exact fun _ => rfl
    | exact fun hb => hb
    | (intro _ _)
    | (intro _)
    | with_reducible rfl

/-- What `execExtHoldoffEnd` can change. -/
theorem execExtHoldoffEnd_fine (n : Nat) (s : State) (g1 : Group.events ∈ G) : Fine G s (execExtHoldoffEnd n s) := by
  unfold execExtHoldoffEnd
  repeat' first
    | with_reducible exact Kept.refl _ _
    | with_reducible assumption
    | refine fine_forUnit fun _ => ?_
    | refine fine_when (fun _ => ?_) ?_
    | refine fine_next ?_
    | with_reducible apply updInput_kept
    | with_reducible refine kept_ite (fun _ => ?_) (fun _ => ?_)
    | (exact of_decide_eq_true ‹_›)
    | split
    | exact Nat.le_refl _
    | exact fun _ => rfl
    | exact fun hb => hb
    | (intro _ _)
    | (intro _)
    | with_reducible rfl

/-- What `execExtStuck` can change. -/
theorem execExtStuck_fine (n : Nat) (s : State) (g1 : Group.events ∈ G) : Fine G s (execExtStuck n s) := by
  unfold execExtStuck
  repeat' first
    | with_reducible exact Kept.refl _ _
    | with_reducible assumption
    | refine fine_forUnit fun _ => ?_
    | refine fine_when (fun _ => ?_) ?_
    | refine fine_next ?_
    | with_reducible apply quarantine_kept
    | with_reducible refine kept_ite (fun _ => ?_) (fun _ => ?_)
    | (exact of_decide_eq_true ‹_›)
    | split
    | exact Nat.le_refl _
    | exact fun _ => rfl
    | exact fun hb => hb
    | (intro _ _)
    | (intro _)
    | with_reducible rfl

/-- What `execEvExtQuarRelease` can change. -/
theorem execEvExtQuarRelease_fine (value : Word) (s : State) (g1 : Group.events ∈ G) (g2 : Group.resp ∈ G) : Fine G s (execEvExtQuarRelease value s) := by
  unfold execEvExtQuarRelease
  repeat' first
    | with_reducible exact Kept.refl _ _
    | with_reducible assumption
    | refine fine_next ?_
    | with_reducible apply chipWrite_kept
    | with_reducible apply quarRelease_kept
    | with_reducible refine kept_ite (fun _ => ?_) (fun _ => ?_)
    | (exact of_decide_eq_true ‹_›)
    | split
    | exact Nat.le_refl _
    | exact fun _ => rfl
    | exact fun hb => hb
    | (intro _ _)
    | (intro _)
    | with_reducible rfl

/-- What `execTideTick` can change. -/
theorem execTideTick_fine (s : State) (g1 : Group.tide ∈ G) (g2 : Group.cb ∈ G) : Fine G s (execTideTick s) := by
  unfold execTideTick
  repeat' first
    | with_reducible exact Kept.refl _ _
    | with_reducible assumption
    | refine fine_when (fun _ => ?_) ?_
    | refine fine_next ?_
    | with_reducible apply updTide_kept
    | with_reducible apply stallTick_kept
    | with_reducible refine kept_ite (fun _ => ?_) (fun _ => ?_)
    | (exact of_decide_eq_true ‹_›)
    | split
    | exact Nat.le_refl _
    | exact fun _ => rfl
    | exact fun hb => hb
    | (intro _ _)
    | (intro _)
    | with_reducible rfl

/-- What `execTideLost` can change. -/
theorem execTideLost_fine (s : State) (g1 : Group.tide ∈ G) (g2 : Group.bb ∈ G) (g3 : Group.events ∈ G) : Fine G s (execTideLost s) := by
  unfold execTideLost
  repeat' first
    | with_reducible exact Kept.refl _ _
    | with_reducible assumption
    | refine fine_when (fun _ => ?_) ?_
    | refine fine_next ?_
    | with_reducible apply tideLost_kept
    | with_reducible refine kept_ite (fun _ => ?_) (fun _ => ?_)
    | (exact of_decide_eq_true ‹_›)
    | split
    | exact Nat.le_refl _
    | exact fun _ => rfl
    | exact fun hb => hb
    | (intro _ _)
    | (intro _)
    | with_reducible rfl

/-- What `execOscCalibrate` can change. -/
theorem execOscCalibrate_fine (s : State) (g1 : Group.tide ∈ G) : Fine G s (execOscCalibrate s) := by
  unfold execOscCalibrate
  repeat' first
    | with_reducible exact Kept.refl _ _
    | with_reducible assumption
    | refine fine_when (fun _ => ?_) ?_
    | refine fine_next ?_
    | with_reducible apply updTide_kept
    | with_reducible refine kept_ite (fun _ => ?_) (fun _ => ?_)
    | (exact of_decide_eq_true ‹_›)
    | split
    | exact Nat.le_refl _
    | exact fun _ => rfl
    | exact fun hb => hb
    | (intro _ _)
    | (intro _)
    | with_reducible rfl

/-- What `execTideExchange` can change. -/
theorem execTideExchange_fine (s : State) (g1 : Group.tide ∈ G) (g2 : Group.reach ∈ G) : Fine G s (execTideExchange s) := by
  unfold execTideExchange
  repeat' first
    | with_reducible exact Kept.refl _ _
    | with_reducible assumption
    | refine fine_when (fun _ => ?_) ?_
    | refine fine_next ?_
    | with_reducible apply exchange_kept
    | with_reducible refine kept_ite (fun _ => ?_) (fun _ => ?_)
    | (exact of_decide_eq_true ‹_›)
    | split
    | exact Nat.le_refl _
    | exact fun _ => rfl
    | exact fun hb => hb
    | (intro _ _)
    | (intro _)
    | with_reducible rfl

/-- What `execTideReq` can change. -/
theorem execTideReq_fine (l : Nat) (h : FlitHdr) (t1 : Nat) (frac : Fin 16) (s : State) (g1 : Group.tide ∈ G) (g2 : Group.cb ∈ G) (g3 : Group.ports ∈ G) (g4 : Group.pipe ∈ G) (g5 : Group.weights ∈ G) (g6 : Group.adapters ∈ G) (g7 : Group.bb ∈ G) (g8 : Group.events ∈ G) (g9 : Group.reach ∈ G) : Fine G s (execTideReq l h t1 frac s) := by
  unfold execTideReq
  repeat' first
    | with_reducible exact Kept.refl _ _
    | with_reducible assumption
    | with_reducible apply recvFlit_fine
    | refine fine_next ?_
    | with_reducible apply answerReq_kept
    | with_reducible refine kept_ite (fun _ => ?_) (fun _ => ?_)
    | (exact of_decide_eq_true ‹_›)
    | split
    | exact Nat.le_refl _
    | exact fun _ => rfl
    | exact fun hb => hb
    | (intro _ _)
    | (intro _)
    | with_reducible rfl

/-- What `execTideRsp` can change. -/
theorem execTideRsp_fine (l : Nat) (h : FlitHdr) (t1 t2 t3 : Nat) (frac : Fin 16) (s : State) (g1 : Group.tide ∈ G) (g2 : Group.cb ∈ G) (g3 : Group.ports ∈ G) (g4 : Group.pipe ∈ G) (g5 : Group.weights ∈ G) (g6 : Group.adapters ∈ G) (g7 : Group.bb ∈ G) (g8 : Group.events ∈ G) (g9 : Group.reach ∈ G) : Fine G s (execTideRsp l h t1 t2 t3 frac s) := by
  unfold execTideRsp
  repeat' first
    | with_reducible exact Kept.refl _ _
    | with_reducible assumption
    | with_reducible apply recvFlit_fine
    | refine fine_next ?_
    | with_reducible apply rspArrives_kept
    | with_reducible refine kept_ite (fun _ => ?_) (fun _ => ?_)
    | (exact of_decide_eq_true ‹_›)
    | split
    | exact Nat.le_refl _
    | exact fun _ => rfl
    | exact fun hb => hb
    | (intro _ _)
    | (intro _)
    | with_reducible rfl

/-- What `execGateOpen` can change. -/
theorem execGateOpen_fine (s : State) (g1 : Group.tide ∈ G) (g2 : Group.events ∈ G) : Fine G s (execGateOpen s) := by
  unfold execGateOpen
  repeat' first
    | with_reducible exact Kept.refl _ _
    | with_reducible assumption
    | refine fine_when (fun _ => ?_) ?_
    | refine fine_next ?_
    | with_reducible apply openGate_kept
    | with_reducible refine kept_ite (fun _ => ?_) (fun _ => ?_)
    | (exact of_decide_eq_true ‹_›)
    | split
    | exact Nat.le_refl _
    | exact fun _ => rfl
    | exact fun hb => hb
    | (intro _ _)
    | (intro _)
    | with_reducible rfl

/-- What `execGateLatch` can change. -/
theorem execGateLatch_fine (value : Word) (s : State) (g1 : Group.tide ∈ G) (g2 : Group.events ∈ G) (g3 : Group.resp ∈ G) : Fine G s (execGateLatch value s) := by
  unfold execGateLatch
  repeat' first
    | with_reducible exact Kept.refl _ _
    | with_reducible assumption
    | refine fine_next ?_
    | with_reducible apply chipWrite_kept
    | with_reducible apply writeGateCtl_kept
    | with_reducible refine kept_ite (fun _ => ?_) (fun _ => ?_)
    | (exact of_decide_eq_true ‹_›)
    | split
    | exact Nat.le_refl _
    | exact fun _ => rfl
    | exact fun hb => hb
    | (intro _ _)
    | (intro _)
    | with_reducible rfl

/-- What `execGateRelease` can change. -/
theorem execGateRelease_fine (value : Word) (s : State) (g1 : Group.tide ∈ G) (g2 : Group.events ∈ G) (g3 : Group.resp ∈ G) : Fine G s (execGateRelease value s) := by
  unfold execGateRelease
  repeat' first
    | with_reducible exact Kept.refl _ _
    | with_reducible assumption
    | refine fine_next ?_
    | with_reducible apply chipWrite_kept
    | with_reducible apply writeGateCtl_kept
    | with_reducible refine kept_ite (fun _ => ?_) (fun _ => ?_)
    | (exact of_decide_eq_true ‹_›)
    | split
    | exact Nat.le_refl _
    | exact fun _ => rfl
    | exact fun hb => hb
    | (intro _ _)
    | (intro _)
    | with_reducible rfl

/-- What `execTideLoRead` can change. -/
theorem execTideLoRead_fine (s : State) (g1 : Group.tide ∈ G) (g2 : Group.resp ∈ G) : Fine G s (execTideLoRead s) := by
  unfold execTideLoRead
  repeat' first
    | with_reducible exact Kept.refl _ _
    | with_reducible assumption
    | refine fine_next ?_
    | with_reducible apply updTide_kept
    | with_reducible apply chipRead_kept
    | with_reducible refine kept_ite (fun _ => ?_) (fun _ => ?_)
    | (exact of_decide_eq_true ‹_›)
    | split
    | exact Nat.le_refl _
    | exact fun _ => rfl
    | exact fun hb => hb
    | (intro _ _)
    | (intro _)
    | with_reducible rfl

/-- What `execCtxEpochLoRead` can change. -/
theorem execCtxEpochLoRead_fine (c : Nat) (s : State) (g1 : Group.pipe ∈ G) (g2 : Group.resp ∈ G) : Fine G s (execCtxEpochLoRead c s) := by
  unfold execCtxEpochLoRead
  repeat' first
    | with_reducible exact Kept.refl _ _
    | with_reducible assumption
    | refine fine_forUnit fun _ => ?_
    | refine fine_next ?_
    | with_reducible apply updPipe_kept
    | with_reducible apply chipRead_kept
    | with_reducible refine kept_ite (fun _ => ?_) (fun _ => ?_)
    | (exact of_decide_eq_true ‹_›)
    | split
    | exact Nat.le_refl _
    | exact fun _ => rfl
    | exact fun hb => hb
    | (intro _ _)
    | (intro _)
    | with_reducible rfl

/-- What `execImgLoad` can change. -/
theorem execImgLoad_fine (value : Word) (s : State) (g1 : Group.ports ∈ G) (g2 : Group.masks ∈ G) (g3 : Group.fn ∈ G) (g4 : Group.weights ∈ G) (g5 : Group.adapters ∈ G) (g6 : Group.image ∈ G) (g7 : Group.events ∈ G) (g8 : Group.reach ∈ G) (g9 : Group.resp ∈ G) : Fine G s (execImgLoad value s) := by
  unfold execImgLoad
  repeat' first
    | with_reducible exact Kept.refl _ _
    | with_reducible assumption
    | refine fine_next ?_
    | with_reducible apply chipWrite_kept
    | with_reducible apply writeImgLoad_kept
    | with_reducible refine kept_ite (fun _ => ?_) (fun _ => ?_)
    | (exact of_decide_eq_true ‹_›)
    | split
    | exact Nat.le_refl _
    | exact fun _ => rfl
    | exact fun hb => hb
    | (intro _ _)
    | (intro _)
    | with_reducible rfl

/-- What `execImgReset` can change. -/
theorem execImgReset_fine (headPass : Bool) (s : State) (g1 : Group.power ∈ G) (g2 : Group.tide ∈ G) (g3 : Group.cb ∈ G) (g4 : Group.ports ∈ G) (g5 : Group.pipe ∈ G) (g6 : Group.masks ∈ G) (g7 : Group.fn ∈ G) (g8 : Group.brine ∈ G) (g9 : Group.weights ∈ G) (g10 : Group.adapters ∈ G) (g11 : Group.image ∈ G) (g12 : Group.fabric ∈ G) (g13 : Group.bb ∈ G) (g14 : Group.events ∈ G) (g15 : Group.reach ∈ G) : Fine G s (execImgReset headPass s) := by
  unfold execImgReset
  repeat' first
    | with_reducible exact Kept.refl _ _
    | with_reducible assumption
    | refine fine_when (fun _ => ?_) ?_
    | refine fine_next ?_
    | with_reducible apply updPower_kept
    | with_reducible apply resetForImage_kept
    | with_reducible apply headTestFails_kept
    | with_reducible refine kept_ite (fun _ => ?_) (fun _ => ?_)
    | (exact of_decide_eq_true ‹_›)
    | split
    | exact Nat.le_refl _
    | exact fun _ => rfl
    | exact fun hb => hb
    | (intro _ _)
    | (intro _)
    | with_reducible rfl

/-- What `execReadResponse` can change. -/
theorem execReadResponse_fine (k : ReadKind) (data : List Byte) (err : Bool) (s : State) (g1 : Group.tide ∈ G) (g2 : Group.ca ∈ G) (g3 : Group.cb ∈ G) (g4 : Group.ports ∈ G) (g5 : Group.pipe ∈ G) (g6 : Group.masks ∈ G) (g7 : Group.fn ∈ G) (g8 : Group.brine ∈ G) (g9 : Group.weights ∈ G) (g10 : Group.adapters ∈ G) (g11 : Group.image ∈ G) (g12 : Group.fabric ∈ G) (g13 : Group.bb ∈ G) (g14 : Group.events ∈ G) (g15 : Group.reach ∈ G) : Fine G s (execReadResponse k data err s) := by
  unfold execReadResponse
  repeat' first
    | with_reducible exact Kept.refl _ _
    | with_reducible assumption
    | refine fine_when (fun _ => ?_) ?_
    | refine fine_next ?_
    | with_reducible apply responseIn_kept
    | with_reducible apply readError_kept
    | with_reducible refine kept_ite (fun _ => ?_) (fun _ => ?_)
    | (exact of_decide_eq_true ‹_›)
    | split
    | exact Nat.le_refl _
    | exact fun _ => rfl
    | exact fun hb => hb
    | (intro _ _)
    | (intro _)
    | with_reducible rfl

/-- What `execReadTimeout` can change. -/
theorem execReadTimeout_fine (k : ReadKind) (s : State) (g1 : Group.tide ∈ G) (g2 : Group.ca ∈ G) (g3 : Group.cb ∈ G) (g4 : Group.ports ∈ G) (g5 : Group.pipe ∈ G) (g6 : Group.masks ∈ G) (g7 : Group.fn ∈ G) (g8 : Group.weights ∈ G) (g9 : Group.adapters ∈ G) (g10 : Group.image ∈ G) (g11 : Group.fabric ∈ G) (g12 : Group.bb ∈ G) (g13 : Group.events ∈ G) (g14 : Group.reach ∈ G) : Fine G s (execReadTimeout k s) := by
  unfold execReadTimeout
  repeat' first
    | with_reducible exact Kept.refl _ _
    | with_reducible assumption
    | refine fine_when (fun _ => ?_) ?_
    | refine fine_next ?_
    | with_reducible apply updCb_kept
    | with_reducible apply readError_kept
    | with_reducible refine kept_ite (fun _ => ?_) (fun _ => ?_)
    | (exact of_decide_eq_true ‹_›)
    | split
    | exact Nat.le_refl _
    | exact fun _ => rfl
    | exact fun hb => hb
    | (intro _ _)
    | (intro _)
    | with_reducible rfl

/-- What `execOverflowTimeout` can change. -/
theorem execOverflowTimeout_fine (l ch : Nat) (s : State) (g1 : Group.ca ∈ G) (g2 : Group.ports ∈ G) (g3 : Group.pipe ∈ G) : Fine G s (execOverflowTimeout l ch s) := by
  unfold execOverflowTimeout
  repeat' first
    | with_reducible exact Kept.refl _ _
    | with_reducible assumption
    | refine fine_when (fun _ => ?_) ?_
    | refine fine_next ?_
    | with_reducible apply groupFails_kept
    | with_reducible refine kept_ite (fun _ => ?_) (fun _ => ?_)
    | (exact of_decide_eq_true ‹_›)
    | split
    | exact Nat.le_refl _
    | exact fun _ => rfl
    | exact fun hb => hb
    | (intro _ _)
    | (intro _)
    | with_reducible rfl

/-- What `execAuthVerdict` can change. -/
theorem execAuthVerdict_fine (pass : Bool) (s : State) (g1 : Group.tide ∈ G) (g2 : Group.cb ∈ G) (g3 : Group.ports ∈ G) (g4 : Group.pipe ∈ G) (g5 : Group.masks ∈ G) (g6 : Group.fn ∈ G) (g7 : Group.brine ∈ G) (g8 : Group.weights ∈ G) (g9 : Group.adapters ∈ G) (g10 : Group.image ∈ G) (g11 : Group.fabric ∈ G) (g12 : Group.bb ∈ G) (g13 : Group.events ∈ G) (g14 : Group.reach ∈ G) : Fine G s (execAuthVerdict pass s) := by
  unfold execAuthVerdict
  repeat' first
    | with_reducible exact Kept.refl _ _
    | with_reducible assumption
    | refine fine_when (fun _ => ?_) ?_
    | refine fine_next ?_
    | with_reducible apply passVerdict_kept
    | with_reducible apply authFails_kept
    | with_reducible refine kept_ite (fun _ => ?_) (fun _ => ?_)
    | (exact of_decide_eq_true ‹_›)
    | split
    | exact Nat.le_refl _
    | exact fun _ => rfl
    | exact fun hb => hb
    | (intro _ _)
    | (intro _)
    | with_reducible rfl

/-- What `execAuthTimeout` can change. -/
theorem execAuthTimeout_fine (s : State) (g1 : Group.tide ∈ G) (g2 : Group.cb ∈ G) (g3 : Group.ports ∈ G) (g4 : Group.pipe ∈ G) (g5 : Group.masks ∈ G) (g6 : Group.fn ∈ G) (g7 : Group.weights ∈ G) (g8 : Group.adapters ∈ G) (g9 : Group.image ∈ G) (g10 : Group.fabric ∈ G) (g11 : Group.bb ∈ G) (g12 : Group.events ∈ G) (g13 : Group.reach ∈ G) : Fine G s (execAuthTimeout s) := by
  unfold execAuthTimeout
  repeat' first
    | with_reducible exact Kept.refl _ _
    | with_reducible assumption
    | refine fine_when (fun _ => ?_) ?_
    | refine fine_next ?_
    | with_reducible apply authFails_kept
    | with_reducible refine kept_ite (fun _ => ?_) (fun _ => ?_)
    | (exact of_decide_eq_true ‹_›)
    | split
    | exact Nat.le_refl _
    | exact fun _ => rfl
    | exact fun hb => hb
    | (intro _ _)
    | (intro _)
    | with_reducible rfl

/-- What `execImageApplied` can change. -/
theorem execImageApplied_fine (failing : List (UnitId × Nat)) (s : State) (g1 : Group.power ∈ G) (g2 : Group.tide ∈ G) (g3 : Group.cb ∈ G) (g4 : Group.ports ∈ G) (g5 : Group.pipe ∈ G) (g6 : Group.fn ∈ G) (g7 : Group.brine ∈ G) (g8 : Group.weights ∈ G) (g9 : Group.adapters ∈ G) (g10 : Group.image ∈ G) (g11 : Group.fabric ∈ G) (g12 : Group.bb ∈ G) (g13 : Group.events ∈ G) (g14 : Group.reach ∈ G) : Fine G s (execImageApplied failing s) := by
  unfold execImageApplied
  repeat' first
    | with_reducible exact Kept.refl _ _
    | with_reducible assumption
    | refine fine_when (fun _ => ?_) ?_
    | refine fine_next ?_
    | with_reducible apply applyImage_kept
    | with_reducible refine kept_ite (fun _ => ?_) (fun _ => ?_)
    | (exact of_decide_eq_true ‹_›)
    | split
    | exact Nat.le_refl _
    | exact fun _ => rfl
    | exact fun hb => hb
    | (intro _ _)
    | (intro _)
    | with_reducible rfl

/-- What `execPaceUpdate` can change. -/
theorem execPaceUpdate_fine (pace : BitVec 16) (tj : BitVec 8) (s : State) (g1 : Group.power ∈ G) : Fine G s (execPaceUpdate pace tj s) := by
  unfold execPaceUpdate
  repeat' first
    | with_reducible exact Kept.refl _ _
    | with_reducible assumption
    | refine fine_when (fun _ => ?_) ?_
    | refine fine_next ?_
    | with_reducible apply paceMeasured_kept
    | with_reducible refine kept_ite (fun _ => ?_) (fun _ => ?_)
    | (exact of_decide_eq_true ‹_›)
    | split
    | exact Nat.le_refl _
    | exact fun _ => rfl
    | exact fun hb => hb
    | (intro _ _)
    | (intro _)
    | with_reducible rfl

/-- What `execOpptRequest` can change. -/
theorem execOpptRequest_fine (value : Word) (s : State) (g1 : Group.power ∈ G) (g2 : Group.resp ∈ G) : Fine G s (execOpptRequest value s) := by
  unfold execOpptRequest
  repeat' first
    | with_reducible exact Kept.refl _ _
    | with_reducible assumption
    | refine fine_next ?_
    | with_reducible apply mgWrite_kept
    | with_reducible apply writeOppt_kept
    | with_reducible refine kept_ite (fun _ => ?_) (fun _ => ?_)
    | (exact of_decide_eq_true ‹_›)
    | split
    | exact Nat.le_refl _
    | exact fun _ => rfl
    | exact fun hb => hb
    | (intro _ _)
    | (intro _)
    | with_reducible rfl

/-- What `execOpptRampEnd` can change. -/
theorem execOpptRampEnd_fine (s : State) (g1 : Group.power ∈ G) (g2 : Group.bb ∈ G) (g3 : Group.events ∈ G) : Fine G s (execOpptRampEnd s) := by
  unfold execOpptRampEnd
  repeat' first
    | with_reducible exact Kept.refl _ _
    | with_reducible assumption
    | refine fine_when (fun _ => ?_) ?_
    | refine fine_next ?_
    | with_reducible apply rampEnds_kept
    | with_reducible refine kept_ite (fun _ => ?_) (fun _ => ?_)
    | (exact of_decide_eq_true ‹_›)
    | split
    | exact Nat.le_refl _
    | exact fun _ => rfl
    | exact fun hb => hb
    | (intro _ _)
    | (intro _)
    | with_reducible rfl

/-- What `execPwrOn` can change. -/
theorem execPwrOn_fine (s : State) (g1 : Group.power ∈ G) (g2 : Group.tide ∈ G) (g3 : Group.soft ∈ G) (g4 : Group.ca ∈ G) (g5 : Group.cb ∈ G) (g6 : Group.ports ∈ G) (g7 : Group.pipe ∈ G) (g8 : Group.masks ∈ G) (g9 : Group.fn ∈ G) (g10 : Group.brine ∈ G) (g11 : Group.weights ∈ G) (g12 : Group.adapters ∈ G) (g13 : Group.image ∈ G) (g14 : Group.fabric ∈ G) (g15 : Group.events ∈ G) (g16 : Group.reach ∈ G) (g17 : Group.resp ∈ G) : Fine G s (execPwrOn s) := by
  unfold execPwrOn
  repeat' first
    | with_reducible exact Kept.refl _ _
    | with_reducible assumption
    | refine fine_next ?_
    | with_reducible apply mgWrite_kept
    | with_reducible apply requestState_kept
    | with_reducible refine kept_ite (fun _ => ?_) (fun _ => ?_)
    | (exact of_decide_eq_true ‹_›)
    | split
    | exact Nat.le_refl _
    | exact fun _ => rfl
    | exact fun hb => hb
    | (intro _ _)
    | (intro _)
    | with_reducible rfl

/-- What `execPwrRetain` can change. -/
theorem execPwrRetain_fine (s : State) (g1 : Group.power ∈ G) (g2 : Group.tide ∈ G) (g3 : Group.soft ∈ G) (g4 : Group.ca ∈ G) (g5 : Group.cb ∈ G) (g6 : Group.ports ∈ G) (g7 : Group.pipe ∈ G) (g8 : Group.masks ∈ G) (g9 : Group.fn ∈ G) (g10 : Group.brine ∈ G) (g11 : Group.weights ∈ G) (g12 : Group.adapters ∈ G) (g13 : Group.image ∈ G) (g14 : Group.fabric ∈ G) (g15 : Group.events ∈ G) (g16 : Group.reach ∈ G) (g17 : Group.resp ∈ G) : Fine G s (execPwrRetain s) := by
  unfold execPwrRetain
  repeat' first
    | with_reducible exact Kept.refl _ _
    | with_reducible assumption
    | refine fine_next ?_
    | with_reducible apply mgWrite_kept
    | with_reducible apply requestState_kept
    | with_reducible refine kept_ite (fun _ => ?_) (fun _ => ?_)
    | (exact of_decide_eq_true ‹_›)
    | split
    | exact Nat.le_refl _
    | exact fun _ => rfl
    | exact fun hb => hb
    | (intro _ _)
    | (intro _)
    | with_reducible rfl

/-- What `execPwrOff` can change. -/
theorem execPwrOff_fine (s : State) (g1 : Group.power ∈ G) (g2 : Group.tide ∈ G) (g3 : Group.soft ∈ G) (g4 : Group.ca ∈ G) (g5 : Group.cb ∈ G) (g6 : Group.ports ∈ G) (g7 : Group.pipe ∈ G) (g8 : Group.masks ∈ G) (g9 : Group.fn ∈ G) (g10 : Group.brine ∈ G) (g11 : Group.weights ∈ G) (g12 : Group.adapters ∈ G) (g13 : Group.image ∈ G) (g14 : Group.fabric ∈ G) (g15 : Group.events ∈ G) (g16 : Group.reach ∈ G) (g17 : Group.resp ∈ G) : Fine G s (execPwrOff s) := by
  unfold execPwrOff
  repeat' first
    | with_reducible exact Kept.refl _ _
    | with_reducible assumption
    | refine fine_next ?_
    | with_reducible apply mgWrite_kept
    | with_reducible apply requestState_kept
    | with_reducible refine kept_ite (fun _ => ?_) (fun _ => ?_)
    | (exact of_decide_eq_true ‹_›)
    | split
    | exact Nat.le_refl _
    | exact fun _ => rfl
    | exact fun hb => hb
    | (intro _ _)
    | (intro _)
    | with_reducible rfl

/-- What `execRetainEnter` can change. -/
theorem execRetainEnter_fine (s : State) (g1 : Group.power ∈ G) (g2 : Group.tide ∈ G) (g3 : Group.soft ∈ G) (g4 : Group.ca ∈ G) (g5 : Group.cb ∈ G) (g6 : Group.ports ∈ G) (g7 : Group.pipe ∈ G) (g8 : Group.masks ∈ G) (g9 : Group.fn ∈ G) (g10 : Group.brine ∈ G) (g11 : Group.weights ∈ G) (g12 : Group.adapters ∈ G) (g13 : Group.image ∈ G) (g14 : Group.fabric ∈ G) (g15 : Group.events ∈ G) (g16 : Group.reach ∈ G) : Fine G s (execRetainEnter s) := by
  unfold execRetainEnter
  repeat' first
    | with_reducible exact Kept.refl _ _
    | with_reducible assumption
    | refine fine_when (fun _ => ?_) ?_
    | refine fine_next ?_
    | with_reducible apply updPower_kept
    | with_reducible apply leaveOn_kept
    | with_reducible apply nextState_kept
    | with_reducible refine kept_ite (fun _ => ?_) (fun _ => ?_)
    | (exact of_decide_eq_true ‹_›)
    | split
    | exact Nat.le_refl _
    | exact fun _ => rfl
    | exact fun hb => hb
    | (intro _ _)
    | (intro _)
    | with_reducible rfl

/-- What `execRetainExitDone` can change. -/
theorem execRetainExitDone_fine (s : State) (g1 : Group.power ∈ G) (g2 : Group.tide ∈ G) (g3 : Group.soft ∈ G) (g4 : Group.ca ∈ G) (g5 : Group.cb ∈ G) (g6 : Group.ports ∈ G) (g7 : Group.pipe ∈ G) (g8 : Group.masks ∈ G) (g9 : Group.fn ∈ G) (g10 : Group.brine ∈ G) (g11 : Group.weights ∈ G) (g12 : Group.adapters ∈ G) (g13 : Group.image ∈ G) (g14 : Group.fabric ∈ G) (g15 : Group.bb ∈ G) (g16 : Group.events ∈ G) (g17 : Group.reach ∈ G) : Fine G s (execRetainExitDone s) := by
  unfold execRetainExitDone
  repeat' first
    | with_reducible exact Kept.refl _ _
    | with_reducible assumption
    | refine fine_when (fun _ => ?_) ?_
    | refine fine_next ?_
    | with_reducible apply exitRetain_kept
    | with_reducible refine kept_ite (fun _ => ?_) (fun _ => ?_)
    | (exact of_decide_eq_true ‹_›)
    | split
    | exact Nat.le_refl _
    | exact fun _ => rfl
    | exact fun hb => hb
    | (intro _ _)
    | (intro _)
    | with_reducible rfl

/-- What `execPowerGood` can change. -/
theorem execPowerGood_fine (s : State) (g1 : Group.power ∈ G) : Fine G s (execPowerGood s) := by
  unfold execPowerGood
  repeat' first
    | with_reducible exact Kept.refl _ _
    | with_reducible assumption
    | refine fine_when (fun _ => ?_) ?_
    | refine fine_next ?_
    | with_reducible apply updPower_kept
    | with_reducible refine kept_ite (fun _ => ?_) (fun _ => ?_)
    | (exact of_decide_eq_true ‹_›)
    | split
    | exact Nat.le_refl _
    | exact fun _ => rfl
    | exact fun hb => hb
    | (intro _ _)
    | (intro _)
    | with_reducible rfl

/-- What `execBootStepEnd` can change. -/
theorem execBootStepEnd_fine (r : BootReport) (s : State) (g1 : Group.power ∈ G) (g2 : Group.tide ∈ G) (g3 : Group.soft ∈ G) (g4 : Group.ca ∈ G) (g5 : Group.cb ∈ G) (g6 : Group.ports ∈ G) (g7 : Group.pipe ∈ G) (g8 : Group.masks ∈ G) (g9 : Group.fn ∈ G) (g10 : Group.brine ∈ G) (g11 : Group.weights ∈ G) (g12 : Group.adapters ∈ G) (g13 : Group.image ∈ G) (g14 : Group.fabric ∈ G) (g15 : Group.bb ∈ G) (g16 : Group.events ∈ G) (g17 : Group.reach ∈ G) : Fine G s (execBootStepEnd r s) := by
  unfold execBootStepEnd
  repeat' first
    | with_reducible exact Kept.refl _ _
    | with_reducible assumption
    | refine fine_when (fun _ => ?_) ?_
    | refine fine_next ?_
    | with_reducible apply bootStep_kept
    | with_reducible refine kept_ite (fun _ => ?_) (fun _ => ?_)
    | (exact of_decide_eq_true ‹_›)
    | split
    | exact Nat.le_refl _
    | exact fun _ => rfl
    | exact fun hb => hb
    | (intro _ _)
    | (intro _)
    | with_reducible rfl

/-- What `execMgReset` can change. -/
theorem execMgReset_fine (value : Word) (s : State) (g1 : Group.power ∈ G) (g2 : Group.tide ∈ G) (g3 : Group.soft ∈ G) (g4 : Group.ca ∈ G) (g5 : Group.cb ∈ G) (g6 : Group.ports ∈ G) (g7 : Group.pipe ∈ G) (g8 : Group.masks ∈ G) (g9 : Group.fn ∈ G) (g10 : Group.brine ∈ G) (g11 : Group.weights ∈ G) (g12 : Group.adapters ∈ G) (g13 : Group.image ∈ G) (g14 : Group.fabric ∈ G) (g15 : Group.events ∈ G) (g16 : Group.reach ∈ G) (g17 : Group.resp ∈ G) : Fine G s (execMgReset value s) := by
  unfold execMgReset
  repeat' first
    | with_reducible exact Kept.refl _ _
    | with_reducible assumption
    | refine fine_next ?_
    | with_reducible apply mgWrite_kept
    | with_reducible apply writeMgReset_kept
    | with_reducible refine kept_ite (fun _ => ?_) (fun _ => ?_)
    | (exact of_decide_eq_true ‹_›)
    | split
    | exact Nat.le_refl _
    | exact fun _ => rfl
    | exact fun hb => hb
    | (intro _ _)
    | (intro _)
    | with_reducible rfl

/-- What `execAlwaysOnSupplyUp` can change. -/
theorem execAlwaysOnSupplyUp_fine (s : State) (g1 : Group.power ∈ G) (g2 : Group.tide ∈ G) (g3 : Group.soft ∈ G) (g4 : Group.ca ∈ G) (g5 : Group.cb ∈ G) (g6 : Group.ports ∈ G) (g7 : Group.pipe ∈ G) (g8 : Group.masks ∈ G) (g9 : Group.fn ∈ G) (g10 : Group.brine ∈ G) (g11 : Group.weights ∈ G) (g12 : Group.adapters ∈ G) (g13 : Group.image ∈ G) (g14 : Group.fabric ∈ G) (g15 : Group.bb ∈ G) (g16 : Group.events ∈ G) (g17 : Group.reach ∈ G) (g18 : Group.resp ∈ G) : Fine G s (execAlwaysOnSupplyUp s) := by
  unfold execAlwaysOnSupplyUp
  repeat' first
    | with_reducible exact Kept.refl _ _
    | with_reducible assumption
    | refine fine_when (fun _ => ?_) ?_
    | refine fine_next ?_
    | with_reducible apply supplyState_kept
    | with_reducible refine kept_ite (fun _ => ?_) (fun _ => ?_)
    | (exact of_decide_eq_true ‹_›)
    | split
    | exact Nat.le_refl _
    | exact fun _ => rfl
    | exact fun hb => hb
    | (intro _ _)
    | (intro _)
    | with_reducible rfl

/-- What `execAlwaysOnSupplyLoss` can change. -/
theorem execAlwaysOnSupplyLoss_fine (torn : Bool) (s : State) (g1 : Group.power ∈ G) (g2 : Group.tide ∈ G) (g3 : Group.soft ∈ G) (g4 : Group.ca ∈ G) (g5 : Group.cb ∈ G) (g6 : Group.ports ∈ G) (g7 : Group.pipe ∈ G) (g8 : Group.masks ∈ G) (g9 : Group.fn ∈ G) (g10 : Group.brine ∈ G) (g11 : Group.weights ∈ G) (g12 : Group.adapters ∈ G) (g13 : Group.image ∈ G) (g14 : Group.fabric ∈ G) (g15 : Group.bb ∈ G) (g16 : Group.events ∈ G) (g17 : Group.reach ∈ G) (g18 : Group.resp ∈ G) : Fine G s (execAlwaysOnSupplyLoss torn s) := by
  unfold execAlwaysOnSupplyLoss
  repeat' first
    | with_reducible exact Kept.refl _ _
    | with_reducible assumption
    | refine fine_when (fun _ => ?_) ?_
    | refine fine_next ?_
    | with_reducible apply updBb_kept
    | with_reducible apply supplyState_kept
    | with_reducible refine kept_ite (fun _ => ?_) (fun _ => ?_)
    | (exact of_decide_eq_true ‹_›)
    | split
    | exact Nat.le_refl _
    | exact fun _ => rfl
    | exact fun hb => hb
    | (intro _ _)
    | (intro _)
    | with_reducible rfl

/-- What `execMgImgFloor` can change. -/
theorem execMgImgFloor_fine (value : Word) (s : State) (g1 : Group.power ∈ G) (g2 : Group.resp ∈ G) : Fine G s (execMgImgFloor value s) := by
  unfold execMgImgFloor
  repeat' first
    | with_reducible exact Kept.refl _ _
    | with_reducible assumption
    | refine fine_next ?_
    | with_reducible apply mgWrite_kept
    | with_reducible apply writeFloor_kept
    | with_reducible refine kept_ite (fun _ => ?_) (fun _ => ?_)
    | (exact of_decide_eq_true ‹_›)
    | split
    | exact Nat.le_refl _
    | exact fun _ => rfl
    | exact fun hb => hb
    | (intro _ _)
    | (intro _)
    | with_reducible rfl

/-- What `execRegisterWrite` can change. -/
theorem execRegisterWrite_fine (mg : Bool) (o bytes : Nat) (v : Word) (s : State) (g1 : Group.power ∈ G) (g2 : Group.tide ∈ G) (g3 : Group.soft ∈ G) (g4 : Group.ca ∈ G) (g5 : Group.cb ∈ G) (g6 : Group.ports ∈ G) (g7 : Group.pipe ∈ G) (g8 : Group.masks ∈ G) (g9 : Group.fn ∈ G) (g10 : Group.brine ∈ G) (g11 : Group.weights ∈ G) (g12 : Group.adapters ∈ G) (g13 : Group.image ∈ G) (g14 : Group.fabric ∈ G) (g15 : Group.bb ∈ G) (g16 : Group.events ∈ G) (g17 : Group.reach ∈ G) (g18 : Group.resp ∈ G) : Fine G s (execRegisterWrite mg o bytes v s) := by
  unfold execRegisterWrite
  split
  · refine fine_next (portWrite_kept _ _ _ ?_ (fun t ht => ?_) (Kept.refl _ _))
    · assumption
    · cases mg
      · apply chipEffect_kept <;> assumption
      · apply mgEffect_kept <;> assumption
  · exact fine_when (fun _ => respond_kept _ _ _ ‹_› (Kept.refl _ _)) (Kept.refl _ _)

end Sys2Proof.Laws
end

