-- ==== Sys2Proof/WellFormed.lean ====
section
/-!
DEFINITION. The static checks of a command's operands: every field fits the width the spec gives it, a packet command's bytes carry the TYPE
and OP of its row, and a register command's value sets the bit its row names. Meanings do not rest on these checks: a command whose
operands fail one still has its meaning, by its bytes.
-/

namespace Sys2Proof

/-- A packet of one TYPE, its header whole (Table 10.2). -/
def packetOf (ty : Nat) (bs : List Byte) : Bool := decide (64 ≤ bs.length) && leAt bs 0 1 == ty

/-- A CTX packet of one OP (Table 10.6). -/
def ctxPacket (op : Nat) (bs : List Byte) : Bool := packetOf 2 bs && decide (128 ≤ bs.length) && leAt bs 66 1 == op

/-- A PATCH packet of one OP (Table 11.1). -/
def patchPacket (op : Nat) (bs : List Byte) : Bool := packetOf 6 bs && decide (128 ≤ bs.length) && leAt bs 64 1 == op

/-- A TYPE that is no inbound one (R186). -/
def strangePacket (bs : List Byte) : Bool :=
  decide (64 ≤ bs.length) && !(leAt bs 0 1 == 1 || leAt bs 0 1 == 2 || leAt bs 0 1 == 6)

/-- Numbers that the largest configuration has (R2): leaf positions, physical pans, beds, composite nodes. -/
def leafNum (l : Nat) : Bool := decide (l < 1024)
/-- A physical pan. -/
def panNum (p : Nat) : Bool := decide (p < 1088)
/-- A bed. -/
def bedNum (b : Nat) : Bool := decide (b < 64)
/-- A composite node, as PAN_CELL.NODE holds it. -/
def nodeNum (n : Nat) : Bool := decide (n < 1024)
/-- A slot of a sheet (R146). -/
def slotNum (n : Nat) : Bool := decide (n < 256)
/-- A chunk of 128 elements. -/
def chunkNum (n : Nat) : Bool := decide (n < 128)
/-- A link. -/
def linkNum (l : Nat) : Bool := decide (l < 8)
/-- A 16-bit field. -/
def fits16 (n : Nat) : Bool := decide (n < 65536)
/-- A 64-bit field. -/
def fits64 (n : Nat) : Bool := decide (n < 2 ^ 64)
/-- A byte. -/
def fits8 (n : Nat) : Bool := decide (n < 256)

/-- A unit that a fault names. -/
def unitNum : UnitId → Bool
  | .pan p => panNum p
  | .cell p => panNum p
  | .head => true

/-- A read that the engine serves. -/
def readNum : ReadKind → Bool
  | .overflow l c => leafNum l && chunkNum c
  | .windowPatch l c => leafNum l && chunkNum c
  | .windowReplay l c => leafNum l && chunkNum c
  | _ => true

/-- A failing unit with its phase of Table 14.3. -/
def failingNum (q : UnitId × Nat) : Bool := unitNum q.1 && decide (1 ≤ q.2) && decide (q.2 ≤ 7)

/-- What a probe found: a phase of 1 to 7, or none. -/
def verdictOk (v : ProbeVerdict) : Bool :=
  match v.failPhase with
  | some p => decide (1 ≤ p) && decide (p ≤ 7)
  | none => true

/-- Words of a 512-byte line. -/
def wordOk : WordCheck → Bool
  | .corrected w => decide (w < 16)
  | .uncorrectable w => decide (w < 16)

/-- What a detection carries: a line of the region, a column of the array. -/
def detectOk : Detect → Bool
  | .brineWord line => decide (line < 5120)
  | .brineCorrected line word => decide (line < 5120) && decide (word < 16)
  | .residue column => decide (column < 64)
  | .dualRail column => decide (column < 64)
  | .timeout _ n => unitNum n
  | .scrub found => found.all wordOk
  | _ => true

/-- The fields of a flit (Table 13.2): a TYPE, a virtual channel, a 12-bit SEQ and ACK, 10-bit credits, 244 bytes of payload. -/
def flitOk (h : FlitHdr) : Bool :=
  fits8 h.type && decide (h.vc < 4) && decide (h.seq < 4096) && decide (h.ack < 4096) && decide (h.credit < 1024) && decide (h.cvc < 4) &&
  h.payload.length == 244

/-- A record header (R257). -/
def recOk (r : RecHdr) : Bool := fits8 r.kind && fits8 r.pass && fits16 r.slot && decide (r.len < 2 ^ 32)

/-- A flit on a link. -/
def onLink (l : Nat) (h : FlitHdr) : Bool := linkNum l && flitOk h

/-- A record on a link, of one KIND of Table 13.6, with the flits it came in. -/
def recordOn (kind l : Nat) (hs : List FlitHdr) (r : RecHdr) : Bool := linkNum l && hs.all flitOk && recOk r && r.kind == kind

/-- The content of a VECTOR record: a gradient packet names a chunk and carries its 128 elements (R163). -/
def vectorOk : VectorRec → Bool
  | .gradient ch xs => chunkNum ch && xs.length == 128
  | _ => true

/-- A codeword of a lane in LOCK (R251): LANE and GSEQ fit their fields. -/
def laneWordOk (w : Nat × Nat × Nat) : Bool := decide (w.2.1 < 16) && fits16 w.2.2

/-- The operands of a command fit their fields. -/
def Instr.wellFormed : Instr → Bool
  | .step _ bs => packetOf 1 bs
  | .unknownType _ bs => strangePacket bs
  | .ctxOpen _ bs => ctxPacket 1 bs
  | .ctxSet _ bs => ctxPacket 2 bs
  | .ctxRead _ bs => ctxPacket 3 bs
  | .ctxImport _ bs => ctxPacket 4 bs
  | .ctxCancel _ bs => ctxPacket 5 bs
  | .ctxOpEffect _ => true
  | .rows _ bs => patchPacket 1 bs
  | .seal _ bs => patchPacket 2 bs
  | .arm _ bs => patchPacket 3 bs
  | .disarm _ bs => patchPacket 4 bs
  | .adapterLoad _ bs => patchPacket 5 bs
  | .adapterRetire _ bs => patchPacket 6 bs
  | .sheetEnterStage2 => true
  | .sheetEnterStage3 => true
  | .sheetEnterStage4 => true
  | .scoreBatch _ leaf slot => leafNum leaf && slotNum slot
  | .rakeMerge _ node slot => nodeNum node && slotNum slot
  | .headPassEnd _ row => slotNum row
  | .sheetCommit => true
  | .outboundSend _ => true
  | .egressCredit _ _ => true
  | .portRstRise _ _ => true
  | .portRstFall _ => true
  | .readResponse k _ _ => readNum k
  | .readTimeout k => readNum k
  | .overflowTimeout leaf chunk => leafNum leaf && chunkNum chunk
  | .patchRowRetire leaf => leafNum leaf
  | .sealEffect leaf => leafNum leaf
  | .flipDecision => true
  | .flipFire => true
  | .replayDone leaf => leafNum leaf
  | .flipAbandon => true
  | .windowOpen => true
  | .windowHoldLimit => true
  | .adapterLoadStart => true
  | .adapterWritten => true
  | .maskLoad v => bitOf v.toNat 31
  | .maskCopy => true
  | .maskLoadEnd => true
  | .fnLoad v => bitOf v.toNat 31
  | .fnWrite => true
  | .fnReady => true
  | .imgLoad v => bitOf v.toNat 31
  | .imgReset _ => true
  | .authVerdict _ => true
  | .authTimeout => true
  | .imageApplied failing => failing.all failingNum
  | .stProbe v => bitOf v.toNat 31
  | .fault u d => ((u, d.own) :: d.others).all fun q => unitNum q.1 && detectOk q.2
  | .watchdogExpiry u _ n => unitNum u && unitNum n
  | .rebuildDone b => bedNum b
  | .shadowRebuildDone b => bedNum b
  | .probeEnd u v => unitNum u && verdictOk v
  | .probeTimeout u => unitNum u
  | .returnCopyDone b => bedNum b
  | .leafMoveBack b => bedNum b
  | .parityDone b => bedNum b
  | .scrubRead p found => panNum p && found.all wordOk
  | .mirrorCheck => true
  | .paceUpdate _ _ => true
  | .tideTick => true
  | .tideLost => true
  | .tideExchange => true
  | .oscCalibrate => true
  | .gateOpen => true
  | .gateLatch v => bitOf v.toNat 31
  | .gateRelease v => !bitOf v.toNat 31
  | .tideLoRead => true
  | .ctxEpochLoRead c => decide (c < 512)
  | .evClaim t => linkNum t
  | .evComplete t _ => linkNum t
  | .flush t v => linkNum t && bitOf v.toNat 30
  | .evPendingSet w _ => linkNum w
  | .evPendingClr w _ => linkNum w
  | .evMaskSet w _ => linkNum w
  | .evMaskClr w _ => linkNum w
  | .evArbitrate => true
  | .evModerationEnd t => linkNum t
  | .sleepChange t _ => linkNum t
  | .extInputChange n _ => decide (n < 32)
  | .extPulseAccept n => decide (n < 32)
  | .extHoldoffEnd n => decide (n < 32)
  | .extStuck n => decide (n < 32)
  | .evExtQuarRelease _ => true
  | .rearm _ v => bitOf v.toNat 31
  | .freeze _ v => bitOf v.toNat 30
  | .swMark _ => true
  | .mgBbSel _ => true
  | .opptRequest _ => true
  | .opptRampEnd => true
  | .pwrOn => true
  | .pwrRetain => true
  | .pwrOff => true
  | .retainEnter => true
  | .retainExitDone => true
  | .mgReset v => bitOf v.toNat 31
  | .alwaysOnSupplyUp => true
  | .powerGood => true
  | .bootStepEnd r => decide (1 ≤ r.step) && decide (r.step ≤ 7) && r.failing.all failingNum
  | .addrAssign _ => true
  | .mgImgFloor _ => true
  | .detach l v => linkNum l && bitOf v.toNat 2
  | .retrain l v => linkNum l && bitOf v.toNat 1
  | .linkEn l _ => linkNum l
  | .registerWrite _ _ n _ => decide (1 ≤ n)
  | .phyReadyRise lane => linkNum lane
  | .phyReadyFall lane => linkNum lane
  | .laneLock l lanes => linkNum l && lanes.all fun x => x.words.all laneWordOk
  | .linkStateTimeout l => linkNum l
  | .linkTimeout l => linkNum l
  | .hailResend l => linkNum l
  | .hail l h frame => onLink l h && frame.length == 244
  | .hailCheck l => linkNum l
  | .idle l h => onLink l h
  | .goodbye l h a => onLink l h && fits16 a
  | .route l h es => onLink l h && decide (es.length ≤ 60) && es.all fun e => fits16 e.1 && fits8 e.2
  | .routeAdvertise => true
  | .routeAge a => fits16 a
  | .tideReq l h t1 _ => onLink l h && fits64 t1
  | .tideRsp l h t1 t2 t3 _ => onLink l h && fits64 t1 && fits64 t2 && fits64 t3
  | .join l h a sig _ _ => onLink l h && fits16 a && sig.length == 16
  | .admitChild l h => onLink l h
  | .refuse l h reason => onLink l h && fits8 reason
  | .sealed l h _ => onLink l h
  | .domainArm l h _ _ => onLink l h
  | .domainDisarm l h _ _ => onLink l h
  | .fire l h _ => onLink l h
  | .lost l h a => onLink l h && fits16 a
  | .depart l h => onLink l h
  | .domainChange => true
  | .stepTimeout c => decide (c < 14)
  | .progressSend => true
  | .sheetOpen l h r q _ _ n o => recordOn 0x01 l h r && fits64 q && fits16 n && fits8 o
  | .rowCtl l h r _ => recordOn 0x02 l h r
  | .brine l h r bs => recordOn 0x03 l h r && bs.length == r.len
  | .grader l h r bs => recordOn 0x04 l h r && bs.length == r.len
  | .mask l h r ref => recordOn 0x05 l h r && fits16 ref
  | .watch l h r ts => recordOn 0x06 l h r && 4 * ts.length == r.len
  | .pass l h r _ => recordOn 0x07 l h r
  | .abort l h r q => recordOn 0x08 l h r && fits64 q
  | .adapter l h r v hd rank bs =>
    recordOn 0x09 l h r && fits16 v && fits16 hd && fits8 rank && 8 + bs.length == r.len
  | .adapterFree l h r v => recordOn 0x0A l h r && fits16 v
  | .windrow l h r _ => recordOn 0x81 l h r
  | .stats l h r bs => recordOn 0x82 l h r && bs.length == r.len
  | .vector l h r v => recordOn 0x83 l h r && vectorOk v
  | .reject l h r reason => recordOn 0x84 l h r && fits8 reason
  | .progress l h r q => recordOn 0x85 l h r && fits64 q
  | .placement l h r bs => recordOn 0x86 l h r && bs.length == r.len
  | .adapterDone l h r v result => recordOn 0x87 l h r && fits16 v && fits8 result
  | .mcast l h g seg => onLink l h && decide (g < 16) && decide (seg.length ≤ 242)
  | .mcastReport l h g _ => onLink l h && decide (g < 16)
  | .alwaysOnSupplyLoss _ => true
  | .gradientPacket _ leaf slot chunk => leafNum leaf && slotNum slot && chunkNum chunk

end Sys2Proof
end

