-- ==== Sys2Proof/Laws/PerInstr.lean ====
section
/-!
SUPPORT. Statements made for every command as syntax, one lemma a constructor: a well-formed command that names a link of the engine
names one of the eight.
-/

set_option Elab.async false

namespace Sys2Proof.Laws

/-- The link that a command names. -/
def LinkNumbers.link : Instr → Option Nat
  | .detach l _ => some l
  | .retrain l _ => some l
  | .linkEn l _ => some l
  | .laneLock l _ => some l
  | .linkStateTimeout l => some l
  | .linkTimeout l => some l
  | .hailResend l => some l
  | .hail l _ _ => some l
  | .hailCheck l => some l
  | .idle l _ => some l
  | .goodbye l _ _ => some l
  | .route l _ _ => some l
  | .tideReq l _ _ _ => some l
  | .tideRsp l _ _ _ _ _ => some l
  | .join l _ _ _ _ _ => some l
  | .admitChild l _ => some l
  | .refuse l _ _ => some l
  | .sealed l _ _ => some l
  | .domainArm l _ _ _ => some l
  | .domainDisarm l _ _ _ => some l
  | .fire l _ _ => some l
  | .lost l _ _ => some l
  | .depart l _ => some l
  | .sheetOpen l _ _ _ _ _ _ _ => some l
  | .rowCtl l _ _ _ => some l
  | .brine l _ _ _ => some l
  | .grader l _ _ _ => some l
  | .mask l _ _ _ => some l
  | .watch l _ _ _ => some l
  | .pass l _ _ _ => some l
  | .abort l _ _ _ => some l
  | .adapter l _ _ _ _ _ _ => some l
  | .adapterFree l _ _ _ => some l
  | .windrow l _ _ _ => some l
  | .stats l _ _ _ => some l
  | .vector l _ _ _ => some l
  | .reject l _ _ _ => some l
  | .progress l _ _ _ => some l
  | .placement l _ _ _ => some l
  | .adapterDone l _ _ _ _ => some l
  | .mcast l _ _ _ => some l
  | .mcastReport l _ _ _ => some l
  | _ => none

/-- A well-formed command that names a link names one that exists. -/
def LinkNumbers.Statement (i : Instr) : Prop := i.wellFormed = true → ∀ l, link i = some l → l < 8

/-- The lemma's proof where the command names a link. -/
theorem LinkNumbers.linked {i : Instr} {l : Nat} (e : link i = some l) (h : i.wellFormed = true → l < 8) : Statement i := by
  intro w k hk
  rw [e] at hk
  cases hk
  exact h w

theorem LinkNumbers.step x0 x1 : Statement (.step x0 x1) := fun _ _ => nofun
theorem LinkNumbers.unknownType x0 x1 : Statement (.unknownType x0 x1) := fun _ _ => nofun
theorem LinkNumbers.ctxOpen x0 x1 : Statement (.ctxOpen x0 x1) := fun _ _ => nofun
theorem LinkNumbers.ctxSet x0 x1 : Statement (.ctxSet x0 x1) := fun _ _ => nofun
theorem LinkNumbers.ctxRead x0 x1 : Statement (.ctxRead x0 x1) := fun _ _ => nofun
theorem LinkNumbers.ctxImport x0 x1 : Statement (.ctxImport x0 x1) := fun _ _ => nofun
theorem LinkNumbers.ctxCancel x0 x1 : Statement (.ctxCancel x0 x1) := fun _ _ => nofun
theorem LinkNumbers.ctxOpEffect x0 : Statement (.ctxOpEffect x0) := fun _ _ => nofun
theorem LinkNumbers.rows x0 x1 : Statement (.rows x0 x1) := fun _ _ => nofun
theorem LinkNumbers.seal x0 x1 : Statement (.seal x0 x1) := fun _ _ => nofun
theorem LinkNumbers.arm x0 x1 : Statement (.arm x0 x1) := fun _ _ => nofun
theorem LinkNumbers.disarm x0 x1 : Statement (.disarm x0 x1) := fun _ _ => nofun
theorem LinkNumbers.adapterLoad x0 x1 : Statement (.adapterLoad x0 x1) := fun _ _ => nofun
theorem LinkNumbers.adapterRetire x0 x1 : Statement (.adapterRetire x0 x1) := fun _ _ => nofun
theorem LinkNumbers.sheetEnterStage2 : Statement (.sheetEnterStage2) := fun _ _ => nofun
theorem LinkNumbers.sheetEnterStage3 : Statement (.sheetEnterStage3) := fun _ _ => nofun
theorem LinkNumbers.sheetEnterStage4 : Statement (.sheetEnterStage4) := fun _ _ => nofun
theorem LinkNumbers.scoreBatch x0 x1 x2 : Statement (.scoreBatch x0 x1 x2) := fun _ _ => nofun
theorem LinkNumbers.rakeMerge x0 x1 x2 : Statement (.rakeMerge x0 x1 x2) := fun _ _ => nofun
theorem LinkNumbers.headPassEnd x0 x1 : Statement (.headPassEnd x0 x1) := fun _ _ => nofun
theorem LinkNumbers.sheetCommit : Statement (.sheetCommit) := fun _ _ => nofun
theorem LinkNumbers.outboundSend x0 : Statement (.outboundSend x0) := fun _ _ => nofun
theorem LinkNumbers.egressCredit x0 x1 : Statement (.egressCredit x0 x1) := fun _ _ => nofun
theorem LinkNumbers.portRstRise x0 x1 : Statement (.portRstRise x0 x1) := fun _ _ => nofun
theorem LinkNumbers.portRstFall x0 : Statement (.portRstFall x0) := fun _ _ => nofun
theorem LinkNumbers.readResponse x0 x1 x2 : Statement (.readResponse x0 x1 x2) := fun _ _ => nofun
theorem LinkNumbers.readTimeout x0 : Statement (.readTimeout x0) := fun _ _ => nofun
theorem LinkNumbers.overflowTimeout x0 x1 : Statement (.overflowTimeout x0 x1) := fun _ _ => nofun
theorem LinkNumbers.patchRowRetire x0 : Statement (.patchRowRetire x0) := fun _ _ => nofun
theorem LinkNumbers.sealEffect x0 : Statement (.sealEffect x0) := fun _ _ => nofun
theorem LinkNumbers.flipDecision : Statement (.flipDecision) := fun _ _ => nofun
theorem LinkNumbers.flipFire : Statement (.flipFire) := fun _ _ => nofun
theorem LinkNumbers.replayDone x0 : Statement (.replayDone x0) := fun _ _ => nofun
theorem LinkNumbers.flipAbandon : Statement (.flipAbandon) := fun _ _ => nofun
theorem LinkNumbers.windowOpen : Statement (.windowOpen) := fun _ _ => nofun
theorem LinkNumbers.windowHoldLimit : Statement (.windowHoldLimit) := fun _ _ => nofun
theorem LinkNumbers.adapterLoadStart : Statement (.adapterLoadStart) := fun _ _ => nofun
theorem LinkNumbers.adapterWritten : Statement (.adapterWritten) := fun _ _ => nofun
theorem LinkNumbers.maskLoad x0 : Statement (.maskLoad x0) := fun _ _ => nofun
theorem LinkNumbers.maskCopy : Statement (.maskCopy) := fun _ _ => nofun
theorem LinkNumbers.maskLoadEnd : Statement (.maskLoadEnd) := fun _ _ => nofun
theorem LinkNumbers.fnLoad x0 : Statement (.fnLoad x0) := fun _ _ => nofun
theorem LinkNumbers.fnWrite : Statement (.fnWrite) := fun _ _ => nofun
theorem LinkNumbers.fnReady : Statement (.fnReady) := fun _ _ => nofun
theorem LinkNumbers.imgLoad x0 : Statement (.imgLoad x0) := fun _ _ => nofun
theorem LinkNumbers.imgReset x0 : Statement (.imgReset x0) := fun _ _ => nofun
theorem LinkNumbers.authVerdict x0 : Statement (.authVerdict x0) := fun _ _ => nofun
theorem LinkNumbers.authTimeout : Statement (.authTimeout) := fun _ _ => nofun
theorem LinkNumbers.imageApplied x0 : Statement (.imageApplied x0) := fun _ _ => nofun
theorem LinkNumbers.stProbe x0 : Statement (.stProbe x0) := fun _ _ => nofun
theorem LinkNumbers.fault x0 x1 : Statement (.fault x0 x1) := fun _ _ => nofun
theorem LinkNumbers.watchdogExpiry x0 x1 x2 : Statement (.watchdogExpiry x0 x1 x2) := fun _ _ => nofun
theorem LinkNumbers.rebuildDone x0 : Statement (.rebuildDone x0) := fun _ _ => nofun
theorem LinkNumbers.shadowRebuildDone x0 : Statement (.shadowRebuildDone x0) := fun _ _ => nofun
theorem LinkNumbers.probeEnd x0 x1 : Statement (.probeEnd x0 x1) := fun _ _ => nofun
theorem LinkNumbers.probeTimeout x0 : Statement (.probeTimeout x0) := fun _ _ => nofun
theorem LinkNumbers.returnCopyDone x0 : Statement (.returnCopyDone x0) := fun _ _ => nofun
theorem LinkNumbers.leafMoveBack x0 : Statement (.leafMoveBack x0) := fun _ _ => nofun
theorem LinkNumbers.parityDone x0 : Statement (.parityDone x0) := fun _ _ => nofun
theorem LinkNumbers.scrubRead x0 x1 : Statement (.scrubRead x0 x1) := fun _ _ => nofun
theorem LinkNumbers.mirrorCheck : Statement (.mirrorCheck) := fun _ _ => nofun
theorem LinkNumbers.paceUpdate x0 x1 : Statement (.paceUpdate x0 x1) := fun _ _ => nofun
theorem LinkNumbers.tideTick : Statement (.tideTick) := fun _ _ => nofun
theorem LinkNumbers.tideLost : Statement (.tideLost) := fun _ _ => nofun
theorem LinkNumbers.tideExchange : Statement .tideExchange := fun _ _ => nofun
theorem LinkNumbers.oscCalibrate : Statement (.oscCalibrate) := fun _ _ => nofun
theorem LinkNumbers.gateOpen : Statement (.gateOpen) := fun _ _ => nofun
theorem LinkNumbers.gateLatch x0 : Statement (.gateLatch x0) := fun _ _ => nofun
theorem LinkNumbers.gateRelease x0 : Statement (.gateRelease x0) := fun _ _ => nofun
theorem LinkNumbers.tideLoRead : Statement (.tideLoRead) := fun _ _ => nofun
theorem LinkNumbers.ctxEpochLoRead x0 : Statement (.ctxEpochLoRead x0) := fun _ _ => nofun
theorem LinkNumbers.evClaim x0 : Statement (.evClaim x0) := fun _ _ => nofun
theorem LinkNumbers.evComplete x0 x1 : Statement (.evComplete x0 x1) := fun _ _ => nofun
theorem LinkNumbers.flush x0 x1 : Statement (.flush x0 x1) := fun _ _ => nofun
theorem LinkNumbers.evPendingSet x0 x1 : Statement (.evPendingSet x0 x1) := fun _ _ => nofun
theorem LinkNumbers.evPendingClr x0 x1 : Statement (.evPendingClr x0 x1) := fun _ _ => nofun
theorem LinkNumbers.evMaskSet x0 x1 : Statement (.evMaskSet x0 x1) := fun _ _ => nofun
theorem LinkNumbers.evMaskClr x0 x1 : Statement (.evMaskClr x0 x1) := fun _ _ => nofun
theorem LinkNumbers.evArbitrate : Statement (.evArbitrate) := fun _ _ => nofun
theorem LinkNumbers.evModerationEnd x0 : Statement (.evModerationEnd x0) := fun _ _ => nofun
theorem LinkNumbers.sleepChange x0 x1 : Statement (.sleepChange x0 x1) := fun _ _ => nofun
theorem LinkNumbers.extInputChange x0 x1 : Statement (.extInputChange x0 x1) := fun _ _ => nofun
theorem LinkNumbers.extPulseAccept x0 : Statement (.extPulseAccept x0) := fun _ _ => nofun
theorem LinkNumbers.extHoldoffEnd x0 : Statement (.extHoldoffEnd x0) := fun _ _ => nofun
theorem LinkNumbers.extStuck x0 : Statement (.extStuck x0) := fun _ _ => nofun
theorem LinkNumbers.evExtQuarRelease x0 : Statement (.evExtQuarRelease x0) := fun _ _ => nofun
theorem LinkNumbers.rearm x0 x1 : Statement (.rearm x0 x1) := fun _ _ => nofun
theorem LinkNumbers.freeze x0 x1 : Statement (.freeze x0 x1) := fun _ _ => nofun
theorem LinkNumbers.swMark x0 : Statement (.swMark x0) := fun _ _ => nofun
theorem LinkNumbers.mgBbSel x0 : Statement (.mgBbSel x0) := fun _ _ => nofun
theorem LinkNumbers.opptRequest x0 : Statement (.opptRequest x0) := fun _ _ => nofun
theorem LinkNumbers.opptRampEnd : Statement (.opptRampEnd) := fun _ _ => nofun
theorem LinkNumbers.pwrOn : Statement (.pwrOn) := fun _ _ => nofun
theorem LinkNumbers.pwrRetain : Statement (.pwrRetain) := fun _ _ => nofun
theorem LinkNumbers.pwrOff : Statement (.pwrOff) := fun _ _ => nofun
theorem LinkNumbers.retainEnter : Statement (.retainEnter) := fun _ _ => nofun
theorem LinkNumbers.retainExitDone : Statement (.retainExitDone) := fun _ _ => nofun
theorem LinkNumbers.mgReset x0 : Statement (.mgReset x0) := fun _ _ => nofun
theorem LinkNumbers.alwaysOnSupplyUp : Statement (.alwaysOnSupplyUp) := fun _ _ => nofun
theorem LinkNumbers.powerGood : Statement (.powerGood) := fun _ _ => nofun
theorem LinkNumbers.bootStepEnd x0 : Statement (.bootStepEnd x0) := fun _ _ => nofun
theorem LinkNumbers.addrAssign x0 : Statement (.addrAssign x0) := fun _ _ => nofun
theorem LinkNumbers.mgImgFloor x0 : Statement (.mgImgFloor x0) := fun _ _ => nofun
theorem LinkNumbers.detach x0 x1 : Statement (.detach x0 x1) :=
  linked rfl (by simp +contextual [Instr.wellFormed, linkNum])
theorem LinkNumbers.retrain x0 x1 : Statement (.retrain x0 x1) :=
  linked rfl (by simp +contextual [Instr.wellFormed, linkNum])
theorem LinkNumbers.linkEn x0 x1 : Statement (.linkEn x0 x1) :=
  linked rfl (by simp +contextual [Instr.wellFormed, linkNum])
theorem LinkNumbers.registerWrite x0 x1 x2 x3 : Statement (.registerWrite x0 x1 x2 x3) := fun _ _ => nofun
theorem LinkNumbers.phyReadyRise x0 : Statement (.phyReadyRise x0) := fun _ _ => nofun
theorem LinkNumbers.phyReadyFall x0 : Statement (.phyReadyFall x0) := fun _ _ => nofun
theorem LinkNumbers.laneLock x0 x1 : Statement (.laneLock x0 x1) :=
  linked rfl (by simp +contextual [Instr.wellFormed, linkNum])
theorem LinkNumbers.linkStateTimeout x0 : Statement (.linkStateTimeout x0) :=
  linked rfl (by simp +contextual [Instr.wellFormed, linkNum])
theorem LinkNumbers.linkTimeout x0 : Statement (.linkTimeout x0) :=
  linked rfl (by simp +contextual [Instr.wellFormed, linkNum])
theorem LinkNumbers.hailResend x0 : Statement (.hailResend x0) :=
  linked rfl (by simp +contextual [Instr.wellFormed, linkNum])
theorem LinkNumbers.hail x0 x1 x2 : Statement (.hail x0 x1 x2) :=
  linked rfl (by simp +contextual [Instr.wellFormed, onLink, linkNum])
theorem LinkNumbers.hailCheck x0 : Statement (.hailCheck x0) :=
  linked rfl (by simp +contextual [Instr.wellFormed, linkNum])
theorem LinkNumbers.idle x0 x1 : Statement (.idle x0 x1) :=
  linked rfl (by simp +contextual [Instr.wellFormed, onLink, linkNum])
theorem LinkNumbers.goodbye x0 x1 x2 : Statement (.goodbye x0 x1 x2) :=
  linked rfl (by simp +contextual [Instr.wellFormed, onLink, linkNum])
theorem LinkNumbers.route x0 x1 x2 : Statement (.route x0 x1 x2) :=
  linked rfl (by simp +contextual [Instr.wellFormed, onLink, linkNum])
theorem LinkNumbers.routeAdvertise : Statement (.routeAdvertise) := fun _ _ => nofun
theorem LinkNumbers.routeAge x0 : Statement (.routeAge x0) := fun _ _ => nofun
theorem LinkNumbers.tideReq x0 x1 x2 x3 : Statement (.tideReq x0 x1 x2 x3) :=
  linked rfl (by simp +contextual [Instr.wellFormed, onLink, linkNum])
theorem LinkNumbers.tideRsp x0 x1 x2 x3 x4 x5 : Statement (.tideRsp x0 x1 x2 x3 x4 x5) :=
  linked rfl (by simp +contextual [Instr.wellFormed, onLink, linkNum])
theorem LinkNumbers.join x0 x1 x2 x3 x4 x5 : Statement (.join x0 x1 x2 x3 x4 x5) :=
  linked rfl (by simp +contextual [Instr.wellFormed, onLink, linkNum])
theorem LinkNumbers.admitChild x0 x1 : Statement (.admitChild x0 x1) :=
  linked rfl (by simp +contextual [Instr.wellFormed, onLink, linkNum])
theorem LinkNumbers.refuse x0 x1 x2 : Statement (.refuse x0 x1 x2) :=
  linked rfl (by simp +contextual [Instr.wellFormed, onLink, linkNum])
theorem LinkNumbers.sealed x0 x1 x2 : Statement (.sealed x0 x1 x2) :=
  linked rfl (by simp +contextual [Instr.wellFormed, onLink, linkNum])
theorem LinkNumbers.domainArm x0 x1 x2 x3 : Statement (.domainArm x0 x1 x2 x3) :=
  linked rfl (by simp +contextual [Instr.wellFormed, onLink, linkNum])
theorem LinkNumbers.domainDisarm x0 x1 x2 x3 : Statement (.domainDisarm x0 x1 x2 x3) :=
  linked rfl (by simp +contextual [Instr.wellFormed, onLink, linkNum])
theorem LinkNumbers.fire x0 x1 x2 : Statement (.fire x0 x1 x2) :=
  linked rfl (by simp +contextual [Instr.wellFormed, onLink, linkNum])
theorem LinkNumbers.lost x0 x1 x2 : Statement (.lost x0 x1 x2) :=
  linked rfl (by simp +contextual [Instr.wellFormed, onLink, linkNum])
theorem LinkNumbers.depart x0 x1 : Statement (.depart x0 x1) :=
  linked rfl (by simp +contextual [Instr.wellFormed, onLink, linkNum])
theorem LinkNumbers.domainChange : Statement (.domainChange) := fun _ _ => nofun
theorem LinkNumbers.stepTimeout x0 : Statement (.stepTimeout x0) := fun _ _ => nofun
theorem LinkNumbers.progressSend : Statement (.progressSend) := fun _ _ => nofun
theorem LinkNumbers.sheetOpen x0 x1 x2 x3 x4 x5 x6 x7 : Statement (.sheetOpen x0 x1 x2 x3 x4 x5 x6 x7) :=
  linked rfl (by simp +contextual [Instr.wellFormed, recordOn, onLink, linkNum])
theorem LinkNumbers.rowCtl x0 x1 x2 x3 : Statement (.rowCtl x0 x1 x2 x3) :=
  linked rfl (by simp +contextual [Instr.wellFormed, recordOn, onLink, linkNum])
theorem LinkNumbers.brine x0 x1 x2 x3 : Statement (.brine x0 x1 x2 x3) :=
  linked rfl (by simp +contextual [Instr.wellFormed, recordOn, onLink, linkNum])
theorem LinkNumbers.grader x0 x1 x2 x3 : Statement (.grader x0 x1 x2 x3) :=
  linked rfl (by simp +contextual [Instr.wellFormed, recordOn, onLink, linkNum])
theorem LinkNumbers.mask x0 x1 x2 x3 : Statement (.mask x0 x1 x2 x3) :=
  linked rfl (by simp +contextual [Instr.wellFormed, recordOn, onLink, linkNum])
theorem LinkNumbers.watch x0 x1 x2 x3 : Statement (.watch x0 x1 x2 x3) :=
  linked rfl (by simp +contextual [Instr.wellFormed, recordOn, onLink, linkNum])
theorem LinkNumbers.pass x0 x1 x2 x3 : Statement (.pass x0 x1 x2 x3) :=
  linked rfl (by simp +contextual [Instr.wellFormed, recordOn, onLink, linkNum])
theorem LinkNumbers.abort x0 x1 x2 x3 : Statement (.abort x0 x1 x2 x3) :=
  linked rfl (by simp +contextual [Instr.wellFormed, recordOn, onLink, linkNum])
theorem LinkNumbers.adapter x0 x1 x2 x3 x4 x5 x6 : Statement (.adapter x0 x1 x2 x3 x4 x5 x6) :=
  linked rfl (by simp +contextual [Instr.wellFormed, recordOn, onLink, linkNum])
theorem LinkNumbers.adapterFree x0 x1 x2 x3 : Statement (.adapterFree x0 x1 x2 x3) :=
  linked rfl (by simp +contextual [Instr.wellFormed, recordOn, onLink, linkNum])
theorem LinkNumbers.windrow x0 x1 x2 x3 : Statement (.windrow x0 x1 x2 x3) :=
  linked rfl (by simp +contextual [Instr.wellFormed, recordOn, onLink, linkNum])
theorem LinkNumbers.stats x0 x1 x2 x3 : Statement (.stats x0 x1 x2 x3) :=
  linked rfl (by simp +contextual [Instr.wellFormed, recordOn, onLink, linkNum])
theorem LinkNumbers.vector x0 x1 x2 x3 : Statement (.vector x0 x1 x2 x3) :=
  linked rfl (by simp +contextual [Instr.wellFormed, recordOn, onLink, linkNum])
theorem LinkNumbers.reject x0 x1 x2 x3 : Statement (.reject x0 x1 x2 x3) :=
  linked rfl (by simp +contextual [Instr.wellFormed, recordOn, onLink, linkNum])
theorem LinkNumbers.progress x0 x1 x2 x3 : Statement (.progress x0 x1 x2 x3) :=
  linked rfl (by simp +contextual [Instr.wellFormed, recordOn, onLink, linkNum])
theorem LinkNumbers.placement x0 x1 x2 x3 : Statement (.placement x0 x1 x2 x3) :=
  linked rfl (by simp +contextual [Instr.wellFormed, recordOn, onLink, linkNum])
theorem LinkNumbers.adapterDone x0 x1 x2 x3 x4 : Statement (.adapterDone x0 x1 x2 x3 x4) :=
  linked rfl (by simp +contextual [Instr.wellFormed, recordOn, onLink, linkNum])
theorem LinkNumbers.mcast x0 x1 x2 x3 : Statement (.mcast x0 x1 x2 x3) :=
  linked rfl (by simp +contextual [Instr.wellFormed, onLink, linkNum])
theorem LinkNumbers.mcastReport x0 x1 x2 x3 : Statement (.mcastReport x0 x1 x2 x3) :=
  linked rfl (by simp +contextual [Instr.wellFormed, onLink, linkNum])
theorem LinkNumbers.alwaysOnSupplyLoss x0 : Statement (.alwaysOnSupplyLoss x0) := fun _ _ => nofun
theorem LinkNumbers.gradientPacket x0 x1 x2 x3 : Statement (.gradientPacket x0 x1 x2 x3) := fun _ _ => nofun

end Sys2Proof.Laws
end

