-- ==== Sys2Proof/Tests/Slice0.lean ====
section
/-!
SUPPORT. Tests: the checks of WellFormed refuse an ill-formed command each; for each statement with hypotheses, a theorem that concrete
states and operands meet them, clause by clause; and a few steps whose expected values come from the spec's own words.
-/

set_option Elab.async false

namespace Sys2Proof.Tests

open Sys2Proof.Machine Sys2Proof.Safety Sys2Proof.Laws

/-! ### States -/

/-- A Dambulor-64 after reset, its logic domain up and ready. -/
def on : State :=
  let z := State.resetOf .d64
  { z with power := { z.power with logicOn := true, st := .on, ready := true } }

/-- The same at an oscillator time and a tide. -/
def at_ (osc tide : Nat) : State := { on with tide := { on.tide with osc := osc, count := BitVec.ofNat 64 tide } }

/-! ### The event controller -/

/-- Source 5 pending, open, routed to target 2 with PRIO 3 and offered; target 2 holds source 9 of PRIO 1. -/
def evOffer : State :=
  let x := { targetReset with en := true, stack := [(9, 1)], offer := 5, irq := true }
  { on with events := { on.events with
      pending := setSrc 0 5 true, mask := setSrc on.events.mask 5 false, active := setSrc 0 9 true, cfg := [(5, (4, 3))]
      targets := on.events.targets.set 2 x } }

theorem witness_ClaimTakesOffer :
    (evOffer.power.logicOn = true ∧ (evTarget evOffer.events 2).offer ≠ 0 ∧ evOffer.events.pending.getLsbD 5 = true ∧
      evOffer.events.mask.getLsbD 5 = false ∧ evOffer.events.active.getLsbD 5 = false ∧
      bitOf (srcCfg evOffer.events 5).1 2 = true ∧ (evTarget evOffer.events 2).en = true ∧ (2 : Nat) < 8 ∧
      (evTarget evOffer.events 2).sleep = false ∧ evOffer.events.withdrawn.getLsbD 5 = false) ∧
    (∀ m p r, (evTarget evOffer.events 2).stack = (m, p) :: r → p < (srcCfg evOffer.events 5).2) ∧
    (evTarget evOffer.events 7).offer = 0 := by
  refine ⟨by decide, fun m p r h => ?_, by decide⟩
  obtain ⟨h1, -⟩ := List.cons.inj (show [(9, 1)] = (m, p) :: r from h)
  cases h1
  decide

theorem witness_CompletionPopsTop :
    evOffer.power.logicOn = true ∧ evOffer.events.targets.length = 8 ∧ (evTarget evOffer.events 2).stack = [(9, 1)] ∧
    (0 : Nat) % 256 = 0 ∧ (9 : Nat) % 256 ≠ 0 ∧ (255 : Nat) ≠ 9 ∧ (0x40000000#32).getLsbD 30 = true ∧ (255 : Nat) < 256 := by
  decide +kernel

/-- A word with one bit in each half; bits 0 and 31 are the ends of a word of sources. -/
def ends32 : Word := 0x80000001#32

/-- Target 7 busy, its moderation time just over, an offer in force. -/
def evModerated : State :=
  { at_ 70 0 with events := { on.events with
      targets := on.events.targets.set 7 { targetReset with modTime := 7, stack := [(9, 1)], offer := 5, lastClaim := 0 } } }

theorem witness_EventWordsAndLines :
    (on.power.logicOn = true ∧ (0 : Nat) < 8 ∧ (7 : Nat) < 8 ∧ on.events.targets.length = 8 ∧ on.power.aoUp = true) ∧
    (evModerated.power.logicOn = true ∧ evModerated.events.targets.length = 8 ∧ (evTarget evModerated.events 7).modTime ≠ 0 ∧
      (evTarget evModerated.events 7).stack ≠ [] ∧ (evTarget evModerated.events 7).offer ≠ 0 ∧
      (evTarget evModerated.events 7).lastClaim + 10 * (evTarget evModerated.events 7).modTime ≤ evModerated.tide.osc) := by decide +kernel

/-- Sources 5 and 6 pending and open with equal PRIO, targets 1 and 2 both enabled and idle. -/
def evTwo : State :=
  let x := { targetReset with en := true }
  { on with events := { on.events with
      pending := setSrc (setSrc 0 5 true) 6 true, mask := setSrc (setSrc on.events.mask 5 false) 6 false, cfg := [(5, (6, 3)), (6, (6, 3))]
      targets := (on.events.targets.set 2 x).set 1 x } }

theorem witness_ArbitrationOffersBest :
    evTwo.power.logicOn = true ∧ evTwo.events.targets.length = 8 ∧ routes evTwo.events = [(5, 1), (6, 1)] := by decide +kernel

/-- External input 31 with the given filter times, level high, at 1 ms. -/
def ext (i : ExtInput) : State := { at_ 1000000 0 with events := { on.events with chatLimit := 0, inputs := on.events.inputs.set 31 i } }

/-- Input 31 with one rise 9,999 ns ago and one 10,000 ns ago, under CHATTER 2. -/
def chattering : State :=
  let s := ext { inputReset with rises := [990000, 990001] }
  { s with events := { s.events with chatLimit := 2 } }

theorem witness_ExternalInputs :
    ((31 : Nat) < 32 ∧ on.power.aoUp = true ∧ on.power.logicOn = true ∧ on.power.st = .on) ∧
    ((ext inputReset).events.inputs.length = 32 ∧ (ext inputReset).events.chatLimit = 0 ∧
      (extInput (ext inputReset).events 31).raw = (ext inputReset).events.inv.getLsbD 31 ∧
      (extInput (ext inputReset).events 31).hold = none) ∧
    (let s := ext { inputReset with hold := some 1000001 };
      (extInput s.events 31).raw = s.events.inv.getLsbD 31 ∧ (extInput s.events 31).hold = some 1000001 ∧ s.tide.osc < 1000001) ∧
    (let s := ext { inputReset with raw := true, rise := some 999993 };
      (extInput s.events 31).raw ≠ s.events.inv.getLsbD 31 ∧ (extInput s.events 31).rise = some 999993 ∧
        s.tide.osc < 999993 + s.events.minPulse) ∧
    (let s := ext { inputReset with raw := true, rise := some 999992 };
      (extInput s.events 31).rise = some 999992 ∧ 999992 + s.events.minPulse ≤ s.tide.osc) ∧
    (let s := ext { inputReset with hold := some 1000000 };
      (extInput s.events 31).hold = some 1000000 ∧ 1000000 ≤ s.tide.osc) ∧
    (let s := ext { inputReset with raw := true, high := some 0 };
      (extInput s.events 31).raw ≠ s.events.inv.getLsbD 31 ∧ s.events.quar.getLsbD 31 = false ∧
        (extInput s.events 31).high = some 0 ∧ 0 + 1000000 * s.events.stuckMs ≤ s.tide.osc) ∧
    (let s := chattering; s.power.aoUp = true ∧ s.power.logicOn = true ∧ s.power.st = .on ∧ s.events.inputs.length = 32 ∧
      (extInput s.events 31).raw = s.events.inv.getLsbD 31 ∧ s.events.quar.getLsbD 31 = false ∧ s.events.chatLimit ≠ 0 ∧
      s.events.chatLimit ≤ ((extInput s.events 31).rises.filter fun t => decide (s.tide.osc < t + 10000)).length + 1) := by decide +kernel

/-- Input 31 quarantined, its level high. -/
def extQuar : State :=
  let s := ext { inputReset with raw := true }
  { s with events := { s.events with quar := 0x80000000#32 } }

theorem witness_ExternalInputs_release :
    extQuar.events.quar.getLsbD 31 = true ∧ ends32.getLsbD 31 = true ∧ extQuar.events.inputs.length = 32 := by decide +kernel

/-- Input 31 under the CHATTER of reset, its last rise 1 ns ago, in a hold-off or not. -/
def underLimit (hold : Option Nat) : State :=
  let s := ext { inputReset with rises := [999999], hold := hold }
  { s with events := { s.events with chatLimit := on.events.chatLimit } }

theorem witness_ExternalInputs_default :
    ∀ hold ∈ [none, some 1000001], let s := underLimit hold
      s.events.inputs.length = 32 ∧ s.events.chatLimit = 64 ∧ (extInput s.events 31).raw = s.events.inv.getLsbD 31 ∧
      (extInput s.events 31).hold = hold ∧ s.tide.osc < 1000001 ∧
      ((extInput s.events 31).rises.filter fun t => decide (s.tide.osc < t + 10000)).length + 1 < s.events.chatLimit := by decide +kernel

/-! ### The black box -/

/-- A recorder that a freeze has stopped. -/
def bbStopped : State := { on with bb := { on.bb with frozen := true } }

/-- One record retained. -/
def bbOne : State := { on with bb := { on.bb with ring := [⟨7, 1, 0x42, 0, 0, 0xFFFFFFFF#32, 5, 0, false⟩], recno := 1 } }

theorem witness_BlackBoxCommands :
    (on.power.logicOn = true ∧ on.power.aoUp = true ∧ on.bb.frozen = false ∧ on.bb.posting = false ∧
      on.bb.freeAt ≤ on.tide.osc + 128 ∧ on.bb.ring.length < 8192) ∧
    (bbStopped.power.logicOn = true ∧ bbStopped.bb.frozen = true) ∧
    ((0x80000000#32).getLsbD 31 = true ∧ (0x80000000#32).getLsbD 30 = false) ∧
    (bbOne.bb.ring.length = 1 ∧ bbOne.bb.ring[0]?.isSome = true ∧ bbOne.bb.ring.length ≤ 1) := by decide +kernel

/-- A recorder with `n` records retained, a posting with `left` records to come or none, POST and TRIG as given. -/
def recorder (n : Nat) (left : Option Nat) (post trig : Nat) : State :=
  let s := at_ 16 0
  { s with bb := { s.bb with
      ring := List.replicate n ⟨7, 1, 0x42, 0, 0, 0xFFFFFFFF#32, 5, 0, false⟩, posting := left.isSome, postLeft := left.getD 0, post := post, trig := trig } }

theorem witness_BlackBoxCommands_full (left : Option Nat) :
    let b := (recorder 8192 left 0 0).bb; b.frozen = false ∧ b.freeAt ≤ 16 + 128 ∧ b.ring.length = 8192 := by
  exact ⟨rfl, Nat.zero_le _, List.length_replicate ..⟩

theorem witness_BlackBoxCommands_post :
    ((recorder 1 (some 2) 0 0).bb.posting = true ∧ 1 < (recorder 1 (some 2) 0 0).bb.postLeft) ∧
    ((recorder 1 (some 1) 0 0).bb.posting = true ∧ (recorder 1 (some 1) 0 0).bb.postLeft ≤ 1) ∧
    ((0x40000000#32).getLsbD 31 = false ∧ (0x40000000#32).getLsbD 30 = true ∧ bitsOf (0x40000000#32).toNat 25 13 = 0) ∧
    ((0x42000000#32).getLsbD 31 = false ∧ (0x42000000#32).getLsbD 30 = true ∧ bitsOf (0x42000000#32).toNat 25 13 = 4096) ∧
    (let s := { on with bb := { on.bb with freeAt := 129 } }; s.tide.osc + 128 < s.bb.freeAt) := by decide +kernel

theorem witness_BlackBoxCommands_triggers :
    (∀ q ∈ [(0, 0x25), (0, 0x29), (1, 0x2A), (2, 0x11), (2, 0x17), (3, 0x30), (3, 0x37)], bitOf (recorder 1 none 0 (2 ^ q.1)).bb.trig q.1 = true ∧
      bitOf (recorder 1 none 0 (15 - 2 ^ q.1)).bb.trig q.1 = false ∧
      q.2 ∈ [[0x25, 0x27, 0x29], [0x2A], [0x11, 0x12, 0x13, 0x14, 0x16, 0x17], [0x30, 0x32, 0x34, 0x35, 0x37]].getD q.1 []) ∧
    ((recorder 1 none 0 8).bb.post = 0 ∧ (recorder 1 none 8191 8).bb.post ≠ 0) ∧
    ∀ trig ∈ [8, 7], let s := recorder 1 none 0 trig
      s.power.aoUp = true ∧ s.tide.refOk = true ∧ s.tide.lastEdge + 16 ≤ s.tide.osc ∧ s.bb.frozen = false ∧ s.bb.posting = false ∧
        s.bb.freeAt ≤ s.tide.osc + 128 ∧ s.bb.post = 0 ∧ bitOf s.bb.trig 3 = (trig == 8) := by decide +kernel

/-! ### The tide -/

/-- A follower that has a measured count and slews. -/
def slewing (k : Slew) (edges : Nat) : State :=
  { at_ 100 50 with tide := { (at_ 100 50).tide with follower := true, measured := true, phase := .slewing, slew := k, slewEdges := edges, slewLeft := 9 } }

/-- The gate waits for a count. -/
def gated (c : Nat) : State := { at_ 100 50 with tide := { (at_ 100 50).tide with gateEn := true, gateCount := c } }

theorem witness_TideAndGate :
    (on.power.aoUp = true ∧ on.tide.follower = false) ∧
    ((slewing .extra 15).tide.measured = true ∧ (slewing .half 1).tide.measured = true) ∧
    ((at_ 16 0).tide.refOk = true ∧ (at_ 16 0).tide.lastEdge + 16 ≤ (at_ 16 0).tide.osc) ∧
    ((at_ 0 65536).tide.refOk = true ∧ (at_ 0 65536).tide.calibrateAt + 65536 ≤ (at_ 0 65536).tide.count.toNat) ∧
    (on.power.logicOn = true ∧ (511 : Nat) < 512 ∧ ends32.getLsbD 31 = true ∧ (1#32).getLsbD 31 = false) ∧
    ((gated 50).tide.gateEn = true ∧ (gated 50).tide.gateCount ≤ (gated 50).tide.count.toNat) ∧
    ((gated 51).tide.gateEn = true ∧ (gated 51).tide.count.toNat < (gated 51).tide.gateCount) := by decide +kernel

/-! ### Supplies, power states and start-up -/

/-- The power group changed. -/
def power (f : Power → Power) : State := { on with power := f on.power }

theorem witness_OperatingPoints :
    (on.power.logicOn = true ∧ on.power.aoUp = true ∧ (at_ 0 1024).power.paceAt + 1024 ≤ (at_ 0 1024).tide.count.toNat) ∧
    (opPointOf ((2#32).toNat % 4) = some .high ∧ on.power.ramp = none) ∧
    ((power fun p => { p with ramp := some .low }).power.ramp = some .low ∧ (power fun p => { p with ramp := some .low }).power.rampQueued = none) ∧
    (let s := power fun p => { p with ramp := some .low, rampQueued := some .high };
      s.power.ramp = some .low ∧ s.power.rampQueued = some .high ∧ OpPoint.high ≠ .low) := by decide +kernel

theorem witness_RetainAndReturn :
    (on.power.aoUp = true ∧ on.power.target = none ∧ on.power.st = .on) ∧
    (let s := power fun p => { p with target := some .retain };
      s.power.target = some .retain ∧ s.power.st = .on ∧ s.power.queued = none ∧ drained s = true) ∧
    (let s := power fun p => { p with st := .retain, logicOn := false };
      s.power.aoUp = true ∧ s.power.target = none ∧ s.power.st = .retain) ∧
    (let s := power fun p => { p with st := .retain, logicOn := false, target := some .on };
      s.power.aoUp = true ∧ s.power.target = some .on ∧ s.power.st = .retain ∧ s.power.queued = none) := by decide +kernel

/-- A link in UP at the end of RETAIN, PHY_READY as given. -/
def waking (phy : Bool) : State :=
  let k := { linkReset 1 with phase := .up }
  { on with
    power := { on.power with st := .retain, logicOn := false, target := some .on }
    reach := { on.reach with phy := List.replicate 8 phy, links := List.replicate 8 k } }

theorem witness_RetainAndReturn_links :
    ∀ phy : Bool, let s := waking phy; s.power.target = some .on ∧ s.power.st = .retain ∧ s.power.queued = none ∧ s.reach.addrTold = s.reach.addr ∧
      (linkAt s 7).phase = .up ∧ phyAll s 7 = phy ∧ ∀ l < 8, phyAll s l = phy := by decide +kernel

theorem witness_ResetsAndFloor :
    (on.power.aoUp = true ∧ on.power.target = none ∧ on.power.st ≠ .off ∧ on.power.logicOn = true ∧ ends32.getLsbD 31 = true) ∧
    (power fun p => { p with aoUp := false, logicOn := false, st := .off }).power.aoUp = false := by decide +kernel

/-- Start-up with these steps in progress. -/
def boot (l : List Nat) : State := power fun p => { p with bootSteps := l, logicOn := l != [1], resetHeld := l == [1], ready := false }

theorem witness_StartUpSequence :
    ((State.resetOf .d64).power.aoUp = true ∧ (State.resetOf .d64).power.st = .off ∧ (State.resetOf .d64).power.resetHeld = false ∧
      (State.resetOf .d64).power.reqState = .on) ∧
    ((boot [1]).power.aoUp = true ∧ (boot [1]).power.bootSteps = [1] ∧ (boot [1]).power.queued = none) ∧
    ((boot [2]).power.bootSteps = [2] ∧ (boot [3, 5]).power.bootSteps = [3, 5] ∧ (boot [4, 5]).power.bootSteps = [4, 5] ∧
      (boot [4]).power.bootSteps = [4] ∧ 67 < (boot [4]).part.pans ∧ (boot [6]).power.bootSteps = [6]) := by decide +kernel

/-! ### Packets, contexts and ports -/

/-- A small image: H 128 in MXFP4, tokens 0 and 1 at position 0, token 2, frozen, at position 1. -/
def cfg : ImageCfg :=
  { version := 7, zynfein := 0, wfmt := .mxfp4, arr := 0, norm := .none, policy := .clamp, hchunks := 1, boundExp := 15, fanout := [8, 8]
    remote := 0, vhFmt := .bf16, vocab := 4, eps := 0, valueBias := 0, vhUnits := 0, actSlot := 0, derivSlot := 0
    rows := [[(0, false), (1, false)], [(2, true)]], gain := [], wdog := 1000, ovfLimit := 10, modes := 15, passCap := 4, role := 0, tide := 0
    allowOverlap := false, links := 4, parent := 0, children := [], loose := false, vell := false }

/-- An engine with the image in force and full ingress credits. -/
def up : State :=
  { on with
    image := { on.image with cfg := some cfg }
    ports := { on.ports with p0 := ⟨false, 65536, 0⟩, p1 := ⟨false, 65536, 0⟩ } }

/-- A packet of TYPE `ty` with COUNT `n`, TAG 9 and the bytes that follow its header. -/
def packet (ty n : Nat) (body : List Byte) : List Byte :=
  leBytes 1 ty ++ leBytes 1 1 ++ leBytes 2 n ++ leBytes 4 (64 + body.length) ++ leBytes 8 9 ++ List.replicate 48 0 ++ body

/-- A STEP packet of one RACE row of context `c`, an all-zero BF16 payload of 128 elements. -/
def stepPacket (c : Nat) : List Byte :=
  packet 1 1 (leBytes 2 c ++ leBytes 1 1 ++ leBytes 1 0 ++ leBytes 2 5 ++ List.replicate 58 0 ++ List.replicate 256 0)

/-- A CTX packet of one operation on context `c`, a zero body of `n` bytes. -/
def ctxPacketOf (c op n : Nat) : List Byte := packet 2 0 (leBytes 2 c ++ leBytes 1 op ++ List.replicate (61 + n) 0)

/-- A PATCH packet's block: OP, N, STEP, TIDE, HANDLE, RANK; then its body. -/
def patchPacketOf (op n stp tide handle rank : Nat) (body : List Byte) : List Byte :=
  packet 6 0 (leBytes 1 op ++ leBytes 1 0 ++ leBytes 2 n ++ leBytes 4 stp ++ leBytes 8 tide ++ leBytes 2 handle ++ leBytes 1 rank ++
    List.replicate 45 0 ++ body)

/-- The entry of one MXFP4 row of zeros of token `t`. -/
def rowEntry (t : Nat) : List Byte := leBytes 4 t ++ List.replicate 124 0

/-- A STEP packet of COUNT 2 with one record, a packet of TYPE 2 with no block, one of TYPE 7. -/
def badPackets : List (List Byte) := [packet 1 2 ((stepPacket 3).drop 64), packet 2 0 [], packet 7 0 []]

theorem witness_BadFramingIsAnswered :
    (∀ bs ∈ badPackets, canArrive 1 bs up = true) ∧
    badPackets.map classifyPkt = [.malformedStep, .malformed, .unknown] := by decide +kernel

/-- The same engine while an image is applied. -/
def applying (k : Nat) : State := { up with image := { up.image with phase := k } }

theorem witness_StepTakesItsPlace :
    (canArrive 0 (stepPacket 511) up = true ∧ classifyPkt (stepPacket 511) = .stepPkt [(stepPacket 511).drop 64] ∧ up.image.phase = 0) ∧
    (canArrive 0 (stepPacket 511) (applying 1) = true ∧ (applying 1).image.phase ≠ 0) := by decide +kernel

/-- A waiting sheet whose one row names context `c`, ordered before everything that arrives. -/
def waitingSheet (c : Nat) : Sheet := sheetWaiting 0 0 9 (stepPacket c) [(stepPacket c).drop 64]

/-- Context 511 OPEN, named by a sheet that waits. -/
def ctxBusy : State :=
  { up with
    ports := { up.ports with order := 1 }
    pipe := { up.pipe with ctxs := [(511, { ctxFree with phase := .opened })], waiting := [waitingSheet 511] } }

theorem witness_CtxPacketIsOrdered :
    (∀ op ∈ [1, 2, 3, 4, 5], canArrive 0 (ctxPacketOf 511 op 0) ctxBusy = true ∧ classifyPkt (ctxPacketOf 511 op 0) = .ctxPkt ∧
      leAt (ctxPacketOf 511 op 0) 66 1 = op) ∧
    ctxBusy.image.phase = 0 ∧ ctxBlockCode ctxBusy (ctxPacketOf 511 5 0) = 0 ∧ (ctxAt ctxBusy 511).phase = .opened ∧
    ctxBusy.pipe.closings = [] ∧ (waitingSheet 511).order < ctxBusy.ports.order ∧ sheetNames (waitingSheet 511) 511 = true := by decide +kernel

/-- An OPEN of context 511 with a valid body: T and ρ 1, φ and π 0, every cut off, no mask and no adapter. -/
def openPacket : List Byte :=
  packet 2 0 (leBytes 2 511 ++ leBytes 1 1 ++ List.replicate 61 0 ++
    (leBytes 4 0x3F800000 ++ leBytes 4 0x3F800000 ++ List.replicate 30 0 ++ leBytes 4 0xFFFFFFFF ++ List.replicate 214 0))

/-- The operation waits, for context 511 or, refused by the block's checks, for 512. -/
def opWaits (bs : List Byte) : State := { up with pipe := { up.pipe with ops := [⟨0, 1, 9, bs⟩] } }

/-- An engine on whose context 511, OPEN, a sheet in front of the operation may run. -/
def opOpen (bs : List Byte) (order : Nat) (xs : List Sheet) : State :=
  { up with pipe := { up.pipe with
      ctxs := [(511, { ctxFree with phase := .opened, countMode := 1, histHead := 4095, epoch := 8 })], ops := [⟨order, 1, 9, bs⟩], waiting := xs } }

/-- A SET of context 511: every field of the mask, T and ρ 1, φ and π 0, every cut off, no mask and no adapter. -/
def setPacket : List Byte := packet 2 0 (leBytes 2 511 ++ leBytes 1 2 ++ leBytes 1 0 ++ leBytes 4 0x3FF ++ List.replicate 56 0 ++ openPacket.drop 128)

/-- The bytes of an IMPORT of context 511 up to its last byte that is not 0. -/
def importHead : List Byte :=
  leBytes 1 2 ++ leBytes 1 1 ++ leBytes 2 0 ++ leBytes 4 98432 ++ leBytes 8 9 ++ List.replicate 48 0 ++ leBytes 2 511 ++ leBytes 1 4 ++
    List.replicate 61 0 ++ leBytes 4 0x3F800000 ++ leBytes 4 0x3F800000 ++ List.replicate 30 0 ++ leBytes 4 0xFFFFFFFF

/-- An IMPORT of context 511 whose tables and window are empty. -/
def importPacket : List Byte := importHead ++ List.replicate 98262 0

theorem import_length : importPacket.length = 98432 := by
  rw [importPacket, List.length_append, List.length_replicate]
  rfl

theorem import_leAt (off m : Nat) : leAt importPacket off m = leAt importHead off m := leAt_zeros ..

theorem import_body : ctxBody importPacket = importHead.drop 128 ++ List.replicate 98262 0 := by
  rw [ctxBody, importPacket, List.drop_append_of_le_length]
  decide +kernel

theorem importCtx_zeros (bs : List Byte) (n : Nat) : importCtx (bs ++ List.replicate n 0) = importCtx bs := by
  simp only [importCtx, readSampling, f32At, biasAt, countsAt, tokensAt, leAt_zeros]

theorem importReserved_zeros (bs : List Byte) (n : Nat) : importReservedOk (bs ++ List.replicate n 0) = importReservedOk bs := by
  simp only [importReservedOk, paramReservedOk, zerosAt, slice_zeros, leAt_zeros]

theorem import_reserved : importReservedOk (importHead.drop 128) = true := by decide +kernel
theorem import_ok : ctxOk 4 (importCtx (importHead.drop 128)) = true := by decide +kernel

theorem import_code : ctxWriteCode (opWaits importPacket) importPacket = 0 := by
  have hop : ctxOp importPacket = 4 := by
    rw [ctxOp, import_leAt]
    rfl
  have h1 : ctxBlockCode (opWaits importPacket) importPacket = 0 := by
    have a : ctxNoImage (opWaits importPacket) 4 = false := rfl
    have b : ctxCountsBad importPacket = false := by
      rw [ctxCountsBad, ctxBodyLen, hop, import_length]
      rfl
    have c : ctxBlockOk importPacket = true := by
      simp only [ctxBlockOk, ctxNum, ctxMask, ctxOp, ctxNBias, ctxNCount, ctxNHist, allZero, leAt, importPacket,
        slice_zeros]
      decide +kernel
    rw [ctxBlockCode, hop, a, b, c]
    rfl
  have h2 : (ctxAt (opWaits importPacket) (ctxNum importPacket)).phase = .free := rfl
  have h3 : ctxBodyOk (vocabOf (opWaits importPacket)) (ctxAt (opWaits importPacket) (ctxNum importPacket)) importPacket = true := by
    simp only [ctxBodyOk, ctxAfter, hop, import_body, importCtx_zeros, importReserved_zeros, import_reserved]
    exact import_ok
  simp only [ctxWriteCode, h1, h2, h3]
  rw [hop]
  rfl

theorem witness_CtxWriteTakesEffect_import :
    (opWaits importPacket).pipe.ops[0]? = some ⟨0, 1, 9, importPacket⟩ ∧ opReady (opWaits importPacket) ⟨0, 1, 9, importPacket⟩ = true ∧
      leAt importPacket 66 1 = 4 ∧ ctxWriteCode (opWaits importPacket) importPacket = 0 := by
  refine ⟨rfl, ?_, ?_, import_code⟩
  · simp only [opReady, opAckLen, ctxNum, ctxOp, import_leAt, opWaits, List.any_cons, List.any_nil]
    decide +kernel
  · rw [import_leAt]
    rfl

theorem witness_CtxWriteTakesEffect_set :
    let s := opOpen setPacket 1 []; let o : CtxWait := ⟨1, 1, 9, setPacket⟩
    s.power.logicOn = true ∧ s.pipe.ops[0]? = some o ∧ opReady s o = true ∧ s.pipe.closings = [] ∧ leAt o.bytes 66 1 = 2 ∧
      ctxWriteCode s o.bytes = 0 ∧ leAt o.bytes 68 4 = 0x3FF := by decide +kernel

theorem witness_CtxWriteTakesEffect_read :
    (let s := opOpen (ctxPacketOf 511 3 0) 1 []; let o : CtxWait := ⟨1, 1, 9, ctxPacketOf 511 3 0⟩
      s.pipe.ops[0]? = some o ∧ opReady s o = true ∧ leAt o.bytes 66 1 = 3 ∧ ctxBlockCode s o.bytes = 0) ∧
    (let s := opWaits (ctxPacketOf 512 3 0); let o : CtxWait := ⟨0, 1, 9, ctxPacketOf 512 3 0⟩
      s.pipe.ops[0]? = some o ∧ opReady s o = true ∧ leAt o.bytes 66 1 = 3 ∧ ctxBlockCode s o.bytes ≠ 0) := by decide +kernel

theorem witness_CtxWriteTakesEffect_cancel :
    (let s := opOpen (ctxPacketOf 511 5 0) 1 [waitingSheet 511]; let o : CtxWait := ⟨1, 1, 9, ctxPacketOf 511 5 0⟩
      s.pipe.ops[0]? = some o ∧ opReady s o = true ∧ leAt o.bytes 66 1 = 5 ∧ ctxBlockCode s o.bytes = 0 ∧ (ctxAt s 511).phase = .opened ∧
        sheetBefore s o.order 511 = true) ∧
    (let s := opOpen (ctxPacketOf 511 5 0) 1 [waitingSheet 3]; let o : CtxWait := ⟨1, 1, 9, ctxPacketOf 511 5 0⟩
      s.pipe.ops[0]? = some o ∧ opReady s o = true ∧ (ctxAt s 511).phase = .opened ∧ sheetBefore s o.order 511 = false) ∧
    (let s := opWaits (ctxPacketOf 511 5 0); let o : CtxWait := ⟨0, 1, 9, ctxPacketOf 511 5 0⟩
      s.pipe.ops[0]? = some o ∧ opReady s o = true ∧ ctxBlockCode s o.bytes = 0 ∧ (ctxAt s 511).phase ≠ .opened) := by decide +kernel

theorem witness_CtxWriteTakesEffect :
    (let s := opWaits openPacket; let o : CtxWait := ⟨0, 1, 9, openPacket⟩
      s.power.logicOn = true ∧ s.pipe.ops[0]? = some o ∧ opReady s o = true ∧ s.pipe.closings = [] ∧ leAt o.bytes 66 1 = 1 ∧
        ctxWriteCode s o.bytes = 0) ∧
    (let s := opWaits (ctxPacketOf 512 1 256); let o : CtxWait := ⟨0, 1, 9, ctxPacketOf 512 1 256⟩
      s.pipe.ops[0]? = some o ∧ opReady s o = true ∧ leAt o.bytes 66 1 = 1 ∧ ctxWriteCode s o.bytes ≠ 0) := by decide +kernel

/-- An OPEN of context 511 whose reserved byte 163 is not 0. -/
def badOpen : List Byte :=
  packet 2 0 (leBytes 2 511 ++ leBytes 1 1 ++ List.replicate 61 0 ++ (List.replicate 35 0 ++ [1] ++ List.replicate 220 0))

theorem witness_CtxWriteTakesEffect_codes :
    (let s := opWaits (ctxPacketOf 511 6 0); let o : CtxWait := ⟨0, 1, 9, ctxPacketOf 511 6 0⟩
      s.pipe.ops[0]? = some o ∧ opReady s o = true ∧ 5 < leAt o.bytes 66 1) ∧
    ({ up with fabric := { up.fabric with halted := true } }.fabric.halted = true ∧ up.fabric.halted = false ∧ on.image.cfg = none ∧
      up.image.cfg ≠ none) ∧
    ((ctxPacketOf 511 3 1).length ≠ 128 + 0 ∧ (ctxPacketOf 511 3 0).length = 128 + 0 ∧ leAt (ctxPacketOf 512 3 0) 64 2 = 512) ∧
    (leAt openPacket 66 1 = 1 ∧ openPacket.length = 128 + (256 + pad64 (8 * leAt openPacket 72 2) + pad64 (8 * leAt openPacket 74 2) +
        pad64 (4 * leAt openPacket 76 2)) ∧ leAt openPacket 64 2 ≤ 511 ∧ leAt openPacket 68 4 = 0 ∧
      (∀ i < 68, 67 ≤ i → leAt openPacket i 1 = 0) ∧ (∀ i < 128, 78 ≤ i → leAt openPacket i 1 = 0) ∧
      (ctxAt (opWaits openPacket) 511).phase = .free ∧ (ctxAt (opOpen openPacket 1 []) 511).phase = .opened ∧
      (∀ i < 164, 163 ≤ i → leAt openPacket i 1 = 0) ∧ ∀ i < 176, 170 ≤ i → leAt openPacket i 1 = 0) ∧
    (let x := ctxAfter ctxFree openPacket; x.bias = [] ∧ x.counts = [] ∧ x.histLen = 0 ∧ x.hashBlock = 0 ∧ x.hashPos = 0 ∧ x.countMode ≤ 1 ∧
      x.histHead < 4096) ∧
    (leAt badOpen 66 1 = 1 ∧ leAt badOpen 163 1 ≠ 0 ∧ badOpen.length = openPacket.length) := by decide +kernel

/-- A produced RESULT packet without records waits on port 1; its port holds `n` credits. -/
def sends (n : Nat) : State :=
  { up with ports := { up.ports with out := [⟨1, 9, 0, 0, 1, .result []⟩], p1 := ⟨false, 0, n⟩ } }

/-- Both ports held by PORT_RST. -/
def held : State := { up with ports := { up.ports with p0 := ⟨true, 0, 3⟩, p1 := ⟨true, 0, 3⟩ } }

theorem witness_PortsAndCredits :
    (up.power.logicOn = true ∧ up.ports.p0.rst = false ∧ up.ports.p1.rst = false) ∧
    ((sends 1).power.st = .on ∧ (sends 1).ports.p1.rst = false ∧ (sends 1).pipe.closings = [] ∧
      (((sends 1).ports.out.find? fun x => x.port == 1).map fun x => ceilDiv x.len 128) = some 1 ∧ (sends 1).ports.p1.egress = 1) ∧
    (held.power.logicOn = true ∧ held.ports.p0.rst = true ∧ held.ports.p1.rst = true) := by decide +kernel

theorem witness_CreditsNeverOvercommit :
    (up.ports.p0.credit + up.ports.p1.credit + ingressUsed up ≤ ingressUnits ∧ up.ports.p0.credit ≤ 65536 ∧ up.ports.p1.credit ≤ 65536) ∧
    (on.ports.p0.credit + on.ports.p1.credit + ingressUsed on ≤ ingressUnits ∧ on.ports.p0.credit ≤ 65536 ∧ on.ports.p1.credit ≤ 65536 ∧
      granting on = true ∧ on.ports.p0.rst = false ∧ on.ports.p1.rst = false) ∧
    (held.ports.p0.credit + held.ports.p1.credit + ingressUsed held ≤ ingressUnits ∧ granting held = true ∧ held.ports.p0.rst = true ∧
      held.ports.p1.rst = true) := by
  decide +kernel

/-! ### A generation, too long for the kernel to walk -/

/-- A slot whose endpoints rise or fall in one step. -/
def stepSlot (red mono : Nat) (a b : F32) : FnSlot := ⟨red, mono, 0, 0, a :: List.replicate 64 b, a :: List.replicate 16 b⟩

/-- Region `k` of a generation: slots 1 to 8 with the ends that R174 asks for. -/
def region (k : Nat) : List Byte :=
  slotBytes ([stepSlot 0 0 0 0, stepSlot 4 1 f32One 0x40000000#32, stepSlot 5 1 f32Zero f32One, stepSlot 6 2 f32One 0x3F000000#32,
    stepSlot 7 2 f32One 0x3F000000#32, stepSlot 1 1 f32Zero f32One, stepSlot 2 1 0x3F000000#32 f32One, stepSlot 3 0 f32Zero f32One,
    stepSlot 3 0 f32Zero f32One].getD k ⟨0, 0, 0, 0, [], []⟩)

/-- Bytes 4 on of a generation's header: slots 1 to 8 are present. -/
def genHead : List Byte := leBytes 4 0x1FF ++ List.replicate 2040 (0 : Byte)

/-- The 65,536 bytes of a generation with an ID. -/
def genOf (id : Word) : List Byte :=
  leBytes 4 id.toNat ++ (genHead ++ ((List.range 8).flatMap (fun i => region (i + 1)) ++ List.replicate 47104 (0 : Byte)))

theorem genHead_length : genHead.length = 2044 := by rw [genHead, List.length_append, List.length_replicate]; rfl

theorem region_length (k : Nat) (h : k < 9) : (region k).length = 2048 :=
  (show ∀ k < 9, (region k).length = 2048 by decide +kernel) k h

theorem regions_length (n : Nat) (h : n < 9) : ((List.range n).flatMap fun i => region (i + 1)).length = 2048 * n := by
  induction n with
  | zero => rfl
  | succ n ih =>
    rw [List.range_succ, List.flatMap_append, List.length_append, ih (by omega), List.flatMap_singleton, region_length _ h]
    omega

theorem genOf_length (id : Word) : (genOf id).length = 65536 := by
  simp only [genOf, List.length_append, regions_length 8 (by decide), List.length_replicate, genHead_length,
    show (leBytes 4 id.toNat).length = 4 from rfl]

/-- What the header of a generation says, whatever its ID. -/
theorem genOf_head (id : Word) (off m : Nat) (h : off + m ≤ 2044) : sliceBytes (genOf id) (4 + off) m = sliceBytes genHead off m :=
  slice_part _ _ _ _ _ _ (by rw [genHead_length]; exact h) rfl

/-- A slice of a present region. -/
theorem genOf_region (id : Word) (k off m : Nat) (hk : 0 < k) (h9 : k < 9) (h : off + m ≤ 2048) :
    sliceBytes (genOf id) (2048 * k + off) m = sliceBytes (region k) off m := by
  obtain ⟨j, rfl⟩ := Nat.exists_eq_succ_of_ne_zero (Nat.ne_of_gt hk)
  have hs : (List.range 8).flatMap (fun i => region (i + 1)) =
      (List.range j).flatMap (fun i => region (i + 1)) ++ (region (j + 1) ++ (List.range' (j + 1) (7 - j)).flatMap fun i => region (i + 1)) := by
    rw [show region (j + 1) ++ (List.range' (j + 1) (7 - j)).flatMap (fun i => region (i + 1)) =
      (j :: List.range' (j + 1) (7 - j)).flatMap fun i => region (i + 1) from rfl, ← List.flatMap_append]
    exact congrArg (List.flatMap _) ((show ∀ j < 8, List.range 8 = List.range j ++ j :: List.range' (j + 1) (7 - j) by decide) j (by omega))
  rw [genOf, hs, List.append_assoc, List.append_assoc, ← List.append_assoc genHead, ← List.append_assoc (leBytes 4 id.toNat)]
  refine slice_part _ _ _ _ _ _ (by rw [region_length _ h9]; exact h) ?_
  simp only [List.length_append, regions_length j (by omega)]
  rw [show (leBytes 4 id.toNat).length = 4 from rfl, genHead_length]
  omega

/-- An absent region is zeros. -/
theorem genOf_absent (id : Word) (k : Nat) (h9 : 9 ≤ k) : zeroRange (genOf id) (2048 * k) 2048 = true := by
  have h : sliceBytes (genOf id) (2048 * k) 2048 = List.replicate 2048 0 := by
    rw [genOf, ← List.append_assoc, ← List.append_assoc, slice_zeros]
    refine slice_past _ _ _ ?_
    simp only [List.length_append, regions_length 8 (by decide)]
    rw [show (leBytes 4 id.toNat).length = 4 from rfl, genHead_length]
    omega
  rw [zeroRange, h, List.all_eq_true]
  intro x hx
  rw [(List.mem_replicate.mp hx).2]
  rfl

/-- The checks of a region by itself. -/
def regionOk (k : Nat) : Bool :=
  let s := slotOfBytes (region k) 0
  decide (s.reduction ≤ 7) && decide (s.mono ≤ 2) &&
  (match slotFixed k with
   | some p => s.reduction == p.1 && s.mono == p.2
   | none => decide (s.reduction ≤ 3)) &&
  zeroRange (region k) 3 1 && zeroRange (region k) 8 8 && zeroRange (region k) 344 1704 &&
  x0Ok s && runOk s.mono s.y && runOk s.mono s.v &&
  endsOk s.reduction (s.y.getD 0 0) (s.y.getD 64 0) && endsOk s.reduction (s.v.getD 0 0) (s.v.getD 16 0)

theorem regions_ok : ∀ k < 8, regionOk (k + 1) = true := by decide +kernel

theorem genOf_slot (id : Word) (k : Nat) (hk : 0 < k) (h9 : k < 9) : slotOfBytes (genOf id) k = slotOfBytes (region k) 0 := by
  have hd (off m : Nat) (h : off + m ≤ 2048) : leAt ((genOf id).drop (2048 * k)) off m = leAt ((region k).drop (2048 * 0)) off m := by
    rw [leAt, leAt, Nat.mul_zero, List.drop_zero, ← genOf_region id k off m hk h9 h, sliceBytes, sliceBytes, List.drop_drop]
  simp only [slotOfBytes]
  rw [hd 0 1 (by decide), hd 1 1 (by decide), hd 2 1 (by decide), hd 4 4 (by decide)]
  congr 1 <;> refine List.map_congr_left fun i hi => ?_ <;> have := List.mem_range.mp hi <;> rw [hd _ _ (by omega)]

theorem genOf_mask (id : Word) : leAt (genOf id) 4 4 = 0x1FF := by
  rw [leAt, show (4 : Nat) = 4 + 0 from rfl, genOf_head _ _ _ (by decide)]
  decide

theorem genOf_slotOk (id : Word) (k : Nat) (hk : 0 < k) (h9 : k < 9) : slotOk (genOf id) k = true := by
  obtain ⟨j, rfl⟩ := Nat.exists_eq_succ_of_ne_zero (Nat.ne_of_gt hk)
  have h := regions_ok j (by omega)
  simp only [slotOk, zeroRange, genOf_slot id _ hk h9, genOf_region id _ _ _ hk h9 (show 3 + 1 ≤ 2048 by decide),
    genOf_region id _ _ _ hk h9 (show 8 + 8 ≤ 2048 by decide), genOf_region id _ _ _ hk h9 (show 344 + 1704 ≤ 2048 by decide)]
  exact h

theorem genOf_good (id : Word) : badRegion (genOf id) 0 0 = none := by
  rw [badRegion, List.find?_eq_none]
  intro k hk
  have hk := List.mem_range.mp hk
  have hm (k : Nat) (h : k < 32) : bitOf 0x1FF k = decide (k < 9) := (show ∀ k < 32, bitOf 0x1FF k = decide (k < 9) by decide) k h
  have hz : zeroRange (genOf id) 8 2040 = true := by
    rw [zeroRange, genOf_head id 4 2040 (by decide)]
    decide +kernel
  rw [genOf_mask, hm k hk, genHeaderOk, genOf_mask, hz]
  by_cases h0 : k = 0
  · simp only [h0, ↓reduceIte, Bool.and_true]
    exact fun h => absurd (Bool.and_eq_true_iff.mp h).2 (by decide)
  · by_cases h9 : k < 9
    · simp [h0, h9, genOf_slotOk id k (by omega) h9]
    · simp [h0, h9, genOf_absent id k (by omega)]

theorem genOf_slots (a b : Word) : (genOfBytes (genOf a)).slots = (genOfBytes (genOf b)).slots := by
  simp only [genOfBytes, genOf_mask]
  refine List.map_congr_left fun k hk => ?_
  have h : 0 < k ∧ k < 9 := by
    have hq := List.mem_filter.mp hk
    exact (show ∀ k < 32, (k != 0 && bitOf 0x1FF k) = true → 0 < k ∧ k < 9 by decide) k (List.mem_range.mp hq.1) hq.2
  rw [genOf_slot a k h.1 h.2, genOf_slot b k h.1 h.2]

theorem genOf_id (a : Word) : (genOfBytes (genOf a)).id = a := by
  have (xs : List Byte) : sliceBytes (leBytes 4 a.toNat ++ xs) 0 4 = leBytes 4 a.toNat := by simp [sliceBytes, leBytes]
  simp only [genOfBytes, leAt, genOf, this]
  simp only [leBytes, leNat]
  apply BitVec.eq_of_toNat_eq
  simp only [BitVec.toNat_ofNat]
  omega

/-- The ID that these slots ask for. -/
def genId : Word := genIdOf (genOfBytes (genOf 0))

theorem genOf_idOf (a : Word) : genIdOf (genOfBytes (genOf a)) = genId := by
  have h := genOf_slots a 0
  unfold genId genIdOf genBody slotMask Machine.slotOf
  rw [h]

/-! ### Mask loads and generation loads -/

/-- A mask load in a phase, of bitmap 1. -/
def masking (ph : MaskPhase) (b : Nat) (staged : List Byte) : State :=
  { up with masks := { up.masks with phase := ph, bitmap := b, staging := staged } }

/-- An image of 4,194,304 tokens: 64 bitmaps (R99). -/
def wide : ImageCfg := { cfg with vocab := 4194304 }

theorem witness_MaskLoadLife :
    (up.power.logicOn = true ∧ up.image.cfg = some cfg ∧ (0x80000000#32 + 1023#32).getLsbD 31 = true ∧ up.masks.phase = .idle ∧
      1023 < bitmapCount cfg ∧ (masking .reading 0 []).masks.phase ≠ .idle) ∧
    (bitmapCount wide = 64 ∧ { up with image := { up.image with cfg := some wide } }.image.cfg = some wide) ∧
    ((masking .staged 0 []).masks.phase = .staged ∧ maskFree (masking .staged 0 []) 0 = true) ∧
    (masking .copying 1 (List.replicate 64 2)).masks.phase = .copying := by decide +kernel

/-- A generation load in a phase. -/
def loading (ph : FnPhase) : State := { up with fn := { up.fn with phase := ph } }

theorem witness_FunctionLoadLife :
    (up.power.logicOn = true ∧ up.fn.inForce ≤ 1 ∧ up.fn.phase = .idle ∧ (loading .reading).fn.phase ≠ .idle ∧ ends32.getLsbD 31 = true) ∧
    ((loading (.waiting .builtin)).fn.phase = .waiting .builtin ∧ fnHolders (loading (.waiting .builtin)) (1 - up.fn.inForce) = 0) ∧
    (loading (.writing .builtin)).fn.phase = .writing .builtin := by decide +kernel

/-! ### Live weights -/

/-- A ROWS packet of one row of token `t` at step `stp`. -/
def rowsPacket (t stp : Nat) : List Byte := patchPacketOf 1 1 stp 0 0 0 (rowEntry t)

theorem witness_PatchRowsArrive :
    (canArrive 0 (patchPacketOf 7 0 0 0 0 0 []) up = true ∧ classifyPkt (patchPacketOf 7 0 0 0 0 0 []) = .patchPkt ∧ up.image.phase = 0 ∧
      sourceGroup up = none ∧ patchAckCode false (noImage up) ((up.image.cfg.map ImageCfg.b).getD 0) (patchPacketOf 7 0 0 0 0 0 []) ≠ 0) ∧
    (∀ t ∈ [0, 3], canArrive 0 (rowsPacket t 5) up = true ∧ classifyPkt (rowsPacket t 5) = .patchPkt ∧ patchAckCode false false cfg.b (rowsPacket t 5) = 0 ∧
      leAt (rowsPacket t 5) 64 1 = 1 ∧ leAt (rowsPacket t 5) 66 2 = 1 ∧ leAt (rowsEntry cfg.b (rowsPacket t 5) 0) 0 4 = t) ∧
    (up.fabric.halted = false ∧ up.weights.pkts = [] ∧ cfg.place 3 = none ∧
      rowFate up cfg 5 0 (sliceBytes (rowsEntry cfg.b (rowsPacket 0 5) 0) 8 cfg.b) = .write 0 0 ∧
      journalUsed up + entryBytes cfg.b ≤ journalSize) := by decide +kernel

/-- A journal entry for row 1 of position 0. -/
def entry : JEntry := ⟨0, 0, 1, 5, List.replicate 68 1⟩

/-- The entry waits, its packet otherwise in the journal. -/
def patched : State :=
  { up with weights := { up.weights with
      journal := [entry], nextPkt := 1
      pkts := [⟨0, 0, 9, patchBlock (rowsPacket 1 5), 2, [], 1, true⟩] } }

theorem witness_PatchRowRetires :
    patched.power.logicOn = true ∧ patched.image.cfg = some cfg ∧ 0 < patched.part.leaves ∧ headEntry patched 0 = some entry ∧
    mayRetire patched cfg entry = true ∧ isUnplaced patched 0 = false ∧ entry.pos < cfg.cap ∧ entry.bytes.length = cfg.b ∧
    stepFate patched cfg 0 entry.pos entry.stp = .write 0 entry.pos ∧ (∀ p ∈ patched.weights.pkts, p.todo = []) ∧
    spWf 0 patched.brine.mem = true ∧ 0 < cfg.b := by decide +kernel

theorem witness_PatchKeepsParity :
    panOf patched 0 % 17 ≠ 16 ∧ parityLive patched (0 / 16) = true ∧ (0x27FFFF : Nat) < regionSize ∧ parityAt patched 0 0x27FFFF ∧
    ∃ u, exec (.patchRowRetire 0) patched = .next u := by
  refine ⟨by decide +kernel, by decide +kernel, by decide +kernel, ?_, ?_⟩
  · unfold parityAt
    decide +kernel
  · exact ⟨_, rfl⟩

/-- A SEAL, an ARM at tide 100 and a DISARM of a step. -/
def sealPacket (stp : Nat) : List Byte := patchPacketOf 2 0 stp 0 0 0 []
/-- An ARM of a step at tide 100. -/
def armPacket (stp : Nat) : List Byte := patchPacketOf 3 0 stp 100 0 0 []
/-- A DISARM. -/
def disarmPacket : List Byte := patchPacketOf 4 0 0 0 0 0 []

/-- The ARM of step 5 at tide 100. -/
def theArm : ArmWait := ⟨0, 9, patchBlock (armPacket 5)⟩

/-- A flip in a state at a tide, every position sealed at `sld`. -/
def flipAt (ph : FlipPhase) (sld tide : Nat) : State :=
  { up with
    tide := { up.tide with count := BitVec.ofNat 64 tide }
    weights := { up.weights with
      flip := ph, arm := some theArm, holdLimit := 10, flipTarget := 5, flipTide := 100, wSealed := BitVec.ofNat 32 sld } }

theorem witness_SealArmDisarm :
    (∀ bs ∈ [sealPacket 1, sealPacket 0, armPacket 1, armPacket 0, disarmPacket],
      canArrive 1 bs up = true ∧ classifyPkt bs = .patchPkt ∧ patchAckCode false false cfg.b bs = 0) ∧
    (up.image.phase = 0 ∧ sourceGroup up = none ∧ up.image.cfg = some cfg ∧ up.fabric.halted = false ∧ cfg.role = 0 ∧ up.reach.dom.children = []) ∧
    (sealOk up 1 = true ∧ sealOk up 0 = false ∧ up.weights.wLive.toNat < (1#32).toNat ∧ up.weights.flip = .idle ∧ up.weights.arm = none ∧
      (0#32).toNat ≤ up.weights.wLive.toNat) ∧
    (canArrive 1 disarmPacket (flipAt .held 0 0) = true ∧ (flipAt .held 0 0).weights.flip = .held ∧ (flipAt .held 0 0).weights.arm = some theArm) ∧
    (up.weights.flip ≠ .armed ∧ up.weights.flip ≠ .held) := by decide +kernel

theorem witness_PatchRowsArrive_codes :
    (leAt (sealPacket 5) 64 1 = 2 ∧ (sealPacket 5).length = 128 ∧ (∀ i < 112, 84 ≤ i → leAt (sealPacket 5) i 1 = 0) ∧
      leAt (sealPacket 5) 66 2 = 0 ∧ leAt (sealPacket 5) 72 8 = 0 ∧ leAt (sealPacket 5) 80 2 = 0 ∧ leAt (sealPacket 5) 82 1 = 0) ∧
    (leAt (patchPacketOf 7 0 0 0 0 0 []) 64 1 = 7 ∧ leAt (patchPacketOf 2 1 5 0 0 0 []) 66 2 = 1) ∧
    ((rowsPacket 0 5 ++ [0]).length ≠ 128 + 1 * pad64 (8 + cfg.b) ∧ (rowsPacket 0 5).length = 128 + 1 * pad64 (8 + cfg.b)) ∧
    (¬ leAt (rowsPacket (2 ^ 22) 5) 128 4 < 2 ^ 22 ∧ leAt (rowsPacket 0 5) 128 4 < 2 ^ 22 ∧
      (∀ i < 136, 132 ≤ i → leAt (rowsPacket 0 5) i 1 = 0) ∧ ∀ i < 128 + pad64 (8 + cfg.b), 136 + cfg.b ≤ i → leAt (rowsPacket 0 5) i 1 = 0) := by
  decide +kernel

theorem witness_SealArmDisarm_replaced :
    ∀ ph ∈ [FlipPhase.armed, .held, .firing, .window], let s := flipAt ph 0 0
      canArrive 1 (armPacket 6) s = true ∧ patchAckCode false false cfg.b (armPacket 6) = 0 ∧ leAt (armPacket 6) 64 1 = 3 ∧
      s.weights.wLive.toNat < (patchBlock (armPacket 6)).stp.toNat ∧ s.weights.flip = ph ∧ s.weights.arm = some theArm := by decide +kernel

/-- A SEAL of step 5 waits for its effect. -/
def theSeal : SealWait := ⟨0, 9, patchBlock (sealPacket 5), 0, true⟩
/-- The SEAL accepted. -/
def sealing : State := { up with weights := { up.weights with seals := [theSeal] } }

theorem witness_SealTakesEffect :
    (sealing.power.logicOn = true ∧ sealing.image.cfg = some cfg ∧ cfg.role = 0 ∧ 63 < sealing.part.leaves ∧ sealing.weights.seals = [theSeal] ∧
      maySeal sealing cfg theSeal 63 = true ∧ sealing.weights.flip ≠ .window ∧ theSeal.answer = true ∧
      sealing.weights.wSealed ≠ theSeal.block.stp ∧ (0 : Nat) < sealing.part.leaves ∧ (0 : Nat) ≠ 63 ∧ posStep sealing 0 ≠ theSeal.block.stp) ∧
    sealing.fabric.unplaced = [] ∧ sealing.fabric.halted = false := by decide +kernel

/-- A HELD flip to which every position agrees, a sealed step having changed. -/
def deciding : State := { flipAt .held 5 0 with weights := { (flipAt .held 5 0).weights with recheck := true } }

theorem witness_FlipDecidesOrHolds :
    (cfg.role = 0 ∧ cfg.arr ≠ 1 ∧ up.reach.dom.children = [] ∧ (flipAt .armed 5 100).weights.arm = some theArm ∧ up.image.cfg = some cfg) ∧
    ((flipAt .armed 5 100).weights.flipTide.toNat ≤ (flipAt .armed 5 100).tide.count.toNat ∧
      ∀ l < (flipAt .armed 5 100).part.leaves, agrees (flipAt .armed 5 100) 5 l = true) ∧
    (agrees (flipAt .armed 4 100) 5 0 = false ∧ (0 : Nat) < (flipAt .armed 4 100).part.leaves) ∧
    ((flipAt .held 4 110).weights.flip = .held ∧
      (flipAt .held 4 110).weights.flipTide.toNat + (flipAt .held 4 110).weights.holdLimit.toNat ≤ (flipAt .held 4 110).tide.count.toNat) ∧
    (deciding.weights.flip = .held ∧ deciding.weights.recheck = true ∧ ∀ l < deciding.part.leaves, agrees deciding 5 l = true) := by
  decide +kernel

/-- Rows at position 63 alone. -/
def cfg63 : ImageCfg := { cfg with rows := List.replicate 63 [] ++ [[(0, false), (1, false)]] }

/-- Position 63 has still to replay row patches: row 0 is behind in its shadow bank, row 1 is not. -/
def replaying : State :=
  { up with image := { up.image with cfg := some cfg63 }, weights := { up.weights with replay := [63], ver0 := [(63 * 4096, 5)] } }

theorem witness_FlipFiresAndReplays :
    (cfg.arr = 0 ∧ (flipAt .firing 5 100).weights.flip = .firing ∧ (flipAt .firing 5 100).weights.arm = some theArm ∧
      (∀ x ∈ (flipAt .firing 5 100).pipe.flight, x.stage ≠ 4 ∧ x.stage ≠ 5) ∧ (flipAt .firing 5 100).fabric.beds = []) ∧
    (let s := { up with reach := { up.reach with dom := { up.reach.dom with fire := some 6 } } };
      s.weights.flip ≠ .firing ∧ s.reach.dom.fire = some 6 ∧ s.weights.arm = none ∧ s.fabric.beds = [] ∧ s.pipe.flight = []) ∧
    (63 < replaying.part.leaves ∧ replaying.weights.replay.contains 63 = true ∧ bedHolds replaying 63 = false ∧ isUnplaced replaying 63 = false ∧
      windowBusy replaying 63 = false ∧ replaying.brine.live ≤ 1 ∧ cfg63.arr ≠ 1 ∧ spWf 0 replaying.brine.mem = true ∧
      (cfg63.leafRows 63).length ≤ 4096 ∧ 1 < cfg63.cap ∧
      shadowVersion replaying cfg63 63 0 < liveVersion replaying cfg63 63 0 ∧ shadowVersion replaying cfg63 63 1 = liveVersion replaying cfg63 63 1) ∧
    (panOf replaying 63 % 17 ≠ 16 ∧ parityLive replaying (63 / 16) = true) := by
  decide +kernel

theorem witness_FlipFiresAndReplays_parity : parityAt replaying 3 0x27FFFF := by
  unfold parityAt
  decide +kernel

/-- A Single-bank engine with an ARM in force. -/
def single (ph : FlipPhase) (tide : Nat) : State :=
  { flipAt ph 0 tide with image := { up.image with cfg := some { cfg with arr := 1 } } }

/-- The write window open, step 5 sealed everywhere but at position 63, for which its SEAL waits. -/
def closing : State :=
  let s := single .window 105
  { s with weights := { s.weights with posSealed := (List.range 63).map fun k => (k, 5), seals := [theSeal] } }

/-- An ARM whose step every position has sealed. -/
def sealedAll : State := { flipAt .armed 5 100 with image := { up.image with cfg := some { cfg with arr := 1 } } }

theorem witness_SingleBankWindow_closes :
    (sealedAll.weights.arm = some theArm ∧ sealedAll.weights.flip = .armed ∧ sealedAll.weights.flipTide.toNat ≤ sealedAll.tide.count.toNat ∧
      sealedAll.reach.dom.children = [] ∧ ∀ l < sealedAll.part.leaves, posStep sealedAll l = theArm.block.stp ∧ isUnplaced sealedAll l = false) ∧
    (closing.weights.flip = .window ∧ closing.weights.arm = some theArm ∧ closing.weights.seals = [theSeal] ∧
      theSeal.block.stp = theArm.block.stp ∧ 63 < closing.part.leaves ∧ maySeal closing { cfg with arr := 1 } theSeal 63 = true ∧
      closing.reach.dom.children = [] ∧ (∀ k < closing.part.leaves, isUnplaced closing k = false) ∧
      ∀ k < closing.part.leaves, k ≠ 63 → posStep closing k = theArm.block.stp) := by decide +kernel

theorem witness_SingleBankWindow :
    ((single .armed 100).power.logicOn = true ∧ (single .armed 100).image.cfg = some { cfg with arr := 1 } ∧
      (single .armed 100).weights.arm = some theArm ∧ (single .armed 100).weights.flip = .armed ∧
      (single .armed 100).weights.flipTide.toNat ≤ (single .armed 100).tide.count.toNat ∧ 63 < (single .armed 100).part.leaves ∧
      posStep (single .armed 100) 63 ≠ theArm.block.stp) ∧
    ((single .window 110).weights.flip = .window ∧ (single .window 110).weights.windowRaised = false ∧
      (single .window 110).weights.flipTide.toNat + (single .window 110).weights.holdLimit.toNat ≤ (single .window 110).tide.count.toNat) := by
  decide +kernel

/-- An ADAPTER_LOAD of rank 1 for handle 3, and a retirement of handle 3. -/
def adLoadPacket : List Byte := patchPacketOf 5 0 0 0 3 1 []
/-- A retirement of handle 3. -/
def adRetirePacket : List Byte := patchPacketOf 6 0 0 0 3 0 []

/-- A load of version 15 in its phases: started with `n` slots, with `d` bytes read. -/
def adLoading (n : Nat) (d : List Byte) : State :=
  { up with adapters := { up.adapters with
      table := (up.adapters.table.set 0 ⟨.current, 3, 1, 0, 1, false⟩).set 15 ⟨.loading, 3, 1, 1, n, false⟩
      loads := [⟨0, 9, patchBlock adLoadPacket, some 15, 0, d, false, [], false⟩] } }

/-- Handle 3's version 0 pinned by context 511. -/
def adPinned : State :=
  { up with
    pipe := { up.pipe with ctxs := [(511, { ctxFree with phase := .opened, adapter := 3, pin := 0 })] }
    adapters := { up.adapters with table := up.adapters.table.set 0 ⟨.current, 3, 1, 0, 1, false⟩ } }

theorem witness_AdapterLife :
    (up.power.logicOn = true ∧ up.image.cfg = some cfg ∧ cfg.role = 0 ∧ up.reach.dom.children = [] ∧ up.adapters.table.length = 16) ∧
    (canArrive 0 adLoadPacket up = true ∧ classifyPkt adLoadPacket = .patchPkt ∧ sourceGroup up = none ∧ patchAckCode false false cfg.b adLoadPacket = 0 ∧
      (patchBlock adLoadPacket).op = 5 ∧ slotsNeeded cfg up.part.leaves 1 ≤ 16 ∧ up.adapters.loads = [] ∧ freeEntry up = some 0 ∧
      (freeRun up (slotsNeeded cfg up.part.leaves 1)).isSome = true) ∧
    (let s := adLoading 0 []; (adEntry s 15).slots = 0 ∧ freeRun s (slotsNeeded cfg s.part.leaves 1) = some 1 ∧ s.adapters.table.length = 16) ∧
    (let s := adLoading 1 (List.replicate 20000 0); 0 < (adEntry s 15).slots ∧ (adEntry s 15).phase = .loading ∧
      loadLen s cfg 1 ≤ 20000 ∧ currentOf s 3 = some 0 ∧ slotsWritable s = true) ∧
    (canArrive 0 adRetirePacket adPinned = true ∧ patchAckCode false false cfg.b adRetirePacket = 0 ∧ (patchBlock adRetirePacket).op = 6 ∧
      currentOf adPinned 3 = some 0 ∧ 0 < refs adPinned 0 ∧ adPinned.adapters.loads = []) := by decide +kernel

/-! ### Reads -/

/-- The engine with reads outstanding since time 0, at 100 µs. -/
def reading (rs : List ReadReq) (k : MaskPhase) (got : Nat) : State :=
  { up with
    tide := { up.tide with osc := 100000 }
    ports := { up.ports with reads := rs }
    masks := { up.masks with phase := k, staging := List.replicate got 0 } }

/-- A read of a kind, in force since time 0 on port 0. -/
def readFrom (k : ReadKind) (len : Nat) : ReadReq := ⟨k, 0, len, some 0, 0, 64⟩

/-- A generation load that has staged some bytes. -/
def fnReading (got : List Byte) : State :=
  let s := reading [readFrom .function 65536] .idle 0
  { s with fn := { s.fn with phase := .reading, staging := got } }

theorem genOf_take (id : Word) (got : List Byte) (h : got = []) : (got ++ genOf id).take 65536 = genOf id := by
  rw [h, List.nil_append, List.take_of_length_le (Nat.le_of_eq (genOf_length id))]

theorem witness_ReadsEndOrFail_function :
    (let s := fnReading []; readOf .function s = some (readFrom .function 65536) ∧ fnSlots s = (0, 0) ∧ s.fn.staging = [] ∧
      0 + 1000 * s.soft.readLimit ≤ s.tide.osc) ∧
    badRegion (List.replicate 2048 0) 0 0 = some 0 ∧ badRegion (List.replicate 2047 0) 0 0 = none ∧
    (badRegion ((([] : List Byte) ++ genOf genId).take 65536) 0 0 = none ∧ ((([] : List Byte) ++ genOf genId).take 65536).length = 65536 ∧
      (genOfBytes ((([] : List Byte) ++ genOf genId).take 65536)).id = genIdOf (genOfBytes ((([] : List Byte) ++ genOf genId).take 65536))) ∧
    (badRegion ((([] : List Byte) ++ genOf (genId + 1)).take 65536) 0 0 = none ∧
      (genOfBytes ((([] : List Byte) ++ genOf (genId + 1)).take 65536)).id ≠
        genIdOf (genOfBytes ((([] : List Byte) ++ genOf (genId + 1)).take 65536))) := by
  refine ⟨by decide +kernel, by decide +kernel, by decide +kernel, ?_, ?_⟩
  · rw [genOf_take _ _ rfl]
    exact ⟨genOf_good _, genOf_length _, (genOf_id _).trans (genOf_idOf _).symm⟩
  · rw [genOf_take _ _ rfl]
    refine ⟨genOf_good _, ?_⟩
    rw [genOf_id, genOf_idOf]
    bv_omega

/-- An adapter load of rank 1 in progress, its source awaited. -/
def adReading (d : List Byte) : State :=
  let s := reading [readFrom .adapter 20000] .idle 0
  { s with adapters := (adLoading 1 d).adapters }

theorem witness_ReadsEndOrFail_adapter :
    let s := adReading []; let x : AdLoad := ⟨0, 9, patchBlock adLoadPacket, some 15, 0, [], false, [], false⟩
    (readOf .adapter s = some (readFrom .adapter 20000) ∧ s.adapters.loads = [x] ∧ s.reach.dom.children = [] ∧
      0 + 1000 * s.soft.readLimit ≤ s.tide.osc) ∧
    0 < loadLen s cfg x.block.rank ∧
    (loadLen s cfg x.block.rank ≤ 20000 ∧ sourceOk cfg s.part.leaves x.block.rank (List.replicate 20000 0xFF) = false) ∧
    sourceOk cfg s.part.leaves x.block.rank (List.replicate 20000 0) = true := by decide +kernel

/-- An image of 121 rows of H 16,384 at position 0, of which one lies in the overflow windows. -/
def cfgOvf : ImageCfg := { cfg with arr := 2, hchunks := 128, vocab := 128, rows := [(List.range 121).map fun t => (t, false)] }

/-- Window reads of position 0 outstanding, for the patch of its overflow row or for a replay. -/
def windowing (ks : List ReadKind) : State :=
  let s := reading (ks.map fun k => readFrom k 128) .idle 0
  { s with
    image := { s.image with cfg := some cfgOvf }
    weights := { s.weights with journal := [⟨0, 0, 120, 5, List.replicate 8704 1⟩] } }

theorem witness_ReadsEndOrFail_windows :
    cfgOvf.cap = 120 ∧ cfgOvf.b = 8704 ∧ groupBytes cfgOvf = 128 ∧
    (let s := windowing [.windowPatch 0 126, .windowPatch 0 127]; readOf (.windowPatch 0 127) s = some (readFrom (.windowPatch 0 127) 128) ∧
      (headEntry s 0).isSome = true ∧ ∃ q ∈ s.ports.reads, q.kind ≠ .windowPatch 0 127 ∧ ∃ n, q.kind = .windowPatch 0 n) ∧
    (let s := windowing [.windowPatch 0 127]; (headEntry s 0).isSome = true ∧ s.weights.pkts = [] ∧
      ∀ q ∈ s.ports.reads, q.kind = .windowPatch 0 127) ∧
    (let s := windowing [.windowReplay 0 127]; readOf (.windowReplay 0 127) s = some (readFrom (.windowReplay 0 127) 128)) := by
  refine ⟨by decide +kernel, by decide +kernel, by decide +kernel, ⟨by decide +kernel, by decide +kernel,
    ⟨readFrom (.windowPatch 0 126) 128, by decide +kernel, by decide, 126, rfl⟩⟩, by decide +kernel, by decide +kernel⟩

/-- A row of context `c` in a mode with one slot, nothing computed yet. -/
def rowIn (mode c : Nat) (ph : RowPhase) (sl : Slot) : Row :=
  { rowWaiting (leBytes 2 c ++ leBytes 1 mode ++ leBytes 1 0 ++ leBytes 2 5 ++ List.replicate 58 0 ++ List.replicate 256 0) with
    nslots := 1, slots := [sl], snap := { ctxFree with phase := .opened, cuts := cutsOff }, phase := ph }

/-- A sheet in flight. -/
def sheet (seq stage : Nat) (rows : List Row) : Sheet :=
  { waitingSheet 511 with seq := seq, order := seq, stage := stage, rows := rows }

/-- The engine with these sheets in flight. -/
def flying (xs : List Sheet) : State :=
  { up with pipe := { up.pipe with flight := xs, nextSeq := 9, ctxs := [(511, { ctxFree with phase := .opened })] } }

/-- A sheet in stage 4 whose position 0 lacks an overflow group. -/
def stalled : State :=
  { reading [readFrom (.overflow 0 0) 128] .idle 0 with
    pipe := (flying [{ sheet 3 4 [rowIn 1 511 .running (slotStart [])] with fetch := [(0, 0, some 0)] }]).pipe }

theorem witness_ReadsEndOrFail :
    (let s := reading [readFrom .mask 64] .reading 0; s.power.logicOn = true ∧ s.power.st = .on ∧ s.image.cfg = some cfg ∧
      readOf .mask s = some (readFrom .mask 64) ∧ s.ports.p0.rst = false ∧
      s.masks.staging.length + 64 = maskBytes cfg ∧ s.masks.staging.length + 63 < maskBytes cfg ∧ 0 + 1000 * s.soft.readLimit ≤ s.tide.osc) ∧
    (let s := reading [readFrom .image 64] .idle 0; readOf .image s = some (readFrom .image 64) ∧ (s.image.data ++ List.replicate 63 0).length < 64) ∧
    (readOf (.overflow 0 0) stalled = some (readFrom (.overflow 0 0) 128) ∧ 0 + 1000 * cfg.ovfLimit ≤ stalled.tide.osc ∧
      (groupWaiter stalled 0 0).map (·.seq) = some 3 ∧ (stalled.pipe.flight.map (·.seq)).Nodup) := by decide +kernel
/-- The image of a position with one overflow row of one chunk, and a group whose CRC holds. -/
def goodGroup : List Byte := groupPut cfgOvf (List.replicate 128 0) 0 (List.replicate 68 1)

/-- A sheet in stage 4 whose position 0 lacks its group of chunk 127, read once before or not. -/
def awaiting (again : List (Nat × Nat)) : State :=
  let z : IntBlock := ⟨List.replicate 32 0, 0⟩
  let s := { reading [readFrom (.overflow 0 127) 128] .idle 0 with
    pipe := (flying [{ sheet 3 4 [rowIn 1 511 .running (slotStart (List.replicate 512 z))] with fetch := [(0, 0, some 0)], retried := again }]).pipe }
  { s with image := { s.image with cfg := some cfgOvf } }

theorem witness_ReadsEndOrFail_groups :
    ∀ again ∈ [[], [(0, 127)]], let s := awaiting again
      s.power.logicOn = true ∧ s.power.st = .on ∧ readOf (.overflow 0 127) s = some (readFrom (.overflow 0 127) 128) ∧ s.ports.p0.rst = false ∧
        (s.pipe.flight.map (·.seq)).Nodup ∧ ((groupWaiter s 0 127).map fun x => (x.seq, x.retried)) = some (3, again) ∧
        (groupWaiter s 0 127).all (fun x => (x.fetch.find? fun q => q.1 == 0).map Prod.snd == (firstWork cfgOvf x 0).map fetchFor) = true := by
  decide +kernel

theorem witness_ReadsEndOrFail_crc :
    (goodGroup.length = 128 ∧ groupOk cfgOvf goodGroup = true ∧
      groupOk cfgOvf (1 :: List.replicate 127 0) = false) := by decide +kernel

/-! ### Sheets in the pipeline -/

/-- A sheet waits and none is in flight. -/
def queued : State := { up with pipe := { up.pipe with waiting := [waitingSheet 511], nextSeq := 1 } }

theorem witness_SheetAdvances :
    (queued.power.logicOn = true ∧ queued.image.cfg = some cfg ∧ (queued.pipe.flight.map (·.seq)).Nodup ∧ queued.pipe.waiting = [waitingSheet 511] ∧
      mayEnter2 queued = true ∧ queued.fn.phase ≠ .ready) ∧
    (let s := flying [sheet 3 2 [rowIn 1 511 .running (slotStart [])]]; (firstAt s 2).map (·.seq) = some 3 ∧
      mayEnter3 s (sheet 3 2 [rowIn 1 511 .running (slotStart [])]) = true ∧ (s.pipe.flight.map (·.seq)).Nodup) ∧
    (let s := flying [sheet 3 3 [rowIn 1 511 .running (slotStart [])]]; ((s.pipe.flight.find? fun y => y.stage == 3 && mayEnter4 s y && readyFor4 s y).map (·.seq)) = some 3 ∧ childLinks s = []) := by decide +kernel

/-- An image with 65 rows at position 63: two batches there. -/
def tall : ImageCfg := { cfg with rows := List.replicate 63 [] ++ [(List.range 65).map fun t => (t, false)] }

/-- A RACE row of one slot in stage 4 under it. -/
def twoBatches : State :=
  let s := flying [sheet 3 4 [rowIn 1 511 .running (slotStart [⟨List.replicate 32 0, 0⟩, ⟨List.replicate 32 0, 0⟩, ⟨List.replicate 32 0, 0⟩, ⟨List.replicate 32 0, 0⟩])]]
  { s with image := { s.image with cfg := some tall } }

theorem witness_ScoreBatchFolds :
    twoBatches.image.cfg = some tall ∧ 63 < twoBatches.part.leaves ∧ (twoBatches.pipe.flight.map (·.seq)).Nodup ∧ (tall.leafRows 63).length = 65 ∧
    0 + 1 ≠ batchCount 65 ∧
    ∃ x i p r sl, located twoBatches 3 0 = some (x, i, p, r, sl) ∧ mayScore twoBatches tall x r p sl 63 = true ∧ (sl.leafAt 63).nextBatch = 0 := by
  refine ⟨by decide +kernel, by decide +kernel, by decide +kernel, by decide +kernel, by decide +kernel, ?_⟩
  exact ⟨_, _, _, _, _, rfl, by decide +kernel, by decide +kernel⟩

/-- The same row once position 63 has folded its first batch, in a rerun or not. -/
def lastBatch (redo : Option PassCtl) : State :=
  let sl := slotStart [⟨List.replicate 32 0, 0⟩, ⟨List.replicate 32 0, 0⟩, ⟨List.replicate 32 0, 0⟩, ⟨List.replicate 32 0, 0⟩]
  let s := flying [sheet 3 4 [rowIn 1 511 .running { sl with redo := redo, leaves := [(63, { leafStart ctlStart false with nextBatch := 1 })] }]]
  { s with image := { s.image with cfg := some tall } }

theorem witness_ScoreBatchFolds_last :
    ∀ redo ∈ [none, some ctlStart], ∀ leaf ∈ [0, 63], ∃ x i p r sl, located (lastBatch redo) 3 0 = some (x, i, p, r, sl) ∧
      mayScore (lastBatch redo) tall x r p sl leaf = true ∧ ((tall.leafRows leaf).length = 0 ∨ (sl.leafAt leaf).nextBatch + 1 = batchCount 65) ∧
      sl.redo = redo ∧ (sl.leafAt leaf).redone = false := by
  intro redo hr leaf hl
  rcases List.mem_cons.mp hr with rfl | hr
  · refine ⟨_, _, _, _, _, rfl, ?_, ?_, rfl, ?_⟩ <;> revert leaf <;> decide +kernel
  · obtain rfl := List.mem_singleton.mp hr
    refine ⟨_, _, _, _, _, rfl, ?_, ?_, rfl, ?_⟩ <;> revert leaf <;> decide +kernel

/-- Two windrows in rank order that share token 5. -/
def windrows : List (List Entry) := [[⟨5, f32One⟩, ⟨9, f32Zero⟩], [⟨4, f32One⟩, ⟨5, f32One⟩]]

theorem witness_RakeMergeOrdered :
    ∀ w ∈ windrows, (∀ e ∈ w, fIsNan e.key = false) ∧ w.Pairwise fun a b => ranksBefore a b = true := by decide +kernel

theorem witness_WindrowOrderFree :
    (windrows.getD 0 []).Perm (windrows.getD 0 []).reverse ∧ ((windrows.getD 0 []).map (·.tok)).Nodup ∧
    ∀ e ∈ windrows.getD 0 [], fIsNan e.key = false := by decide +kernel

/-- Graded scores in two batches: three valid, one not, and one valid score below 0.5. -/
def graded : List (List (Nat × Graded)) :=
  [[(5, ⟨f32One, f32Zero, .valid⟩), (9, ⟨f32Zero, f32One, .valid⟩)], [(4, ⟨f32One, f32One, .valid⟩), (7, ⟨0x7FC00000#32, f32One, .nan⟩)]]

theorem witness_WindrowOrderFree_batches :
    (graded.flatten.map (·.1)).Nodup ∧ (∀ q ∈ graded.flatten, q.2.kind = .valid → fIsNan q.2.g = false ∧ fIsNan q.2.r = false) ∧
    (graded.flatten.filter fun q => q.2.kind = .valid && fLe 0x3F000000#32 q.2.g).map (·.1) = [5, 4] ∧
    (graded.flatten.filter fun q => q.2.kind = .valid && fLe 0x7F800000#32 q.2.g) = [] ∧ graded.flatten.Perm graded.reverse.flatten := by
  decide +kernel

/-- What a pan sends with one entry and one valid score. -/
def childOut : ChildOut := ⟨[⟨5, f32One⟩], { statsEmpty 2 false false with m := f32One, s := f32One, valid := 1 }, [], f32Zero⟩
/-- A pan without a valid score. -/
def childNone : ChildOut := ⟨[], statsEmpty 2 false false, [], f32Zero⟩

/-- Composite `n` of a row in stage 5 has its eight children's outputs. -/
def merging (n : Nat) : State :=
  flying [sheet 3 5 [rowIn 1 511 .running { slotStart [] with nodes := [(n, ⟨(7, childOut) :: (List.range 7).map fun k => (k, childNone), [], [], [], false, false⟩)] }]]

theorem witness_RakeMergeEmits :
    ∀ n ∈ [0, 8], n < nodeCount (fanout (merging n)) ∧ ((merging n).pipe.flight.map (·.seq)).Nodup ∧
      ∃ x i p r sl, mergeSheet (merging n) 3 = some x ∧ located (merging n) 3 0 = some (x, i, p, r, sl) ∧
        r.phase = .running ∧ (sl.nodeAt n).sent = false ∧ kidsIn (merging n) sl n = true ∧ x.parentLink = none := by
  intro n hn
  rcases List.mem_cons.mp hn with rfl | hn
  · exact ⟨by decide +kernel, by decide +kernel, _, _, _, _, _, rfl, rfl, rfl, rfl, by decide +kernel, rfl⟩
  · obtain rfl := List.mem_singleton.mp hn
    exact ⟨by decide +kernel, by decide +kernel, _, _, _, _, _, rfl, rfl, rfl, rfl, by decide +kernel, rfl⟩

/-- A RACE row whose head merge has ended. -/
def decided (o : ChildOut) : State := flying [sheet 3 5 [rowIn 1 511 .running { slotStart [] with head := some o }]]

theorem witness_UncutRaceDecides :
    ∀ o ∈ [childOut, childNone], ((decided o).pipe.flight.map (·.seq)).Nodup ∧
      ∃ x r sl, mergeSheet (decided o) 3 = some x ∧ x.parentLink = none ∧ x.rows[0]? = some r ∧ r.phase = .running ∧ r.slots = [sl] ∧
        sl.head = some o ∧ sl.headFirst = none ∧ rowMode r.bytes = some .race ∧ r.snap.cuts.anyOn = false ∧
        ∀ q ∈ x.rows, q.phase = .running ∨ q.phase = .done := by
  intro o ho
  rcases List.mem_cons.mp ho with rfl | ho
  · exact ⟨by decide +kernel, _, _, _, rfl, rfl, rfl, rfl, rfl, rfl, rfl, by decide +kernel, by decide +kernel, by decide +kernel⟩
  · obtain rfl := List.mem_singleton.mp ho
    exact ⟨by decide +kernel, _, _, _, rfl, rfl, rfl, rfl, rfl, rfl, rfl, by decide +kernel, by decide +kernel, by decide +kernel⟩

/-- A GRAD row in its backward pass. -/
def backward : State :=
  flying [sheet 3 5 [{ rowIn 4 511 .backward (slotStart []) with bufRow := some 0 }]]

theorem witness_GradientChunkSent :
    backward.power.logicOn = true ∧ backward.image.cfg = some cfg ∧ 0 < backward.part.leaves ∧ (backward.pipe.flight.map (·.seq)).Nodup ∧
    leafWorks backward 0 = true ∧ 0 < cfg.hchunks ∧
    ∃ x i p r sl, mergeSheet backward 3 = some x ∧ located backward 3 0 = some (x, i, p, r, sl) ∧ r.phase = .backward ∧
      takesTurn cfg backward x r p 0 sl = true ∧ groupsIn cfg x (workAt cfg r p 0 sl) 0 = true ∧ x.parentLink = none ∧ chunksSent sl 0 = 0 :=
  ⟨by decide +kernel, by decide +kernel, by decide +kernel, by decide +kernel, by decide +kernel, by decide +kernel,
    _, _, _, _, _, rfl, rfl, rfl, by decide +kernel, by decide +kernel, rfl, by decide +kernel⟩

/-- A sheet of two rows in stage 6: row 0 of context 511 has failed, row 1 of context 3 too, another context is free. -/
def ended : State :=
  flying [sheet 3 6 [(rowIn 1 3 .done (slotStart [])).poison, { rowIn 1 511 .done (slotStart []) with steps := 1, tokens := [2] }]]

theorem witness_SheetCommits :
    ended.power.logicOn = true ∧ (ended.pipe.flight.map (·.seq)).Nodup ∧ ended.pipe.closings = [] ∧ ended.adapters.moves = [] ∧
    ∃ x, (ended.pipe.flight.find? fun y => y.parentLink.isNone) = some x ∧ x.stage = 6 ∧ childrenDone ended x = true ∧
      readsBefore ended x = false ∧ egressFits (resultLen x ended) ended = true ∧ ∀ r ∈ x.rows, r.result = none :=
  ⟨by decide +kernel, by decide +kernel, by decide +kernel, by decide +kernel,
    _, rfl, rfl, by decide +kernel, by decide +kernel, by decide +kernel, by decide +kernel⟩

/-- A VERIFY row of two positions: every child of composite 8 has sent position 1's output, and position 0 has passed the composite. -/
def rising : State :=
  let kids : List (Nat × ChildOut) := (List.range 8).map fun k => (k, childNone)
  flying [sheet 3 5 [{ rowIn 3 511 .running (slotStart []) with
    nslots := 2
    slots := [{ slotStart [] with nodes := [(8, ⟨kids, [], [], [], true, false⟩)] },
      { slotStart [] with ctl := { ctlStart with pass := 1 }, nodes := [(8, ⟨kids, [], [], [], false, false⟩)] }] }]]

theorem witness_RakeMergeEmits_verify :
    ∃ x i p r sl, mergeSheet rising 3 = some x ∧ located rising 3 1 = some (x, i, p, r, sl) ∧ r.phase = .running ∧ (sl.nodeAt 8).sent = false ∧
      kidsIn rising sl 8 = true ∧ risesNow x i r sl 8 = true :=
  ⟨_, _, _, _, _, rfl, rfl, rfl, rfl, by decide +kernel, by decide +kernel⟩

/-- A row of a mode with these SFLAGS and TARGET 5, against a context of a temperature with top-k 5 and two passes. -/
def rowAs (mode sflags : Nat) (temp : F32) (ph : RowPhase) (sl : Slot) : Row :=
  { rowIn mode 511 ph sl with
    bytes := leBytes 2 511 ++ leBytes 1 mode ++ leBytes 1 0 ++ leBytes 2 5 ++ leBytes 1 0 ++ leBytes 1 sflags ++ leBytes 4 5 ++
      List.replicate 308 0
    snap := { ctxFree with phase := .opened, temp := temp, listLen := 1, cuts := { cutsOff with kTop := 5, passLimit := 2 } } }

/-- A slot whose pass has reached the head pan with an output, under a windrow length. -/
def headSlot (pass kw : Nat) (o : ChildOut) : Slot :=
  { slotStart [] with ctl := { ctlStart with pass := pass, kw := kw }, head := some o }

/-- A sheet whose row 0 the head pan is to work on. -/
def headed (rows : List Row) : State := flying [sheet 3 5 rows]

/-- A pan's output that reports token 5. -/
def childReport : ChildOut := { childOut with reports := [(5, f32One)] }

/-- A LEDGER row in a phase at a pass. -/
def ledgerRow (ph : RowPhase) (pass : Nat) (o : ChildOut) : Row := rowAs 2 0 f32One ph (headSlot pass 1 o)

/-- A GRAD row in a phase. -/
def gradRow (ph : RowPhase) : Row := rowAs 4 2 f32One ph (headSlot 0 1 childReport)

/-- Sheets of one row, and of that row and another, for the modes. -/
def headRows : List (List Row) :=
  [[rowAs 1 0 f32One .running (headSlot 0 1 childNone)], [rowAs 1 0 f32One .running (headSlot 0 1 childOut)],
    [rowAs 1 0 f32One .running (headSlot 0 2 childOut)], [ledgerRow .running 1 childNone],
    [ledgerRow .running 1 childOut, ledgerRow .running 1 childOut], [ledgerRow .running 2 childOut, ledgerRow .running 1 childOut],
    [ledgerRow .running 1 childOut, ledgerRow .ledgerWait 1 childOut], [ledgerRow .running 2 childOut, ledgerRow .ledgerWait 2 childOut],
    [ledgerRow .running 3 childOut], [rowAs 2 0 f32Zero .running (headSlot 3 1 childOut)], [rowAs 3 0 f32One .running (headSlot 0 1 childNone)],
    [rowAs 3 0 f32One .running (headSlot 0 1 childOut)], [rowAs 4 0 f32One .running (headSlot 0 1 childReport)], [gradRow .running, gradRow .running],
    [gradRow .running, gradRow .gradWait]]

theorem witness_UncutRaceDecides_modes :
    ∀ rows ∈ headRows, childLinks (headed rows) = [] ∧ ((headed rows).pipe.flight.map (·.seq)).Nodup ∧
      mergeSheet (headed rows) 3 = some (sheet 3 5 rows) ∧ rows.head?.all (fun r => r.phase == .running && r.dom.isNone) = true := by
  decide +kernel

/-- What a RACE row's walk over its first slice leaves. -/
def walked (kw : Nat) : SelWalk × PassEnd :=
  let f := sheetSfu (headed []) (sheet 3 5 [])
  let r := rowAs 1 0 f32One .running (headSlot 0 kw childOut)
  let w := selectPass f r.snap (thresholdsOf f r.snap.cuts f32One f32One) f32One r.walk childOut.wind
  (w, passEnd r.snap.cuts w 1 kw)

theorem witness_UncutRaceDecides_walks :
    (rowAs 1 0 f32One .running (headSlot 0 1 childOut)).snap.cuts.anyOn = true ∧ childNone.stats.valid = 0 ∧ 0 < childOut.stats.valid ∧
    (walked 1).2 = .more ∧ (walked 2).2 = .done ∧ ((walked 2).1.best.map Entry.tok) = some 5 := by decide +kernel

theorem witness_UncutRaceDecides_waits :
    ledgerPast 1 (ledgerRow .running 1 childOut) = false ∧ ledgerPast 2 (ledgerRow .running 1 childOut) = false ∧
    ledgerPast 1 (ledgerRow .ledgerWait 1 childOut) = true ∧ ledgerPast 2 (ledgerRow .ledgerWait 2 childOut) = true ∧
    (gradRow .gradWait).grad = true ∧ isGrad (gradRow .running).bytes = true ∧ reportOf childReport.reports 5 ≠ f32Masked ∧
    rowTarget (gradRow .running).bytes = 5 := by decide +kernel

theorem witness_UncutRaceDecides_verify :
    let f := sheetSfu (headed []) (sheet 3 5 [])
    (verifyRow f (verifyCtx (rowAs 3 0 f32One .running (headSlot 0 1 childNone)))).emitted = [] ∧
    ((verifyRow f (verifyCtx (rowAs 3 0 f32One .running (headSlot 0 1 childOut)))).emitted.map Emitted.tok) = [5] := by decide +kernel
/-- A sheet of one decided row of context 511 in stage 6, whose record says row 0, and that appends token 2. -/
def committing : State :=
  let q := recStart 0 (rowAs 1 0 f32One .done (slotStart []))
  let s := flying [sheet 3 6 [{ rowAs 1 0 f32One .done (slotStart []) with steps := 1, tokens := [2], result := some q }]]
  { s with pipe := { s.pipe with ctxs := [(511, { ctxFree with phase := .opened, countMode := 1, histLen := 4095, histHead := 1, epoch := 8 })] } }

theorem witness_SheetCommits_decided :
    committing.pipe.closings = [] ∧ committing.adapters.moves = [] ∧ (ctxAt committing 511).histLen < 4096 ∧
    (ctxAt committing 511).counts.length ≠ 8192 ∧
    ∃ x r q, (committing.pipe.flight.find? fun y => y.parentLink.isNone) = some x ∧ x.stage = 6 ∧ childrenDone committing x = true ∧
      readsBefore committing x = false ∧ egressFits (resultLen x committing) committing = true ∧ x.rows = [r] ∧ r.fail.any = false ∧
      r.result = some q ∧ q.row = 0 ∧ rowCtx r.bytes = 511 ∧ r.tokens = [2] :=
  ⟨rfl, rfl, by decide +kernel, by decide +kernel, _, _, _, rfl, rfl, by decide +kernel, by decide +kernel, by decide +kernel, rfl, by decide +kernel,
    rfl, rfl, by decide +kernel, rfl⟩

/-! ### Images -/

/-- STRUCTURE of a small image: H 128 in the format of code 0, two levels of 8, one token. -/
def imgHead : List Byte :=
  [0, 0, 2, 0, 1, 0, 15, 2, 8, 8] ++ List.replicate 10 0 ++ leBytes 4 1 ++ leBytes 4 0x00800000 ++ leBytes 4 0 ++ leBytes 2 0 ++ [7, 0]

/-- A directory entry of a section. -/
def dirEntry (ty off crc len : Nat) : List Byte := leBytes 2 ty ++ leBytes 2 1 ++ leBytes 4 crc ++ leBytes 8 off ++ leBytes 8 len

/-- The header of an image of a length with a number of sections, version 7. -/
def imgHeader (len secs crc : Nat) : List Byte :=
  leBytes 4 0x47454843 ++ leBytes 2 1 ++ leBytes 1 0 ++ leBytes 1 0 ++ leBytes 4 7 ++ leBytes 4 0 ++ leBytes 8 len ++ leBytes 2 secs ++
    leBytes 2 0 ++ leBytes 4 crc ++ List.replicate 32 0

/-- A good image: token 0 at position 0, nothing elsewhere. -/
def imgGood : List Byte :=
  imgHeader 960 4 0xd2668e01 ++ dirEntry 1 192 0x33a8ead4 256 ++ dirEntry 2 448 0x055646b7 260 ++ dirEntry 3 768 0xd80d46e8 68 ++
    dirEntry 0xFFFF 896 0x03c8eb67 64 ++ List.replicate 32 0 ++ (imgHead ++ List.replicate 220 0) ++
    (leBytes 4 1 ++ List.replicate 256 0) ++ List.replicate 252 0

/-- A number that lies within zero bytes is 0. -/
theorem arrLe_zeros (a : Array Byte) (off n : Nat) (h : arrZero a off n = true) : ∀ o k, off ≤ o → o + k ≤ off + n → arrLe a o k = 0 := by
  intro o k h1 h2
  have : arrBytes a o k = List.replicate k 0 := by
    unfold arrBytes
    rw [List.eq_replicate_iff]
    refine ⟨by simp, fun b hb => ?_⟩
    obtain ⟨i, hi, rfl⟩ := List.mem_map.1 hb
    have hz := List.all_eq_true.1 h (o - off + i) (List.mem_range.2 (by have := List.mem_range.1 hi; omega))
    rw [show off + (o - off + i) = o + i by omega] at hz
    exact eq_of_beq hz
  rw [arrLe, this]
  clear this h2
  induction k with
  | zero => rfl
  | succ k ih =>
    have ih' : leNat (List.replicate k 0#8) = 0 := ih
    simp [leNat, List.replicate_succ, ih']

theorem arrZero_bytes {a : Array Byte} {off n : Nat} (h : arrBytes a off n = List.replicate n 0) : arrZero a off n = true := by
  refine List.all_eq_true.2 fun i hi => beq_iff_eq.2 ?_
  have := List.mem_map_of_mem (f := fun i => a.getD (off + i) 0) hi
  rw [show (List.range n).map (fun i => a.getD (off + i) 0) = List.replicate n 0 from h] at this
  exact List.eq_of_mem_replicate this

/-- Leaves whose row counts are zero are walked over as leaves without rows. -/
theorem walk_zeros (a : Array Byte) (n : Nat) : ∀ off, arrZero a off (4 * n) = true →
    walkPartition a (off + 4 * n) n off = some (List.replicate n []) ∧ badCount a (off + 4 * n) n off = false := by
  induction n with
  | zero => intro off _; simp [walkPartition, badCount]
  | succ n ih =>
    intro off h
    have h0 : arrLe a off 4 = 0 := arrLe_zeros a off _ h off 4 (Nat.le_refl _) (by omega)
    have ht : arrZero a (off + 4) (4 * n) = true := by
      refine List.all_eq_true.2 fun i hi => ?_
      have hz := List.all_eq_true.1 h (4 + i) (List.mem_range.2 (by have := List.mem_range.1 hi; omega))
      rwa [show off + (4 + i) = off + 4 + i by omega] at hz
    obtain ⟨h1, h2⟩ := ih (off + 4) ht
    rw [show off + 4 * (n + 1) = off + 4 + 4 * n by omega]
    refine ⟨?_, ?_⟩
    · simp [walkPartition, h0, h1, List.replicate_succ]
    · simp [badCount, h0, h2]

theorem crc32Reg_append (c : Nat) (as bs : List Byte) : crc32Reg c (as ++ bs) = crc32Reg (crc32Reg c as) bs := by
  induction as generalizing c with
  | nil => rfl
  | cons a as ih => exact ih _

/-- Bytes of a list, read as an array. -/
theorem arrBytes_list (xs : List Byte) (off n : Nat) (h : off + n ≤ xs.length) : arrBytes xs.toArray off n = (xs.drop off).take n := by
  apply List.ext_getElem
  · simp [arrBytes]; omega
  · intro i h1 h2
    have hi : i < n := by simpa [arrBytes] using h1
    simp [arrBytes, List.getElem?_eq_getElem (show off + i < xs.length by omega)]

theorem imgGood_length : imgGood.length = 960 := by decide +kernel

theorem imgGood_bytes (off n : Nat) (h : off + n ≤ 960) : arrBytes imgGood.toArray off n = (imgGood.drop off).take n :=
  arrBytes_list _ _ _ (by rw [imgGood_length]; exact h)

theorem imgGood_structure : arrBytes imgGood.toArray 192 256 = imgHead ++ List.replicate 220 0 := by
  rw [imgGood_bytes _ _ (by decide)]; decide +kernel

theorem imgGood_partition : arrBytes imgGood.toArray 448 260 = leBytes 4 1 ++ List.replicate 256 0 := by
  rw [imgGood_bytes _ _ (by decide)]; decide +kernel

theorem imgGood_rest : arrBytes imgGood.toArray 768 68 = List.replicate 68 0 ∧ arrBytes imgGood.toArray 896 64 = List.replicate 64 0 := by
  rw [imgGood_bytes _ _ (by decide), imgGood_bytes _ _ (by decide)]; decide +kernel

theorem imgGood_sections : imgDir imgGood.toArray = [⟨1, 1, 0x33a8ead4#32, 192, 256⟩, ⟨2, 1, 0x055646b7#32, 448, 260⟩,
    ⟨3, 1, 0xd80d46e8#32, 768, 68⟩, ⟨0xFFFF, 1, 0x03c8eb67#32, 896, 64⟩] := by decide +kernel

theorem imgGood_crcs : (imgDir imgGood.toArray).all (secCrcOk imgGood.toArray) = true := by
  have hs : crc32c (imgHead ++ List.replicate 220 0) = 0x33a8ead4#32 := by
    rw [show List.replicate 220 (0 : Byte) = List.replicate 110 0 ++ List.replicate 110 0 from rfl, crc32c, crc32Reg_append, crc32Reg_append,
      show crc32Reg 0xFFFFFFFF imgHead = 3767800416 by decide +kernel,
      show crc32Reg 3767800416 (List.replicate 110 0) = 1287722144 by decide +kernel,
      show crc32Reg 1287722144 (List.replicate 110 0) = 3428259115 by decide +kernel]
    decide +kernel
  have hp : crc32c (leBytes 4 1 ++ List.replicate 256 0) = 0x055646b7#32 := by
    rw [show List.replicate 256 (0 : Byte) = List.replicate 128 0 ++ List.replicate 128 0 from rfl, crc32c, crc32Reg_append, crc32Reg_append,
      show crc32Reg 0xFFFFFFFF (leBytes 4 1) = 1792876160 by decide +kernel,
      show crc32Reg 1792876160 (List.replicate 128 0) = 1630234136 by decide +kernel,
      show crc32Reg 1630234136 (List.replicate 128 0) = 4205427016 by decide +kernel]
    decide +kernel
  rw [imgGood_sections]
  simp only [List.all_cons, List.all_nil, secCrcOk, imgGood_structure, imgGood_partition, hs, hp, beq_self_eq_true, Bool.true_and, Bool.and_true, imgGood_rest.1, imgGood_rest.2]
  decide +kernel

theorem imgGood_place (t : Nat) :
    secOf imgGood.toArray t = ([⟨1, 1, 0x33a8ead4#32, 192, 256⟩, ⟨2, 1, 0x055646b7#32, 448, 260⟩,
      ⟨3, 1, 0xd80d46e8#32, 768, 68⟩, ⟨0xFFFF, 1, 0x03c8eb67#32, 896, 64⟩] : List DirEnt).zipIdx.findSome?
        fun q => if q.1.type = t then some (q.2, q.1) else none := by
  rw [secOf, imgGood_sections]

theorem imgGood_rows : imgPartition .d64 imgGood.toArray = some ([0] :: List.replicate 63 []) ∧
    badCount imgGood.toArray 708 64 448 = false := by
  have hz : arrZero imgGood.toArray 456 252 = true := arrZero_bytes (by rw [imgGood_bytes _ _ (by decide)]; decide +kernel)
  have h1 : arrLe imgGood.toArray 448 4 = 1 := by decide +kernel
  have h0 : arrLe imgGood.toArray 452 4 = 0 := by decide +kernel
  obtain ⟨hw, hb⟩ := walk_zeros imgGood.toArray 63 456 hz
  rw [imgPartition, secOff, secLen, imgGood_place]
  refine ⟨?_, ?_⟩
  · show walkPartition imgGood.toArray 708 (63 + 1) 448 = _
    rw [walkPartition, h1]
    simpa [h0] using hw
  · rw [badCount, h1]
    simpa using hb

theorem imgGood_le (o k : Nat) (h : o + k ≤ 960) : arrLe imgGood.toArray o k = leNat ((imgGood.drop o).take k) := by
  rw [arrLe, imgGood_bytes _ _ h]

theorem imgGood_zero (o k : Nat) (h : o + k ≤ 960) (hz : (imgGood.drop o).take k = List.replicate k 0) : arrZero imgGood.toArray o k = true :=
  arrZero_bytes ((imgGood_bytes _ _ h).trans hz)

theorem imgGood_off : secOff imgGood.toArray 1 = 192 ∧ secOff imgGood.toArray 2 = 448 ∧ secLen imgGood.toArray 2 = 260 ∧
    secOff imgGood.toArray 3 = 768 ∧ secLen imgGood.toArray 3 = 68 := by
  simp only [secOff, secLen, imgGood_place]; decide

theorem imgGood_has (t : Nat) : hasSec imgGood.toArray t = [1, 2, 3, 0xFFFF].contains t := by
  rw [hasSec, imgGood_place]
  by_cases h1 : t = 1 <;> by_cases h2 : t = 2 <;> by_cases h3 : t = 3 <;> by_cases h4 : t = 0xFFFF <;> simp_all [List.findSome?, eq_comm]

/-- The fields of STRUCTURE that the checks read. -/
theorem imgGood_fields : ([0, 1, 2, 3, 6, 7, 8, 9, 18, 19, 34, 35].map fun o => secLe imgGood.toArray 1 o 1) = [0, 0, 2, 0, 15, 2, 8, 8, 0, 0, 7, 0] ∧
    ([4, 32].map fun o => secLe imgGood.toArray 1 o 2) = [1, 0] ∧
    ([20, 24, 28].map fun o => secLe imgGood.toArray 1 o 4) = [1, 0x00800000, 0] := by
  simp only [secLe, imgGood_off, List.map]
  simp (disch := decide) only [imgGood_le, Nat.reduceAdd]
  decide +kernel

theorem imgGood_struct : structOk .d64 imgGood.toArray = true ∧ imgFanout imgGood.toArray = [8, 8] := by
  obtain ⟨h1, h2, h4⟩ := imgGood_fields
  simp only [List.map_cons, List.map_nil, List.cons.injEq, and_true] at h1 h2 h4
  have hf : imgFanout imgGood.toArray = [8, 8] := by
    rw [imgFanout, h1.2.2.2.2.2.1]
    simp [List.range_succ, h1]
  refine ⟨?_, hf⟩
  simp only [structOk, hf, h1, h2, h4, imgGood_off]
  rw [imgGood_zero _ 220 (by decide) (by decide +kernel), imgGood_zero _ (10 - 2) (by decide) (by decide +kernel)]
  decide +kernel

/-- The settings of the image. -/
def imgSet : ImageCfg := imgCfg imgGood.toArray ([0] :: List.replicate 63 [])

theorem imgSet_fields : imgSet.wfmt = .mxfp4 ∧ imgSet.hchunks = 1 ∧ imgSet.arr = 0 ∧ imgSet.vhUnits = 0 ∧
    imgSet.rows = [(0, false)] :: List.replicate 63 [] := by
  obtain ⟨h1, h2, h4⟩ := imgGood_fields
  simp only [List.map_cons, List.map_nil, List.cons.injEq, and_true] at h1 h2 h4
  simp only [imgSet, imgCfg, h1, h2]
  decide +kernel

theorem imgGood_dirEnd : imgTotal imgGood.toArray = 960 ∧ imgSections imgGood.toArray = 4 ∧ dirEnd imgGood.toArray = 192 := by
  have h : imgSections imgGood.toArray = 4 := by rw [imgSections, imgGood_le _ _ (by decide)]; decide +kernel
  refine ⟨by rw [imgTotal, imgGood_le _ _ (by decide)]; decide +kernel, h, ?_⟩
  rw [dirEnd, h]; rfl

theorem imgGood_dir : dirFault imgGood.toArray = none := by
  have hs := imgGood_has
  obtain ⟨ht, -, he⟩ := imgGood_dirEnd
  simp only [dirFault, imgGood_sections, ht, he, hs]
  rw [imgGood_zero _ _ (by decide +kernel) (by decide +kernel)]
  simp [dirEntryOk, ht, he, fixedLenOk, secTypes, List.zipIdx, List.find?]

theorem imgGood_crc : crcFault imgGood.toArray = none := by
  rw [crcFault, Option.map_eq_none_iff, List.find?_eq_none]
  intro q hq
  simp only [Bool.not_eq_true', Bool.not_eq_false]
  exact List.all_eq_true.1 imgGood_crcs q.1 (List.fst_mem_of_mem_zipIdx hq)

theorem imgGood_presence : presenceFault .d64 imgGood.toArray = none ∧ targetFault .d64 imgGood.toArray = none ∧
    structFault .d64 imgGood.toArray = none ∧ reachFault imgGood.toArray = none := by
  obtain ⟨h1, h2, h4⟩ := imgGood_fields
  simp only [List.map_cons, List.map_nil, List.cons.injEq, and_true] at h1 h2 h4
  have hs := imgGood_has
  refine ⟨?_, ?_, by simp [structFault, imgGood_struct, hs], by simp [reachFault, hs, h1]⟩
  · simp only [presenceFault, hs, h1, h2]
    split
    · split <;> rfl
    · rfl
  · rw [targetFault, imgGood_le _ _ (by decide), imgGood_le _ _ (by decide)]; decide +kernel

theorem imgGood_capacity : capacityFault .d64 imgGood.toArray = none := by
  obtain ⟨ow, oh, oa, ou, or⟩ := imgSet_fields
  have hb : imgSet.b = 68 := by rw [ImageCfg.b, ImageCfg.h, ow, oh]; rfl
  have ha : arrangementOk imgSet = true := by
    rw [arrangementOk, oa, or, ImageCfg.cap, ImageCfg.bankBytes, ImageCfg.single, oa, hb]; decide +kernel
  have hl : weightsLen imgSet = 68 := by simp only [weightsLen, hb, or]; decide +kernel
  simp only [capacityFault, imgGood_off, imgGood_rows, imgGood_has]
  rw [show badCount imgGood.toArray (448 + 260) Part.d64.leaves 448 = false from imgGood_rows.2, Option.getD_some,
    show imgCfg imgGood.toArray ([0] :: List.replicate 63 []) = imgSet from rfl, ha, hl]
  simp

theorem partition_ok (p : Part) (a : Array Byte) (ws : List (List Nat)) (v : Nat) (toks : List Nat) (hw : imgPartition p a = some ws)
    (hv : secLe a 1 20 4 = v) (ht : (ws.flatMap fun l => l.map fun w => w % 2 ^ 22) = toks)
    (ha : (ws.any fun l => l.any fun w => bitsOf w 30 22 != 0 || decide (v ≤ w % 2 ^ 22)) = false)
    (hn : noRepeat (toks.mergeSort fun x y => decide (x ≤ y)) = true) (hl : toks.length = v) : partitionFault p a = none := by
  unfold partitionFault
  rw [hw]
  dsimp only
  rw [hv, ht, ha, hn, hl]
  exact if_neg fun h => h.elim Bool.false_ne_true fun q => q.elim Bool.false_ne_true fun e => e.2 rfl

theorem imgGood_partitionOk : partitionFault .d64 imgGood.toArray = none := by
  obtain ⟨h1, h2, h4⟩ := imgGood_fields
  simp only [List.map_cons, List.map_nil, List.cons.injEq, and_true] at h4
  exact partition_ok _ _ _ 1 [0] imgGood_rows.1 h4.1 (by decide +kernel) (by decide +kernel) (by rw [List.mergeSort_singleton]; rfl) rfl

theorem imgGood_functions : fnFault imgGood.toArray = none := by
  obtain ⟨h1, h2, h4⟩ := imgGood_fields
  simp only [List.map_cons, List.map_nil, List.cons.injEq, and_true] at h1
  simp [fnFault, imgGen, h1, imgGood_has]

/-- A row of zeros in MXFP4 holds nothing that R58 refuses. -/
theorem zeroRow_good (rd : Nat → Byte) (h : ∀ k < 68, rd k = 0) : badWeightRow .mxfp4 128 rd = false := by
  simp only [badWeightRow, elemCode, scaleByte, Bool.or_eq_false_iff, List.any_eq_false, List.mem_range]
  refine ⟨⟨fun i hi => ?_, fun b hb => ?_⟩, trivial⟩
  · rw [h (i / 2) (by omega)]
    simp [badElem]
  · rw [h (elemBytes .mxfp4 128 + b) (by have : scaleBytes .mxfp4 128 = 4 := rfl; have : elemBytes .mxfp4 128 = 64 := rfl; omega)]
    simp

theorem imgGood_data : dataFault .d64 imgGood.toArray = none := by
  obtain ⟨ow, oh, oa, ou, or⟩ := imgSet_fields
  have hb : imgSet.b = 68 := by rw [ImageCfg.b, ImageCfg.h, ow, oh]; rfl
  have hr : (List.range (secLen imgGood.toArray 3 / max 1 imgSet.b)).any (weightRowBad imgGood.toArray imgSet) = false := by
    rw [imgGood_off.2.2.2.2, hb, List.any_eq_false]
    intro i hi
    obtain rfl : i = 0 := Nat.lt_one_iff.1 (List.mem_range.1 hi)
    rw [weightRowBad, ow, imgGood_off.2.2.2.1, ImageCfg.h, oh, zeroRow_good _ fun k hk => ?_]
    · exact Bool.false_ne_true
    · have := imgGood_rest.1
      have h0 := List.mem_map_of_mem (f := fun i => imgGood.toArray.getD (768 + i) 0) (List.mem_range.2 hk)
      rw [show (List.range 68).map (fun i => imgGood.toArray.getD (768 + i) 0) = List.replicate 68 0 from this] at h0
      simpa using List.eq_of_mem_replicate h0
  have h4 : hasSec imgGood.toArray 4 = false := by rw [imgGood_has]; rfl
  have h5 : hasSec imgGood.toArray 5 = false := by rw [imgGood_has]; rfl
  unfold dataFault
  rw [imgGood_rows.1, Option.getD_some, show imgCfg imgGood.toArray ([0] :: List.replicate 63 []) = imgSet from rfl]
  dsimp only
  rw [hr, h4, h5]
  rfl

theorem imgGood_passes : imageFault .d64 imgGood.toArray = none := by
  rw [imageFault, imgGood_dir, imgGood_presence.1, imgGood_crc, imgGood_presence.2.1, imgGood_presence.2.2.1, imgGood_capacity,
    imgGood_partitionOk, imgGood_data, imgGood_functions, imgGood_presence.2.2.2]
  rfl

theorem imgGood_header : imgHeaderOk imgGood.toArray = true := by decide +kernel

theorem witness_ImageGo :
    (up.power.logicOn = true ∧ ends32.getLsbD 31 = true ∧ up.image.phase = 0 ∧ (applying 5).image.phase ≠ 0) ∧
    (flipAt .firing 5 100).weights.flip = .firing ∧ (flipAt .held 5 100).weights.flip ≠ .firing := by decide +kernel

/-- An image read and checked, its verdict awaited since time 0, at 10 ms; pan 16 and merge cell 3 fenced. -/
def verdict (k : Nat) : State :=
  { up with
    tide := { up.tide with osc := 10000000 }
    image := { up.image with cfg := none, phase := k, checked := some cfg }
    fabric := { up.fabric with pans := [(16, { panReset with fenced := true })], cells := [(3, { cellReset with phase := .lasting })] } }

/-- A halted engine in phase 1. -/
def haltedLoad : State := { applying 1 with fabric := { up.fabric with halted := true } }

/-- The engine while it reads an image, the version floor as given. -/
def imgReading (floor : Word) : State :=
  { applying 3 with
    power := { up.power with imgFloor := floor }
    ports := { up.ports with reads := [readFrom .image 960] } }

/-- An image whose directory of 128 bytes is zero. -/
def imgNoDir : List Byte := imgHeader 960 4 0xd2668e01 ++ List.replicate 128 0

/-- An image that ends at its header. -/
def imgShort : List Byte := imgHeader 64 2 0x63133259

theorem witness_ImageResetAndVerdict :
    ((applying 1).power.logicOn = true ∧ (applying 1).image.phase = 1 ∧ quiet (applying 1) = true ∧ (applying 1).fabric.halted = false) ∧
    (haltedLoad.image.phase = 1 ∧ quiet haltedLoad = true ∧ haltedLoad.fabric.halted = true) ∧
    ((verdict 4).image.phase = 4 ∧ (verdict 4).image.checked = some cfg ∧ (3 : Nat) < (verdict 4).part.beds ∧ (bedAt (verdict 4) 3).phase = .intact ∧
      (verdict 4).image.lastByte + 10000000 ≤ (verdict 4).tide.osc) := by decide +kernel

theorem witness_ImageResetAndVerdict_read :
    let s := imgReading 0#32
    (s.power.logicOn = true ∧ s.image.phase = 3 ∧ s.power.st = .on ∧ readOf .image s = some (readFrom .image 960) ∧
      readOpen (readFrom .image 960) s = true ∧ s.image.data = []) ∧
    (([] : List Byte).length < 64 ∧ 64 ≤ (List.replicate 64 (0 : Byte)).length ∧ imgHeaderOk (List.replicate 64 0).toArray = false) ∧
    (64 ≤ imgNoDir.length ∧ imgHeaderOk imgNoDir.toArray = true ∧ imgNoDir.length < imgTotal imgNoDir.toArray ∧
      earlyFault .d64 imgNoDir.toArray imgNoDir.length = some (2, 0)) ∧
    (let d := imgHeader 960 4 0xd2668e01;
      64 ≤ d.length ∧ imgHeaderOk d.toArray = true ∧ d.length < imgTotal d.toArray ∧ earlyFault .d64 d.toArray d.length = none) ∧
    (imgHeaderOk imgShort.toArray = true ∧ imgTotal imgShort.toArray ≤ imgShort.length ∧
      imageFault .d64 (imgShort.take (imgTotal imgShort.toArray)).toArray = some (2, 31)) := by decide +kernel

theorem witness_ImageResetAndVerdict_good :
    let s := imgReading 0#32; let old := imgReading 8#32
    let d := s.image.data ++ imgGood
    let w := (d.take (imgTotal d.toArray)).toArray
    (64 ≤ d.length ∧ imgHeaderOk d.toArray = true ∧ imgTotal d.toArray ≤ d.length ∧ imageFault s.part w = none) ∧
    ¬imgVersion w < s.power.imgFloor ∧ imgVersion w < old.power.imgFloor := by
  have ht : imgTotal imgGood.toArray = 960 := imgGood_dirEnd.1
  have hw : imgGood.take 960 = imgGood := List.take_of_length_le (Nat.le_of_eq imgGood_length)
  have hv : imgVersion imgGood.toArray = 7 := by rw [imgVersion, imgGood_le _ _ (by decide)]; decide +kernel
  simp only [show (imgReading 0#32).image.data = [] from rfl, List.nil_append, ht, hw, hv, imgGood_length]
  exact ⟨⟨by decide, imgGood_header, Nat.le_refl _, imgGood_passes⟩, by decide +kernel, by decide +kernel⟩

/-- A header that names sections, TOTAL_LEN's high word as given, their directory, and bytes from the directory's last entry on. -/
def imgOf (hi : Nat) (es : List (List Byte)) (rest : List Byte) : Array Byte :=
  (imgHeader (960 + hi * 2 ^ 32) es.length 0 ++ es.flatten ++ rest).toArray

/-- STRUCTURE with NORM `n`. -/
def structNorm (n : Byte) : List Byte := imgHead.set 2 n ++ List.replicate 220 0

theorem witness_ImageResetAndVerdict_kinds :
    (hasSec imgShort.toArray 7 = false) ∧
    (let a := imgNoDir.toArray; dirEnd a ≤ imgTotal a ∧ arrZero a (64 + 24 * imgSections a) (dirEnd a - (64 + 24 * imgSections a)) = true ∧
      (imgDir a)[0]?.map (dirEntryOk a (imgDir a) 0) = some false) ∧
    (let a := imgOf 0 [dirEntry 1 0 1 0] []; (imgDir a)[0]?.map (fun e => decide (crc32c (arrBytes a e.off e.len) = e.crc)) = some false) ∧
    (let a := imgOf 0 [dirEntry 1 0 0 0] []; ∀ e ∈ imgDir a, crc32c (arrBytes a e.off e.len) = e.crc) ∧
    (arrLe (imgOf 0 [] []) 6 1 ≠ Part.d1024.variant ∧ arrLe (imgOf 0 [] []) 6 1 = Part.d64.variant ∧ arrLe (imgOf 0 [] []) 7 1 ≤ 1) ∧
    (secLe #[] 1 4 2 = 0 ∧ hasSec #[] 6 = false ∧ hasSec #[] 8 = false ∧ 8 < secLe (List.replicate 34 0 ++ [9#8]).toArray 1 34 1 ∧
      hasSec (List.replicate 34 0 ++ [9#8]).toArray 6 = false) ∧
    (let a := imgOf 0 [dirEntry 2 88 0 4] (leBytes 4 4097); badCount a (secOff a 2 + secLen a 2) 64 (secOff a 2) = true) ∧
    (let a := imgOf 0 [dirEntry 2 88 0 4] (leBytes 4 0); imgPartition .d64 a = none) ∧
    (let a := imgOf 0 [dirEntry 8 88 0 64] (3 :: List.replicate 63 0); hasSec a 8 = true ∧ 2 < secLe a 8 0 1) := by decide +kernel

/-- A PARTITION of 64 positions without rows. -/
theorem partition_zeros (bs : List Byte) (off : Nat) (h1 : secOff bs.toArray 2 = off) (h2 : secLen bs.toArray 2 = 256)
    (hz : arrBytes bs.toArray off 256 = List.replicate 256 0) :
    imgPartition .d64 bs.toArray = some (List.replicate 64 []) ∧ badCount bs.toArray (secOff bs.toArray 2 + secLen bs.toArray 2) 64 (secOff bs.toArray 2) = false := by
  have hz' : arrZero bs.toArray off (4 * 64) = true := by
    rw [show 4 * 64 = 256 from rfl]
    exact arrZero_bytes hz
  have h := walk_zeros bs.toArray 64 off hz'
  rw [show 4 * 64 = 256 from rfl] at h
  simp only [imgPartition, h1, h2, show Part.leaves .d64 = 64 from rfl]
  exact h

/-- A PARTITION without rows under a vocabulary that is not 0, and one with WEIGHTS of 64 bytes. -/
def imgNoRows (two : Bool) : List Byte :=
  imgHeader (if two then 960 else 960 + 2 ^ 32) (if two then 2 else 1) 0 ++
    (if two then dirEntry 2 112 0 256 ++ dirEntry 3 368 0 64 else dirEntry 2 88 0 256) ++ List.replicate 256 0

theorem witness_ImageResetAndVerdict_partition :
    (let a := (imgNoRows false).toArray; imgPartition .d64 a = some (List.replicate 64 []) ∧ imgRole a = 0 ∧
      ((List.replicate 64 ([] : List Nat)).map List.length).sum ≠ secLe a 1 20 4) ∧
    (let a := (imgNoRows true).toArray;
      badCount a (secOff a 2 + secLen a 2) 64 (secOff a 2) = false ∧ imgPartition .d64 a = some (List.replicate 64 []) ∧
      arrangementOk (imgCfg a (List.replicate 64 [])) = true ∧ secLen a 3 ≠ weightsLen (imgCfg a (List.replicate 64 []))) := by
  have b1 : arrBytes (imgNoRows false).toArray 88 256 = List.replicate 256 0 :=
    (arrBytes_list (imgNoRows false) 88 256 (by decide +kernel)).trans (by decide +kernel)
  have b2 : arrBytes (imgNoRows true).toArray 112 256 = List.replicate 256 0 :=
    (arrBytes_list (imgNoRows true) 112 256 (by decide +kernel)).trans (by decide +kernel)
  have h1 := partition_zeros (imgNoRows false) 88 (by decide +kernel) (by decide +kernel) b1
  have h2 := partition_zeros (imgNoRows true) 112 (by decide +kernel) (by decide +kernel) b2
  exact ⟨⟨h1.1, by decide +kernel, by decide +kernel⟩, h2.2, h2.1, by decide +kernel, by decide +kernel⟩

/-- An image whose first section is this STRUCTURE, with a second section of a type behind it. -/
def imgTwo (st : List Byte) (crc ty : Nat) (bs : List Byte) : List Byte :=
  imgHeader 960 2 0 ++ [dirEntry 1 112 crc 256, dirEntry ty 368 0 64].flatten ++ (st ++ bs)

/-- Its reserved bytes of STRUCTURE are zero. -/
theorem imgTwo_zeros (a : Array Byte) (bs : List Byte) (h : a = bs.toArray) (off : Nat) (h1 : secOff bs.toArray 1 = off) (hl : off + 36 + 220 ≤ bs.length)
    (hz : (bs.drop (off + 36)).take 220 = List.replicate 220 0) : arrZero a (secOff a 1 + 36) 220 = true := by
  rw [h, h1]
  exact arrZero_bytes ((arrBytes_list _ _ _ hl).trans hz)

/-- The header, and the directory with STRUCTURE of a CRC, LIMITS, PARTITION, WEIGHTS and SIGNATURE. -/
def imgDirOf (crc : Nat) : List Byte :=
  imgHeader 1024 5 0 ++ [dirEntry 1 192 crc 256, dirEntry 7 448 0 64, dirEntry 2 512 0 260, dirEntry 3 832 0 68, dirEntry 0xFFFF 960 0 64].flatten ++
    List.replicate 8 0
/-- It, with a STRUCTURE that asks for a GAIN section and LIMITS of WDOG 49. -/
def imgLimits : List Byte := imgDirOf 0xed28f97b ++ (structNorm 1 ++ (leBytes 4 49 ++ List.replicate 60 0))
/-- REPRO that asks for Vell. -/
def imgVell : List Byte := imgTwo ((imgHead.take 7 ++ [4, 8, 8, 4, 4] ++ imgHead.drop 12) ++ List.replicate 220 0) 0 9 ([0, 1] ++ List.replicate 62 0)

theorem imgLimits_struct : structOk .d64 imgLimits.toArray = true := by
  have hz := imgTwo_zeros imgLimits.toArray imgLimits rfl 192 (by decide +kernel) (by decide +kernel) (by decide +kernel)
  simp only [structOk, Bool.and_eq_true]
  refine ⟨?_, hz⟩
  repeat' apply And.intro
  all_goals decide +kernel

theorem imgVell_struct : structOk .d1024 imgVell.toArray = true := by
  have hz := imgTwo_zeros imgVell.toArray imgVell rfl 112 (by decide +kernel) (by decide +kernel) (by decide +kernel)
  simp only [structOk, Bool.and_eq_true]
  refine ⟨?_, hz⟩
  repeat' apply And.intro
  all_goals decide +kernel

theorem witness_ImageResetAndVerdict_structure :
    (let a := imgLimits.toArray; structOk .d64 a = true ∧ vellOk .d64 a = true ∧ secLe a 1 2 1 ≤ 1 ∧ hasSec a 4 = false ∧ hasSec a 7 = true ∧
      secLe a 7 0 4 < 50) ∧
    (let a := imgVell.toArray; structOk .d1024 a = true ∧ hasSec a 7 = false ∧ hasSec a 9 = true ∧ secLe a 9 1 1 = 1 ∧ Part.d1024.vell = false) :=
  ⟨⟨imgLimits_struct, by decide +kernel⟩, imgVell_struct, by decide +kernel⟩

theorem witness_ImageResetAndVerdict_presence :
    secOf imgLimits.toArray 1 = some (0, ⟨1, 1, 0xed28f97b#32, 192, 256⟩) ∧ crc32c (arrBytes imgLimits.toArray 192 256) = 0xed28f97b#32 ∧
    presenceFault .d64 imgLimits.toArray = some (2, 31) := by
  have hb : arrBytes imgLimits.toArray 192 256 = structNorm 1 := (arrBytes_list imgLimits 192 256 (by decide +kernel)).trans (by decide +kernel)
  have hc : crc32c (arrBytes imgLimits.toArray 192 256) = 0xed28f97b#32 := by
    rw [hb, structNorm, show List.replicate 220 (0 : Byte) = List.replicate 110 0 ++ List.replicate 110 0 from rfl, crc32c, crc32Reg_append,
      crc32Reg_append, show crc32Reg 0xFFFFFFFF (imgHead.set 2 1) = 1669959187 by decide +kernel,
      show crc32Reg 1669959187 (List.replicate 110 0) = 3480261752 by decide +kernel,
      show crc32Reg 3480261752 (List.replicate 110 0) = 316081796 by decide +kernel]
    decide +kernel
  have hs : secOf imgLimits.toArray 1 = some (0, ⟨1, 1, 0xed28f97b#32, 192, 256⟩) := by decide +kernel
  obtain ⟨-, hv, hn, hg, -⟩ := witness_ImageResetAndVerdict_structure.1
  refine ⟨hs, hc, ?_⟩
  simp [presenceFault, hs, secCrcOk, hc, imgLimits_struct, hv, hn, hg]

theorem witness_ImageResetAndVerdict_early :
    (∀ bs ∈ [imgLimits, imgDirOf 0], let a := bs.toArray; dirEnd a = 192 ∧ dirFault a = none ∧
      ∀ e ∈ imgDir a, e.type = 1 ∨ e.type = 9 → e.off + e.len ≤ 448) ∧ (imgDir (imgDirOf 0).toArray)[0]? = some ⟨1, 1, 0, 192, 256⟩ ∧
    dirFault imgNoDir.toArray = some (2, 0) := by decide +kernel

theorem witness_ImageResetAndVerdict_early_crc :
    crc32c (arrBytes (imgDirOf 0).toArray 192 256) ≠ 0#32 ∧ presenceFault .d64 (imgDirOf 0).toArray = none := by
  have hc : crc32c (arrBytes (imgDirOf 0).toArray 192 256) = 0xb872b190#32 := by
    rw [show arrBytes (imgDirOf 0).toArray 192 256 = List.replicate 128 0 ++ List.replicate 128 0 by decide +kernel, crc32c, crc32Reg_append,
      show crc32Reg 0xFFFFFFFF (List.replicate 128 0) = 4158167844 by decide +kernel, show crc32Reg 4158167844 (List.replicate 128 0) = 1200442991 by decide +kernel]
    decide +kernel
  have hs : secOf (imgDirOf 0).toArray 1 = some (0, ⟨1, 1, 0#32, 192, 256⟩) := by decide +kernel
  exact ⟨by rw [hc]; decide, by simp [presenceFault, hs, secCrcOk, hc]⟩

theorem witness_ImageApplies :
    (verdict 5).power.logicOn = true ∧ (verdict 5).image.phase = 5 ∧ (verdict 5).image.checked = some cfg ∧ 16 < (verdict 5).part.pans ∧
    (panAt (verdict 5) 16).fenced = true ∧ ([(UnitId.pan 16, 3), (.cell 3, 0)].find? (fun q => q.1 == .pan 16) = some (.pan 16, 3)) ∧
    unitFenced (verdict 5) (.cell 3) = true ∧ (UnitId.cell 3, 0) ∈ [(UnitId.pan 16, 3), (.cell 3, 0)] := by decide +kernel

theorem witness_ImageApplies_load :
    let s := { verdict 5 with fn := { up.fn with phase := .reading } }
    s.image.phase = 5 ∧ s.image.checked = some cfg ∧ s.fn.phase ≠ .idle := by decide +kernel

/-! ### Faults, probes and service -/

/-- The engine, 40 µs of the oscillator after its start, with pans, beds, cells and probes as given. -/
def fabric (pans : List (Nat × PanSt)) (beds : List (Nat × Bed)) (cells : List (Nat × CellSt)) (probes : List Probe) : State :=
  { up with
    tide := { up.tide with count := 40000, osc := 40000 }
    fabric := { up.fabric with pans := pans, beds := beds, cells := cells, probes := probes, mgStale := false } }

/-- A fenced pan. -/
def fenced : PanSt := { panReset with fenced := true }
/-- A bed whose spare takes member 15. -/
def bedIn (ph : BedPhase) : Bed := { bedReset with phase := ph, subst := some 15 }
/-- A probe of block 9 since a time. -/
def probe (u : UnitId) (start cause : Nat) : Probe := ⟨u, start, 9, cause, none, false⟩

theorem witness_FaultFencesUnit :
    (up.power.logicOn = true ∧ up.image.phase = 0 ∧ up.fabric.halted = false ∧ 66 < up.part.pans) ∧
    ((panAt up 66).fenced = false ∧ probeOf up (.pan 66) = none ∧ 66 % 17 ≠ 16 ∧ (bedAt up (66 / 17)).phase = .intact) ∧
    (let s := fabric [(66, fenced)] [] [] []; (panAt s 66).fenced = true ∧ probeOf s (.pan 66) = none) ∧
    (let s := fabric [(66, fenced)] [] [] [probe (.pan 66) 1 1]; (panAt s 66).fenced = true ∧ probeOf s (.pan 66) = some (probe (.pan 66) 1 1)) ∧
    (let s := fabric [] [] [(66, ⟨.inUse 8, 0, []⟩)] []; (cellAt s 66).phase = .inUse 8 ∧ probeOf s (.cell 66) = none ∧ freeCells s ≠ [] ∧
      unitThere s .head = true ∧ s.image.cfg = some cfg ∧ 30000 + 10 * cfg.wdog ≤ s.tide.osc ∧ s.tide.osc < 30001 + 10 * cfg.wdog) ∧
    (unitThere up (.pan 66) = true ∧ unitThere up (.cell 3) = true ∧
      unitType (.pan 66) * 65536 + Machine.unitNum (.pan 66) < unitType (.cell 3) * 65536 + Machine.unitNum (.cell 3)) := by
  decide +kernel

theorem witness_TakeoverAndReturn :
    (let s := fabric [(66, fenced)] [(3, bedIn .rebuilding)] [] []; s.power.logicOn = true ∧ 3 < s.part.beds ∧ (bedAt s 3).subst = some 15 ∧
      (bedAt s 3).phase = .rebuilding ∧ (panAt s (17 * 3 + 15)).lasting = false) ∧
    (let s := fabric [(66, { fenced with lasting := true })] [(3, bedIn .rebuilding)] [] []; (bedAt s 3).subst = some 15 ∧
      (bedAt s 3).phase = .rebuilding ∧ (panAt s (17 * 3 + 15)).lasting = true) ∧
    (let s := fabric [(66, fenced)] [(3, { bedIn .substituted with switched := true, shadowLeft := true })] [] []; (bedAt s 3).shadowLeft = true ∧ (bedAt s 3).switched = true) ∧
    (let s := fabric [] [(3, { bedIn .substituted with switched := true, copying := true })] [] []; (bedAt s 3).copying = true) ∧
    (let s := fabric [] [(3, { bedIn .substituted with switched := true, copied := true })] [] []; (bedAt s 3).copied = true ∧ atBoundary s = true) ∧
    (let s := fabric [] [(3, { bedReset with phase := .restoring })] [] []; (bedAt s 3).phase = .restoring ∧ (bedAt s 3).subst = none) := by
  decide +kernel

theorem witness_RebuildRestoresBytes :
    (let s := fabric [(66, fenced)] [(3, bedIn .rebuilding)] [] []; spWf 0 s.brine.mem = true ∧ s.brine.live ≤ 1 ∧ s.pipe.flight = [] ∧
      isSingle s = false ∧ s.image.cfg = some cfg ∧ 1 < cfg.rmax ∧ brineByte s 67 0xFFFFF = 0) ∧
    (∃ u, exec (.rebuildDone 3) (fabric [(66, fenced)] [(3, bedIn .rebuilding)] [] []) = .next u) ∧
    (∃ u, exec (.returnCopyDone 3) (fabric [] [(3, { bedIn .substituted with switched := true, copying := true })] [] []) = .next u) ∧
    ∃ u, exec (.parityDone 3) (fabric [] [(3, { bedReset with phase := .restoring })] [] []) = .next u :=
  ⟨by decide +kernel, ⟨_, rfl⟩, ⟨_, rfl⟩, _, rfl⟩

/-- The engine with probes of pan 66, the spare 67 and merge cell 3 that began at 1 ns, LIMIT as given; bed 3 as given. -/
def probing (limit start : Nat) (bed : Bed) : State :=
  let s := fabric [(66, fenced), (67, fenced)] [(3, bed)] [(3, ⟨.fenced, 0, [0]⟩)]
    [probe (.pan 66) start 1, probe (.pan 67) start 1, probe (.cell 3) start 3]
  { s with soft := { s.soft with flapLimit := limit } }

theorem witness_ProbesJudge :
    (let s := probing 0 1 bedReset; let x := probe (.pan 66) 1 1; s.power.logicOn = true ∧ 66 < s.part.pans ∧ probeOf s (.pan 66) = some x ∧
      (crossedTo x ⟨none, 0, none⟩ = none ∧ x.cause ≠ 6 ∧ x.hit = false ∧ s.tide.osc < x.start + 40000 ∧ s.soft.flapLimit = 0 ∧ x.block ≤ 9) ∧
      ¬((bedAt s 3).subst = some (66 % 17)) ∧ ¬((bedAt s 3).phase = .substituted)) ∧
    (let s := probing 0 1 { bedIn .substituted with switched := true }; let bed := bedAt s 3; bed.phase = .substituted ∧ bed.subst = some (66 % 17) ∧
      bed.phase ≠ .rebuilding ∧ bed.shadowLeft = false) ∧
    (let s := probing 0 1 { bedReset with phase := .degraded, spareProbe := true }; let bed := bedAt s 3; probeOf s (.pan 67) = some (probe (.pan 67) 1 1) ∧
      67 % 17 = 16 ∧ bed.spareProbe = true ∧ bed.phase = .degraded ∧ s.fabric.unplaced = []) ∧
    (let s := probing 0 0 bedReset; probeOf s (.cell 3) = some (probe (.cell 3) 0 3) ∧ (probe (.cell 3) 0 3).start + 40000 ≤ s.tide.osc) ∧
    (let s := probing 3 1 bedReset; let x := probe (.cell 3) 1 3; probeOf s (.cell 3) = some x ∧ crossedTo x ⟨none, 0, none⟩ = none ∧ x.cause ≠ 6 ∧
      s.tide.osc < x.start + 40000 ∧ ((cellAt s 3).recent.filter fun t => decide ((40000 : Int) < t + 1000000 * (s.soft.flapWindow : Int))).length = 1) ∧
    ((probing 3 1 bedReset).soft.flapLimit = 3 ∧ (probing 2 1 bedReset).soft.flapLimit = 2) ∧
    (stRefusal up true 0 2047 = some 0 ∧ stRefusal up true (bitsOf (0xC0000042#32).toNat 14 11) 66 = none ∧ (0xC0000042#32).toNat % 2048 = 66 ∧
      (0xC0000042#32).getLsbD 31 = true ∧ (0xC0000042#32).getLsbD 30 = true) := by decide +kernel

/-- Merge cell 66 in use, 40 µs after the start, while the first sheet waits for a group of position 0, or pan 5 is fenced. -/
def watched (waits : Bool) : State :=
  let s := fabric [(5, fenced)] [] [(66, ⟨.inUse 8, 0, []⟩)] []
  if waits then { s with ports := { s.ports with reads := [readFrom (.overflow 0 0) 128] } } else s

theorem witness_FaultFencesUnit_waits :
    (let s := watched true; (cellAt s 66).phase = .inUse 8 ∧ probeOf s (.cell 66) = none ∧ freeCells s ≠ [] ∧ unitThere s .head = true ∧
      boundaryWait s ⟨1, 30000, some (.groups 0)⟩ = true ∧ boundaryWait s ⟨1, 30000, some (.groups 1)⟩ = false) ∧
    (let s := watched false; unitThere s (.pan 5) = true ∧ unitFenced s (.pan 5) = true ∧ unitFenced s .head = false ∧
      boundaryWait s ⟨1, 30000, some (.groups 0)⟩ = false ∧ boundaryWait s ⟨1, 30000, none⟩ = false ∧ 30000 + watchdogLimit s ≤ s.tide.osc ∧
      mayDetect s (.cell 66, .timeout ⟨1, 30000, none⟩ .head) = true ∧ detectThere s (.cell 66, .timeout ⟨1, 30000, none⟩ .head) = true ∧
      mayDetect s (.cell 67, .timeout ⟨1, 30001, none⟩ .head) = false ∧ detectThere s (.cell 67, .timeout ⟨1, 30001, none⟩ .head) = true ∧
      unitType (.cell 66) * 65536 + Machine.unitNum (.cell 66) < unitType (.cell 67) * 65536 + Machine.unitNum (.cell 67)) := by decide +kernel

/-- Pan 66 under LIMIT 3 with as many transients within the window as given, its probe begun by a fault or by software. -/
def flapping (recent : List Int) (cause : Nat) (bed : Bed) : State :=
  fabric [(66, { fenced with recent := recent })] [(3, bed)] [(3, ⟨.fenced, 0, []⟩)] [probe (.pan 66) 1 cause, probe (.cell 3) 1 cause]

theorem witness_ProbesJudge_flaps :
    (∀ recent ∈ [[], [0], [0, 0]], let s := flapping recent 1 { bedIn .substituted with switched := true }; let x := probe (.pan 66) 1 1
      s.soft.flapLimit = 3 ∧ probeOf s (.pan 66) = some x ∧ crossedTo x ⟨none, 0, none⟩ = none ∧ x.cause ≠ 6 ∧ x.hit = false ∧
      s.tide.osc < x.start + 40000 ∧ (bedAt s 3).phase = .substituted ∧ (bedAt s 3).subst = some (66 % 17) ∧ (bedAt s 3).shadowLeft = false ∧
      ((panAt s 66).recent.filter fun t => decide ((s.tide.count.toNat : Int) < t + 1000000 * (s.soft.flapWindow : Int))).length = recent.length) ∧
    (∀ bed ∈ [bedReset, { bedIn .substituted with switched := true }], let s := flapping [] 6 bed
      probeOf s (.pan 66) = some (probe (.pan 66) 1 6) ∧ probeOf s (.cell 3) = some (probe (.cell 3) 1 6) ∧ (probe (.pan 66) 1 6).cause = 6 ∧
      (bedAt s 3).phase ≠ .rebuilding ∧ (bedAt s 3).shadowLeft = false) := by decide +kernel

theorem witness_ProbesJudge_software :
    ((0x80000042#32).getLsbD 31 = true ∧ (0x80000042#32).getLsbD 30 = false ∧ (0x80000042#32).toNat % 2048 = 66 ∧ (0x80000043#32).toNat % 2048 = 67 ∧
      up.image.phase = 0 ∧ stRefusal up false (bitsOf (0x80000042#32).toNat 14 11) 66 = none ∧
      stRefusal up false (bitsOf (0x80000043#32).toNat 14 11) 67 = none) ∧
    ({ up with fabric := { up.fabric with stBusy := true } }.fabric.stBusy = true ∧ { up with fabric := { up.fabric with halted := true } }.fabric.halted = true ∧
      up.fabric.stBusy = false ∧ up.fabric.halted = false) ∧
    (up.part.pans = 68 ∧ (cellAt up 67).phase = .free ∧ (bedAt up 3).phase = .intact ∧ (panAt up 67).fenced = false ∧
      (cellAt (probing 3 1 bedReset) 3).phase = .fenced ∧ (bedAt (probing 3 1 (bedIn .rebuilding)) 3).phase ≠ .intact) ∧
    (let s := fabric [] [] ((List.range 68).map fun p => (p, ⟨.inUse p, 0, []⟩)) []; ∀ q < s.part.pans, (cellAt s q).phase ≠ .free) := by decide +kernel

theorem witness_ScrubAndMirror :
    (let s := { fabric [] [] [] [] with brine := { up.brine with scrubAt := [(67, 5119)] } }; s.power.logicOn = true ∧ 67 < s.part.pans ∧
      s.soft.scrubEn = true ∧ (panAt s 67).fenced = false ∧ spGet 0 s.brine.scrubTide 67 + 16 * s.soft.scrubInterval ≤ s.tide.count.toNat ∧
      spGet 0 s.brine.scrubAt 67 = 5119 ∧ (67, 16 * 5119 + 15) ∉ s.brine.corrected) ∧
    (let s := fabric [] [] [] []; spGet 0 s.brine.scrubAt 67 = 0 ∧ (67, 16 * 0 + 0) ∉ s.brine.corrected ∧ { s with fabric := { s.fabric with halted := true } }.fabric.halted = true) ∧
    (let s := { fabric [(5, fenced)] [(3, bedIn .rebuilding)] [] [] with tide := { up.tide with count := 65536 } }; s.power.aoUp = true ∧ s.fabric.mgStale = false ∧
      s.fabric.mirrorAt + 65536 ≤ s.tide.count.toNat ∧ s.fabric.mgSummary ≠ fltStatus s ∧ spGet 0 s.fabric.mgBeds 3 ≠ bedStatus s 3 ∧
      spGet 0 s.fabric.mgBeds 2 = bedStatus s 2 ∧ s.fabric.divergeCount ≤ 0xFFFF) := by decide +kernel

/-- Window reads of position 0, whose bed is as given, or which is unplaced. -/
def windowHeld (k : ReadKind) (bed : Bed) (lost : List Nat) : State :=
  let s := windowing [k]
  { s with fabric := { s.fabric with beds := [(0, bed)], unplaced := lost } }

theorem witness_ReadsEndOrFail_held :
    ∀ k ∈ [ReadKind.windowPatch 0 127, .windowReplay 0 127],
      (let s := windowHeld k bedReset []; readOf k s = some (readFrom k 128) ∧ isUnplaced s 0 = false ∧ bedHolds s 0 = false ∧ s.ports.p0.rst = false) ∧
      (let s := windowHeld k (bedIn .rebuilding) []; readOf k s = some (readFrom k 128) ∧ isUnplaced s 0 = false ∧ bedHolds s 0 = true) ∧
      (let s := windowHeld k bedReset [0]; readOf k s = some (readFrom k 128) ∧ isUnplaced s 0 = true ∧ s.image.cfg = some cfgOvf) := by
  decide +kernel

/-- A DEGRADED bed 3 none of whose members is fenced, or whose member 0 is, while the spare is probed by software and position 5 is unplaced. -/
def sparing (p : List (Nat × PanSt)) : State :=
  let s := fabric ((67, fenced) :: p) [(3, { bedReset with phase := .degraded, spareProbe := true })] [] [probe (.pan 67) 1 6]
  { s with fabric := { s.fabric with unplaced := [5] } }

theorem witness_ProbesJudge_spare :
    (let s := sparing []; 67 % 17 = 16 ∧ (bedAt s 3).spareProbe = true ∧ (bedAt s 3).phase = .degraded ∧ (∀ m < 16, (panAt s (17 * 3 + m)).fenced = false) ∧
      probeOf s (.pan 67) = some (probe (.pan 67) 1 6)) ∧
    (let s := sparing [(51, fenced)]; (panAt s (17 * 3 + 0)).fenced = true ∧ (bedAt s 3).spareProbe = true ∧
      probeOf s (.pan 67) = some (probe (.pan 67) 1 6)) := by decide +kernel

/-- The sources unchanged since the last push. -/
def mirrored : State :=
  let s := fabric [] [] [] []
  { s with fabric := { s.fabric with mgHeld := some (fltStatus s, bedWords s), mgSummary := 7 } }

theorem witness_ScrubAndMirror_held :
    ∀ q, q = (fltStatus mirrored, bedWords mirrored) → mirrored.fabric.mgStale = false ∧ mirrored.fabric.mgHeld = some q ∧ q.1 = fltStatus mirrored ∧
      (∀ b < mirrored.part.beds, spGet 0 q.2 b = bedStatus mirrored b) ∧ mirrored.fabric.mgSummary ≠ fltStatus mirrored ∧
      mirrored.soft.scrubEn = true ∧ (panAt mirrored 67).fenced = false ∧
      spGet 0 mirrored.brine.scrubTide 67 + 16 * mirrored.soft.scrubInterval ≤ mirrored.tide.count.toNat := by
  rintro q rfl
  decide +kernel

theorem witness_RegisterWrites :
    (0xFFFFC % 4 = 0 ∧ 0xFFFFC < 0x100000 ∧ 0x100000 ≤ 0x100000 ∧ 2 % 4 ≠ 0 ∧ (0xFFC : Nat) < 0x1000) ∧
    up.power.aoUp = true ∧ (State.resetOf .d64).power.logicOn = false ∧ up.power.logicOn = true := by decide +kernel

theorem past_entries (o : Nat) (ts : List (Nat × Nat × Nat)) (h : ∀ t ∈ ts, t.1 + t.2.1 * t.2.2 ≤ o ∧ 0 < t.2.1) : ¬entryIn o ts := by
  rintro ⟨t, ht, i, hi, rfl⟩
  have := h t ht
  have := Nat.mul_lt_mul_of_pos_left hi this.2
  omega

theorem witness_RegisterWrites_offsets :
    (¬entryIn 0xFFFFC (chipWrites ++ chipReads on.part) ∧ ¬entryIn 0xFFC (mgWrites ++ mgReads on.part)) ∧
    ¬entryIn 0xFFFFC chipWrites ∧ ¬entryIn 0xFFC mgWrites :=
  ⟨⟨past_entries _ _ (by decide +kernel), past_entries _ _ (by decide +kernel)⟩, past_entries _ _ (by decide +kernel), past_entries _ _ (by decide +kernel)⟩

theorem witness_RegisterWrites_fields :
    ((255 : Nat) < 256 ∧ (0 : Nat) < 255 ∧ (7 : Nat) < 8 ∧ on.events.inputs.length = 32 ∧ on.power.st = .on ∧ on.power.aoUp = true ∧
      on.reach.links.length = 8 ∧ on.reach.groups.length = 16) ∧
    (∃ t, exec (.extInputChange 31 (!(extInput on.events 31).raw)) on = .next t) ∧ ∃ v : Word, v = on.events.inv :=
  ⟨by decide +kernel, ⟨_, rfl⟩, _, rfl⟩

/-! ### Links -/

/-- Lanes 0 to 3 as four links of one lane and link 4 of four; every link as given, at an oscillator time. -/
def linked (ph : LinkPhase) (osc : Nat) : State :=
  let k := { linkReset 1 with phase := ph, peer := 7, hailAt := 0 }
  { up with
    tide := { up.tide with osc := osc }
    reach := { up.reach with
      addr := some 5, device := 1, phy := List.replicate 8 (ph != .down)
      links := [k, k, k, k, { k with width := 4 }, linkReset 0, linkReset 0, linkReset 0] } }

/-- A good flit of a type, channel and SEQ that acknowledges nothing. -/
def flit (ty vc seq : Nat) (content : List Byte) : FlitHdr :=
  let p := padTo 244 content
  ⟨ty, vc, seq, 0, false, false, 0, 0, p, crc32c (flitHead ty vc seq 0 false false 0 0 ++ p), [], false⟩

theorem padTo_length (n : Nat) (bs : List Byte) (h : bs.length ≤ n) : (padTo n bs).length = n := by
  simp [padTo]; omega

theorem flit_good (ty vc seq : Nat) (content : List Byte) (h : content.length ≤ 244) : flitGood (flit ty vc seq content) = true := by
  simp only [flitGood, flit, padTo_length 244 content h, beq_self_eq_true, List.all_nil, Bool.not_false, Bool.and_true]

/-- A good flit in its turn is accepted. -/
theorem flit_in (s : State) (l ty vc : Nat) (training : Bool) (seq : Nat) (content : List Byte) (hc : content.length ≤ 244)
    (h : l < 8 ∧ s.reach.links.length = 8 ∧ listens s l training = true ∧
      (linkAt (headerIn l (flit ty vc seq content) (countCoding l (flit ty vc seq content) s)) l).phase ≠ .down ∧
      seq = (linkAt (headerIn l (flit ty vc seq content) (countCoding l (flit ty vc seq content) s)) l).rxSeq) :
    flitIn s l ty vc training (flit ty vc seq content) :=
  ⟨h.1, h.2.1, h.2.2.1, flit_good _ _ _ _ hc, rfl, rfl, h.2.2.2.1, h.2.2.2.2⟩

/-- Link 3 in CHECK with a peer's hail frame whose version is `v`. -/
def checking (v : Nat) : State :=
  let s := linked .check 0
  { s with reach := { s.reach with links := s.reach.links.set 3 { linkAt s 3 with peerFrame := [2, BitVec.ofNat 8 v, 7, 0, 1] ++ List.replicate 59 0 } } }

/-- What a lane's receiver finds in LOCK: three good codewords of lane `i`. -/
def laneFound (e i t : Nat) : LaneSync := ⟨[(e, i, 65534), (e, i, 65535), (e, i, 0)], t⟩

theorem witness_LinkTraining :
    (up.power.logicOn = true ∧ (linked .down 0).reach.links.length = 8 ∧ (linked .down 0).reach.phy.length = 8 ∧ (4 : Nat) < 8) ∧
    (let s := { linked .down 0 with reach := { (linked .down 0).reach with phy := [false, false, false, false, false, true, true, true] } };
      s.reach.phy.getD 4 false = false ∧ linkOfLane s 4 = some 4 ∧ (linkAt s 4).phase = .down ∧ (linkAt s 4).en = true ∧ (linkAt s 4).wait = false ∧
        ∀ i < (linkAt s 4).width, i ≠ 0 → s.reach.phy.getD (4 + i) false = true) ∧
    ((linked .up 8000).reach.phy.getD 4 false = true ∧ linkOfLane (linked .up 8000) 4 = some 4 ∧ (linkAt (linked .up 8000) 4).phase = .up ∧
      (linkAt (linked .up 8000) 4).lastGood + 1000 * (linked .up 8000).soft.linkTimeout ≤ (linked .up 8000).tide.osc) ∧
    ((linkAt (linked .lock 100000) 4).phase = .lock ∧ (linkAt (linked .lock 100000) 4).since + 100000 ≤ (linked .lock 100000).tide.osc) ∧
    ((linkAt (linked .hail 1000000) 4).phase = .hail ∧ (linkAt (linked .hail 1000000) 4).since + 1000000 ≤ (linked .hail 1000000).tide.osc ∧
      (linkAt (linked .hail 10000) 4).hailAt + 10000 ≤ (linked .hail 10000).tide.osc) ∧
    ((linkAt (checking 1) 3).phase = .check ∧ checkReason (checking 1) 3 = 0 ∧ checkReason (checking 2) 3 = 3) := by decide +kernel

theorem witness_LinkTraining_lock :
    let s := linked .lock 50; let lanes := [laneFound 15 0 10, laneFound 0 1 42, laneFound 7 2 20, laneFound 1 3 10]
    (linkAt s 4).phase = .lock ∧ lanes.length = (linkAt s 4).width ∧ 65534 < 65536 ∧ laneSkew lanes = 32 ∧
    (∀ i (x : LaneSync), lanes[i]? = some x → ∃ e1 e2 e3, e1 ≤ 15 ∧ e2 ≤ 15 ∧ e3 ≤ 15 ∧
      x.words = [(e1, i, 65534), (e2, i, (65534 + 1) % 65536), (e3, i, (65534 + 2) % 65536)]) ∧
    (linkAt s 4).queue = [] ∧ 0 < (linkAt s 4).credits.getD 0 0 ∧ (linkAt s 4).replay.length < 1024 := by
  refine ⟨by decide +kernel, by decide +kernel, by decide, by decide +kernel, ?_, by decide +kernel⟩
  intro i x hx
  match i, hx with
  | 0, hx => cases hx; exact ⟨15, 15, 15, by decide, by decide, by decide, rfl⟩
  | 1, hx => cases hx; exact ⟨0, 0, 0, by decide, by decide, by decide, rfl⟩
  | 2, hx => cases hx; exact ⟨7, 7, 7, by decide, by decide, by decide, rfl⟩
  | 3, hx => cases hx; exact ⟨1, 1, 1, by decide, by decide, by decide, rfl⟩

theorem witness_LinkTraining_hail : ∀ b ∈ ([1, 2] : List Byte),
    let s := linked .hail 0; let h := flit 1 0 0 [b]
    flitIn s 4 1 0 true h ∧ h.payload = padTo 244 [b] ∧ (linkAt (accepted s 4 0 h) 4).phase = .hail ∧ leAt [1#8] 0 1 = 1 ∧ leAt [2#8] 0 1 = 2 ∧
    (linkAt (accepted s 4 0 h) 4).queue = [] ∧ 0 < (linkAt (accepted s 4 0 h) 4).credits.getD 0 0 ∧
      (linkAt (accepted s 4 0 h) 4).replay.length < 1024 := by
  intro b hb
  obtain rfl | rfl : b = 1 ∨ b = 2 := by simpa using hb
  all_goals exact ⟨flit_in _ _ _ _ _ _ _ (by decide) (by decide +kernel), rfl, by decide +kernel, by decide, by decide, by decide +kernel⟩

/-- Link 3 in CHECK with a peer's version, width, device and address. -/
def checkingAs (ver width device addr : Nat) : State :=
  let s := linked .check 0
  { s with reach := { s.reach with links := s.reach.links.set 3 { linkAt s 3 with
      detach := true, peerFrame := [2] ++ leBytes 1 ver ++ leBytes 2 addr ++ leBytes 1 width ++ List.replicate 19 0 ++ leBytes 8 device } } }

theorem witness_LinkTraining_reasons :
    (∀ q ∈ [(2, 1, 0, 7), (1, 2, 0, 7), (1, 1, 1, 7), (1, 1, 0, 5), (1, 1, 0, 7)], let s := checkingAs q.1 q.2.1 q.2.2.1 q.2.2.2
      let f := (linkAt s 3).peerFrame
      leAt f 1 1 = q.1 ∧ leAt f 4 1 = q.2.1 ∧ leAt f 24 8 = q.2.2.1 ∧ leAt f 2 2 = q.2.2.2 ∧ (linkAt s 3).width = 1 ∧ s.reach.device.toNat = 1 ∧
        s.reach.addr.getD 0xFFFF = 5 ∧ (linkAt s 3).phase = .check ∧ (linkAt s 3).detach = true) ∧
    checkReason (checkingAs 1 1 0 7) 3 = 0 ∧ (linkAt (checking 1) 3).detach = false ∧
    (32 < laneSkew [laneFound 15 0 10, laneFound 0 1 43, laneFound 7 2 20, laneFound 1 3 10] ∧ [laneFound 16 0 10].length ≠ (linkAt (linked .lock 50) 4).width) := by
  decide +kernel

theorem witness_LinkCommands :
    (linked .up 0).reach.links.length = 8 ∧ (7 : Nat) < 8 ∧ (linked .up 0).power.logicOn = true ∧ (linked .up 0).power.aoUp = true ∧
    (linkAt (linked .up 0) 0).phase = .up ∧ (0#32).getLsbD 0 = false ∧ (3#32).getLsbD 1 = true ∧
    ((5#32).getLsbD 0 = true ∧ (5#32).getLsbD 1 = false ∧ (5#32).getLsbD 2 = true) ∧ (0x1FEFF#32).toNat % 65536 = 0xFEFF := by decide +kernel

/-- The flits of a record stream, each taken in its turn. -/
def arrives (l vc : Nat) (hs : List FlitHdr) (s : State) : State :=
  hs.foldl (fun s h => sendIdle l false (updLink l (fun k => { k with stream := k.stream.modify vc (· ++ h.payload) })
    (acceptFlit l vc (headerIn l h (countCoding l h s))))) s

/-- Every flit of a stream is the next one expected, whatever its CRC. -/
def inTurn (l ty vc : Nat) : List FlitHdr → State → Bool
  | [], _ => true
  | h :: hs, s =>
    let t := headerIn l h (countCoding l h s)
    listens s l false && (linkAt t l).phase != .down && h.seq == (linkAt t l).rxSeq && h.type == ty && h.vc == vc &&
      inTurn l ty vc hs (arrives l vc [h] s)

theorem streamed_good (l ty vc : Nat) (hs : List FlitHdr) : ∀ s, (∀ h ∈ hs, flitGood h = true) → inTurn l ty vc hs s = true →
    hs.foldl (streamIn l ty vc) s = arrives l vc hs s := by
  induction hs with
  | nil => intro s _ _; rfl
  | cons h hs ih =>
    intro s hg ht
    simp only [inTurn, Bool.and_eq_true, bne_iff_ne, beq_iff_eq] at ht
    obtain ⟨⟨⟨⟨⟨h1, h2⟩, h3⟩, h4⟩, h5⟩, h6⟩ := ht
    rw [List.foldl_cons, show streamIn l ty vc s h = arrives l vc [h] s by
      simp only [streamIn, sequenced, h1, hg h (List.mem_cons_self ..), Bool.not_true, Bool.false_eq_true, ↓reduceIte]
      rw [if_neg h2, if_neg (by simp [h3]), if_neg (by simp [h4, h5])]
      rfl, ih _ (fun x hx => hg x (List.mem_cons_of_mem _ hx)) h6]
    rfl

/-- A record whose flits arrive in turn stands whole once they have. -/
theorem record_ready (s : State) (l vc kind len : Nat) (hs : List FlitHdr) (r : RecHdr) (content : Option (List Byte))
    (hg : ∀ h ∈ hs, flitGood h = true) (ht : inTurn l (if vc = 1 then 0x10 else 0x11) vc hs s = true)
    (h : l < 8 ∧ s.reach.links.length = 8 ∧ listens s l false = true ∧ r.kind = kind ∧ r.len = len ∧
      recordWhole ((linkAt (arrives l vc hs s) l).stream.getD vc []) r content = true) : recordReady s l vc kind len hs r content := by
  have := streamed_good _ _ _ _ s hg ht
  exact ⟨h.1, h.2.1, h.2.2.1, h.2.2.2.1, h.2.2.2.2.1, by rw [streamed, this]; exact h.2.2.2.2.2⟩

/-- The flits of a record of at most 480 bytes, from SEQ 0. -/
def recOf (vc : Nat) (r : RecHdr) (content : List Byte) : List FlitHdr :=
  let bs := recHead r.kind r.pass r.slot r.len ++ content
  let ty := if vc = 1 then 0x10 else 0x11
  if bs.length ≤ 244 then [flit ty vc 0 bs] else [flit ty vc 0 (bs.take 244), flit ty vc 1 (bs.drop 244)]

theorem recOf_good (vc : Nat) (r : RecHdr) (content : List Byte) (hc : content.length ≤ 480) : ∀ h ∈ recOf vc r content, flitGood h = true := by
  intro h hh
  have h8 : (recHead r.kind r.pass r.slot r.len).length = 8 := rfl
  unfold recOf at hh
  dsimp only at hh
  split at hh
  · next hl =>
    obtain rfl := List.mem_singleton.1 hh
    exact flit_good _ _ _ _ hl
  · obtain rfl | hh := List.mem_cons.1 hh
    · exact flit_good _ _ _ _ (List.length_take_le ..)
    · obtain rfl := List.mem_singleton.1 hh
      refine flit_good _ _ _ _ ?_
      rw [List.length_drop, List.length_append]
      omega

/-- Such a record stands whole once its flits have come in turn. -/
theorem rec_ready (s : State) (l vc : Nat) (r : RecHdr) (bytes : List Byte) (content : Option (List Byte)) (hb : bytes.length ≤ 480)
    (ht : inTurn l (if vc = 1 then 0x10 else 0x11) vc (recOf vc r bytes) s = true)
    (h : l < 8 ∧ s.reach.links.length = 8 ∧ listens s l false = true ∧
      recordWhole ((linkAt (arrives l vc (recOf vc r bytes) s) l).stream.getD vc []) r content = true) :
    recordReady s l vc r.kind r.len (recOf vc r bytes) r content :=
  record_ready _ _ _ _ _ _ _ _ (recOf_good _ _ _ hb) ht ⟨h.1, h.2.1, h.2.2.1, rfl, rfl, h.2.2.2⟩

/-- The state once its flits have come and it has been taken from its stream. -/
def took (s : State) (l vc : Nat) (r : RecHdr) (bytes : List Byte) : State :=
  updLink l (fun k => { k with
    stream := k.stream.set vc (afterRecord (((linkAt (arrives l vc (recOf vc r bytes) s) l).stream.getD vc []).drop (8 + r.len))) })
      (arrives l vc (recOf vc r bytes) s)

theorem taken_rec (s : State) (l vc : Nat) (r : RecHdr) (bytes : List Byte) (hb : bytes.length ≤ 480)
    (ht : inTurn l (if vc = 1 then 0x10 else 0x11) vc (recOf vc r bytes) s = true) :
    taken s l vc (recOf vc r bytes) r = took s l vc r bytes := by
  have := streamed_good _ _ _ _ s (recOf_good vc r bytes hb) ht
  rw [taken, streamed, this, took]

/-- Records that stand whole once their flits have come, each alone. -/
theorem recs_ready (s : State) (l vc : Nat) (qs : List (RecHdr × List Byte))
    (h : ∀ q ∈ qs, q.2.length ≤ 480 ∧ inTurn l (if vc = 1 then 0x10 else 0x11) vc (recOf vc q.1 q.2) s = true ∧ l < 8 ∧
      s.reach.links.length = 8 ∧ listens s l false = true ∧
      recordWhole ((linkAt (arrives l vc (recOf vc q.1 q.2) s) l).stream.getD vc []) q.1 (some q.2) = true) :
    ∀ q ∈ qs, (∀ content ∈ [some q.2, none], recordReady s l vc q.1.kind q.1.len (recOf vc q.1 q.2) q.1 content) ∧
      taken s l vc (recOf vc q.1 q.2) q.1 = took s l vc q.1 q.2 := by
  intro q hq
  obtain ⟨h1, h2, h3, h4, h5, h6⟩ := h q hq
  refine ⟨fun content hc => rec_ready _ _ _ _ _ _ h1 h2 ⟨h3, h4, h5, ?_⟩, taken_rec _ _ _ _ _ h1 h2⟩
  obtain rfl | rfl : content = some q.2 ∨ content = none := by simpa using hc
  · exact h6
  · simp only [recordWhole, Bool.and_eq_true] at h6 ⊢
    exact ⟨h6.1, rfl⟩

/-- Link 3 with two flits sent and not acknowledged. -/
def unacked : State :=
  let s := linked .up 0
  { s with reach := { s.reach with links := s.reach.links.set 3 { linkAt s 3 with
      txSeq := 2, replay := [(⟨8, 0, 0, []⟩, 6), (⟨7, 0, 1, []⟩, 0)] } } }

/-- An IDLE flit that acknowledges SEQ 0 and asks for the rest again. -/
def nakFlit : FlitHdr :=
  let p := List.replicate 244 0
  ⟨0, 0, 0, 0, true, true, 3, 1, p, crc32c (flitHead 0 0 0 0 true true 3 1 ++ p), [], false⟩

theorem nakFlit_good : flitGood nakFlit = true := by
  simp only [flitGood, nakFlit, List.length_replicate, beq_self_eq_true, List.all_nil, Bool.not_false, Bool.and_true]

theorem witness_FlitReception :
    (listens (linked .up 0) 3 false = true ∧ flitGood { flit 6 0 0 [] with spoilt := true } = false ∧
      (∀ v < 4, (linkAt (linked .up 0) 3).stream.getD v [] = [])) ∧
    (flitIn (linked .up 0) 3 9 0 false (flit 9 0 0 []) ∧ flitIn (linked .up 0) 3 0x11 2 false (flit 0x11 2 0 []) ∧ (9 ≠ 6 ∨ (0 : Nat) ≠ 0) ∧ (2 : Nat) < 3) ∧
    (∀ r ∈ [(⟨6, 0, 0, 2⟩ : RecHdr), ⟨5, 0, 0, 4⟩], recordReady (linked .up 0) 3 1 r.kind r.len (recOf 1 r (List.replicate r.len 0)) r none ∧
      (r.kind ≠ 5 ∨ r.len ≠ 2)) ∧
    (listens unacked 3 true = true ∧ flitGood (flit 0 0 0 []) = true ∧ (flit 0 0 0 []).type = 0 ∧ (flit 0 0 0 []).nak = false ∧
      (linkAt unacked 3).queue = [] ∧ unacked.reach.mcastAcks = [] ∧ (∀ x ∈ unacked.reach.groups, x.holding = 0)) ∧
    (flitGood nakFlit = true ∧ nakFlit.type = 0 ∧ nakFlit.nak = true ∧ nakFlit.ackValid = true ∧ (linkAt unacked 3).owed = [0, 0, 0, 0] ∧
      ackedReplay (linkAt unacked 3).replay nakFlit.ack = [(⟨7, 0, 1, []⟩, 0)]) ∧
    (flitIn (linked .up 0) 3 2 0 false (flit 2 0 0 [9, 0]) ∧ (linkAt (accepted (linked .up 0) 3 0 (flit 2 0 0 [9, 0])) 3).phase = .up) := by
  refine ⟨by decide +kernel, ⟨flit_in _ _ _ _ _ _ _ (by decide) (by decide +kernel), flit_in _ _ _ _ _ _ _ (by decide) (by decide +kernel), by decide, by decide⟩,
    ?_,
    ⟨by decide +kernel, flit_good _ _ _ _ (by decide), by decide +kernel⟩, ⟨nakFlit_good, by decide +kernel⟩,
    flit_in _ _ _ _ _ _ _ (by decide) (by decide +kernel), by decide +kernel⟩
  intro r hr
  obtain rfl | rfl : r = ⟨6, 0, 0, 2⟩ ∨ r = ⟨5, 0, 0, 4⟩ := by simpa using hr
  all_goals exact ⟨rec_ready _ _ _ _ _ _ (by decide) (by decide +kernel) (by decide +kernel), by decide⟩

theorem witness_FlitReception_idle :
    listens (linked .up 0) 3 true = true ∧ flitGood { flit 0 0 0 [] with spoilt := true } = false := by decide +kernel

/-- Link 3 in a state in which it takes no ordinary flit. -/
def training (ph : LinkPhase) : State :=
  let s := linked .up 0
  { s with reach := { s.reach with links := s.reach.links.set 3 { linkAt s 3 with phase := ph } } }

theorem witness_FlitReception_training :
    ∀ ph ∈ [LinkPhase.failed, .hail, .check], let s := training ph
      s.power.logicOn = true ∧ s.reach.links.length = 8 ∧ (linkAt s 3).phase = ph ∧ (∀ v < 4, (linkAt s 3).stream.getD v [] = []) ∧
        flitGood { flit 6 0 0 [] with spoilt := true } = false ∧ (flit 6 0 0 []).nak = false ∧ (linkAt s 3).queue = [] ∧
        s.reach.mcastAcks = [] ∧ ∀ x ∈ s.reach.groups, x.holding = 0 := by decide +kernel

/-- Group 15 with link 3 upstream and links 0 to 2 down; one route, old. -/
def routed (osc : Nat) : State :=
  let s := linked .up osc
  { s with reach := { s.reach with
      routes := [⟨9, 0, 15, 0⟩], groups := s.reach.groups.set 15 { mcastReset with join := true, upLink := 3, down := 7 } } }

theorem witness_RoutesAndMulticast :
    (let s := routed 0; let h := flit 3 0 0 (routeBytes [(8, 14)]); let a := accepted s 3 0 h
      flitIn s 3 3 0 false h ∧ h.payload = padTo 244 (routeBytes [(8, 14)]) ∧ a.reach.addr = some 5 ∧ 14 + 1 < 16 ∧ a.reach.routes.length < 1024 ∧
        ∀ x ∈ a.reach.routes, x.addr ≠ 8) ∧
    (let s := routed 400000; s.power.logicOn = true ∧ s.reach.addr = some 5 ∧ s.reach.advertisedAt + 100000 ≤ s.tide.osc ∧
      (linkAt s 0).phase = .up ∧ (linkAt s 0).queue = [] ∧ 60 * 0 < ((5, 0) :: s.reach.routes.map fun e => (e.addr, e.hops)).length ∧
      ∀ x ∈ s.reach.routes, x.at_ + 400000 ≤ s.tide.osc) ∧
    (∀ seg ∈ [(sealPacket 5).take 127, sealPacket 5], let s := routed 0; let h := flit 0x20 3 0 (leBytes 2 15 ++ seg); let a := accepted s 3 3 h
      flitIn s 3 0x20 3 false h ∧ h.payload = padTo 244 (leBytes 2 15 ++ seg) ∧
        a.reach.addr.isSome = true ∧ a.reach.groups.length = 16 ∧ (a.reach.groups.getD 15 mcastReset).source = false ∧
        (a.reach.groups.getD 15 mcastReset).upLink = 3 ∧ (a.reach.groups.getD 15 mcastReset).partialPkt = [] ∧
        bitOf (a.reach.groups.getD 15 mcastReset).down 1 = true ∧ linkOpen a 1 = true ∧ (linkAt a 1).queue = [] ∧
        (a.reach.groups.getD 15 mcastReset).join = true) ∧
    (packetWhole ([] ++ (sealPacket 5).take 127) = false ∧ packetWhole ([] ++ sealPacket 5) = true ∧ classifyPkt ([] ++ sealPacket 5) = .patchPkt) ∧
    (let s := routed 0; let h := flit 0x21 0 0 (leBytes 2 15 ++ leBytes 4 5); let a := accepted s 0 0 h
      flitIn s 0 0x21 0 false h ∧ h.payload = padTo 244 (leBytes 2 15 ++ leBytes 4 (5#32).toNat) ∧ a.reach.addr.isSome = true ∧
        a.reach.groups.length = 16 ∧ bitOf (a.reach.groups.getD 15 mcastReset).down 0 = true) := by
  refine ⟨⟨flit_in _ _ _ _ _ _ _ (by decide) (by decide +kernel), rfl, by decide +kernel⟩, by decide +kernel, ?_, by decide +kernel,
    flit_in _ _ _ _ _ _ _ (by decide) (by decide +kernel), rfl, by decide +kernel⟩
  intro seg hs
  obtain rfl | rfl : seg = (sealPacket 5).take 127 ∨ seg = sealPacket 5 := by simpa using hs
  all_goals exact ⟨flit_in _ _ _ _ _ _ _ (by decide +kernel) (by decide +kernel), rfl, by decide +kernel⟩

/-- Group 15 reports on link 3, open or not. -/
def reporting (isOpen : Bool) : State :=
  let s := routed 0
  if isOpen then s else { s with reach := { s.reach with links := s.reach.links.set 3 { linkAt s 3 with phase := .down } } }

theorem witness_RoutesAndMulticast_report :
    ∀ o : Bool, let s := reporting o; let h := flit 0x21 0 0 (leBytes 2 15 ++ leBytes 4 5); let a := accepted s 0 0 h
      flitIn s 0 0x21 0 false h ∧ h.payload = padTo 244 (leBytes 2 15 ++ leBytes 4 (5#32).toNat) ∧ a.reach.addr.isSome = true ∧
        a.reach.groups.length = 16 ∧ bitOf (a.reach.groups.getD 15 mcastReset).down 0 = true ∧ (a.reach.groups.getD 15 mcastReset).source = false ∧
        linkOpen a (a.reach.groups.getD 15 mcastReset).upLink = o ∧ (a.reach.groups.getD 15 mcastReset).reported = none := by
  intro o
  cases o <;> exact ⟨flit_in _ _ _ _ _ _ _ (by decide) (by decide +kernel), rfl, by decide +kernel⟩

/-- The image in application while a segment arrives. -/
def routedLoading : State := { routed 0 with image := { up.image with phase := 1 } }

theorem witness_RoutesAndMulticast_whole :
    let s := routedLoading; let h := flit 0x20 3 0 (leBytes 2 15 ++ sealPacket 5)
    flitIn s 3 0x20 3 false h ∧ (accepted s 3 3 h).image.phase ≠ 0 :=
  ⟨flit_in _ _ _ _ _ _ _ (by decide +kernel) (by decide +kernel), by decide +kernel⟩

/-- Group 15 whose DOWN link 1 is down. -/
def routedClosed : State :=
  let s := routed 0
  { s with reach := { s.reach with links := s.reach.links.set 1 { linkAt s 1 with phase := .down } } }

theorem witness_RoutesAndMulticast_applied :
    (∀ bs ∈ [sealPacket 5, sealPacket 0, patchPacketOf 7 0 0 0 0 0 []], let s := routedClosed; let h := flit 0x20 3 0 (leBytes 2 15 ++ bs)
      let a := accepted s 3 3 h
      flitIn s 3 0x20 3 false h ∧ h.payload = padTo 244 (leBytes 2 15 ++ bs) ∧ a.image.phase = 0 ∧ a.reach.addr.isSome = true ∧
        a.reach.groups.length = 16 ∧ (a.reach.groups.getD 15 mcastReset).join = true ∧ (a.reach.groups.getD 15 mcastReset).partialPkt = [] ∧
        (linkAt a 1).phase = .down ∧ (linkAt a 1).width ≠ 0 ∧ a.fabric.halted = false ∧ noImage a = false ∧
        (a.image.cfg.map ImageCfg.b).getD 0 = 68 ∧ sealOk a 5 = true ∧ sealOk a 0 = false) ∧
    ([sealPacket 5, sealPacket 0, patchPacketOf 7 0 0 0 0 0 []].map fun bs => (packetWhole bs, classifyPkt bs, patchAckCode false false 68 bs)) =
      [(true, .patchPkt, 0), (true, .patchPkt, 0), (true, .patchPkt, 3)] := by
  refine ⟨?_, by decide +kernel⟩
  intro bs hb
  obtain rfl | rfl | rfl : bs = sealPacket 5 ∨ bs = sealPacket 0 ∨ bs = patchPacketOf 7 0 0 0 0 0 [] := by simpa using hb
  all_goals exact ⟨flit_in _ _ _ _ _ _ _ (by decide +kernel) (by decide +kernel), rfl, by decide +kernel⟩

/-- A follower whose upstream neighbour is at the end of link 0. -/
def follower (measured : Bool) (tide : Nat) : State :=
  let s := linked .up 0
  { s with tide := { s.tide with follower := true, measured := measured, count := BitVec.ofNat 64 tide } }

/-- A response of the upstream neighbour with its stamps. -/
def rspFlit (t1 t2 t3 : Nat) : FlitHdr := flit 5 0 0 (leBytes 8 t1 ++ leBytes 8 t2 ++ leBytes 8 t3)

theorem witness_TideExchange :
    ((follower true 65536).power.logicOn = true ∧ upstream (follower true 65536) = some 0 ∧ clearToSend (follower true 65536) 0 ∧
      (follower true 65536).tide.measured = true ∧ (follower true 65536).tide.exchangeAt + 65536 ≤ (follower true 65536).tide.count.toNat ∧
      (follower false 0).tide.measured = false) ∧
    (let s := follower false 0; let h := flit 4 0 0 (leBytes 8 0xFFFFFFFFFFFFFFFF); flitIn s 0 4 0 false h ∧
      h.payload = padTo 244 (leBytes 8 0xFFFFFFFFFFFFFFFF) ∧ clearToSend (accepted s 0 0 h) 0) ∧
    (∀ measured : Bool, ∀ d ∈ [(2080 : Int), 2064, 96, 80, 0, -80, -96, -2064, -2080],
      let s := follower measured 0; let h := rspFlit 0 (BitVec.ofInt 64 d).toNat 0; let a := accepted s 0 0 h
      flitIn s 0 5 0 false h ∧ a.tide.follower = true ∧ upstream a = some 0 ∧ a.tide.phase ≠ .holdover ∧ a.tide.measured = measured) ∧
    ([2080, 2064, 96, 80, 0, -80, -96, -2064, -2080].map (fun d =>
      theta (linkAt (accepted (follower true 0) 0 0 (rspFlit 0 (BitVec.ofInt 64 d).toNat 0)) 0) 0 (BitVec.ofNat 64 (BitVec.ofInt 64 d).toNat) 0 0) =
        [65, 64, 3, 2, 0, -2, -3, -64, -65]) := by
  refine ⟨by unfold clearToSend; decide +kernel, ⟨flit_in _ _ _ _ _ _ _ (by decide) (by decide +kernel), rfl, by unfold clearToSend; decide +kernel⟩, ?_,
    by decide +kernel⟩
  intro m d hd
  simp only [List.mem_cons, List.not_mem_nil, or_false] at hd
  obtain rfl | rfl | rfl | rfl | rfl | rfl | rfl | rfl | rfl := hd <;> cases m <;>
    exact ⟨flit_in _ _ _ _ _ _ _ (by decide +kernel) (by decide +kernel), by decide +kernel⟩

/-! ### Merge domains -/

/-- The root's image: a child at address 7. -/
def rootCfg : ImageCfg := { cfg with role := 1, remote := 1, fanout := [8, 8], children := [⟨7, 0, 0⟩] }

/-- The root of a domain whose child at address 7 is at the end of link 3, its slot as given. -/
def root (k : ChildSt) : State :=
  let s := linked .up 20000
  { s with
    image := { s.image with cfg := some rootCfg }
    reach := { s.reach with dom := { s.reach.dom with phase := .formed, children := [k] } } }

/-- An admitted child. -/
def child : ChildSt := { childReset with phase := .admitted, link := 3, addr := 7 }

/-- A member that its parent, at the end of link 0, has admitted; it left a domain before or not. -/
def member (left : Bool) : State :=
  let s := linked .up 20000
  { s with
    image := { s.image with cfg := some { cfg with role := 2, parent := 7 } }
    reach := { s.reach with dom := { s.reach.dom with phase := .formed, joined := true, admitted := true, left := left } } }

/-- A member's flip in a state. -/
def memberFlip (ph : FlipPhase) : State := { member false with weights := (flipAt ph 5 0).weights }

/-- A child's JOIN in progress, its signature as given. -/
def joining (sig : List Byte) : ChildSt := { childReset with link := 3, joining := some (7, sig, 0, 0) }

/-- The root where a child signed what the root expects. -/
def joinGood : State :=
  let s := root (joining [])
  let f := List.replicate 32 0#8 ++ leBytes 2 1 ++ List.replicate 2 0 ++ leBytes 4 4 ++ List.replicate 24 0
  let s2 := { s with reach := { s.reach with links := s.reach.links.set 3 { linkAt s 3 with peerFrame := f } } }
  { s2 with reach := { s2.reach with dom := { s2.reach.dom with
      children := [joining (leBytes 4 (sigWord0 s2).toNat ++ List.replicate 12 0)] } } }

/-- A sheet that the child holds since time 0, and one that a parent opened. -/
def rootBusy : State :=
  { root child with pipe := (flying [{ sheet 3 4 [rowIn 1 511 .running { slotStart [] with due := [(0, 1)] }] with upAt := [(0, 0)] }]).pipe }

/-- A member's sheet in stage 3. -/
def memberBusy : State :=
  { member false with
    pipe := (flying [{ memberSheet (member false) 0 3 0 1 1 with rows := [rowIn 1 511 .running (slotStart [])], progressAt := 18000 }]).pipe
    reach := { (member false).reach with dom := { (member false).reach.dom with cur := innerSeq 3 } } }

/-- A root whose address its neighbours know. -/
def told (a : Option Nat) : State := { root child with reach := { (root child).reach with addrTold := a } }

theorem witness_LinkCommands_address :
    (∀ ph ∈ [LinkPhase.down, .lock, .hail, .check, .drain, .failed], (linkAt (linked ph 0) 4).phase = ph ∧ ph ≠ .up) ∧
    ((told (some 5)).power.logicOn = true ∧ (told (some 5)).reach.addrTold ≠ none ∧ (told (some 5)).reach.addrTold ≠ some 0xFEFF ∧
      childIn (told (some 5)) 0 = true) ∧
    ((told none).reach.addrTold = none ∧ (told (some 0xFEFF)).reach.addrTold = some ((0x1FEFF#32).toNat % 65536)) := by decide +kernel

/-- A message of a domain. -/
def domFlit : FlitHdr := flit 6 0 0 []

theorem witness_DomainMessages :
    (let s := root childReset; let a := accepted s 3 0 domFlit; flitIn s 3 6 0 false domFlit ∧ childSlotOf a 7 = some 0 ∧ a.reach.addr.isSome = true ∧
      0 < a.reach.dom.children.length ∧ (childSt a 0).phase ≠ .admitted ∧ (childSt a 0).joinsNext = false) ∧
    (let s := root child; let a := accepted s 3 0 domFlit; flitIn s 3 6 0 false domFlit ∧ childSlotOf a 7 = some 0 ∧ (childSt a 0).phase = .admitted ∧
      childHeard a 3 = some 0 ∧ (childSt a 0).joining = none ∧ childOn a 3 = some 0) ∧
    (∀ left : Bool, let s := member left; let a := accepted s 0 0 domFlit; flitIn s 0 6 0 false domFlit ∧ parentLink a = some 0 ∧ a.reach.dom.joined = true ∧
      a.reach.dom.admitted = true ∧ a.reach.dom.left = left ∧ a.weights.wLive.toNat < (1#32).toNat) ∧
    ∀ ph ∈ [FlipPhase.armed, .window], let s := memberFlip ph; let a := accepted s 0 0 domFlit; flitIn s 0 6 0 false domFlit ∧ a.weights.flip = ph ∧
      parentLink a = some 0 ∧ a.reach.dom.admitted = true := by
  refine ⟨⟨flit_in _ _ _ _ _ _ _ (by decide) (by decide +kernel), by decide +kernel⟩,
    ⟨flit_in _ _ _ _ _ _ _ (by decide) (by decide +kernel), by decide +kernel⟩, fun left => ?_, fun ph hp => ?_⟩
  · cases left <;> exact ⟨flit_in _ _ _ _ _ _ _ (by decide) (by decide +kernel), by decide +kernel⟩
  · obtain rfl | rfl : ph = .armed ∨ ph = .window := by simpa using hp
    all_goals exact ⟨flit_in _ _ _ _ _ _ _ (by decide) (by decide +kernel), by decide +kernel⟩

/-- A PLACEMENT of one byte. -/
def placing : RecHdr := ⟨0x86, 0, 0, 1⟩

theorem witness_DomainMessages_placement :
    (let s := root (joining (List.replicate 16 0)); let a := taken s 3 2 (recOf 2 placing [8]) placing
      recordReady s 3 2 0x86 [8#8].length (recOf 2 placing [8]) placing (some [8]) ∧ a.image.cfg = some rootCfg ∧ joiningOn a 3 = some 0 ∧
        (childSt a 0).joining = some (7, List.replicate 16 0, 0, 0) ∧ clearToSend a 3 ∧
        refusal a rootCfg 0 (List.replicate 16 0) 0 0 (bitmapTokens rootCfg.vocab [8]) ≠ 0) ∧
    (let s := joinGood; let a := taken s 3 2 (recOf 2 placing [8]) placing; let sig := leBytes 4 (sigWord0 a).toNat ++ List.replicate 12 0
      recordReady s 3 2 0x86 [8#8].length (recOf 2 placing [8]) placing (some [8]) ∧ a.image.cfg = some rootCfg ∧ joiningOn a 3 = some 0 ∧
        (childSt a 0).joining = some (7, sig, 0, 0) ∧ refusal a rootCfg 0 sig 0 0 (bitmapTokens rootCfg.vocab [8]) = 0) := by
  refine ⟨⟨rec_ready _ _ _ _ _ _ (by decide) (by decide +kernel) (by decide +kernel), ?_⟩,
    rec_ready _ _ _ _ _ _ (by decide) (by decide +kernel) (by decide +kernel), ?_⟩
  · rw [taken_rec _ _ _ _ _ (by decide) (by decide +kernel)]
    unfold clearToSend
    decide +kernel
  · rw [taken_rec _ _ _ _ _ (by decide) (by decide +kernel)]
    decide +kernel

/-- A child that leaves, and one that joins. -/
def leaving : State := root { child with departing := true }
/-- A child that joins at the next boundary. -/
def entering : State := root { childReset with joinsNext := true, link := 3, addr := 7 }

theorem witness_DomainMessages_boundary :
    (leaving.power.logicOn = true ∧ domBoundary leaving = true ∧ changeWaits leaving = true ∧ (childSt leaving 0).departing = true ∧
      0 < leaving.reach.dom.children.length) ∧
    (domBoundary entering = true ∧ changeWaits entering = true ∧ (childSt entering 0).departing = false ∧ (childSt entering 0).joinsNext = true ∧
      linkOpen entering (childSt entering 0).link = true ∧ (linkAt entering (childSt entering 0).link).queue = []) ∧
    (childIn rootBusy 0 = true ∧ (∀ x ∈ rootBusy.pipe.flight, heldBelow rootBusy 0 x = true ∧ (0, 0) ∈ x.upAt) ∧
      0 + 1000 * rootBusy.soft.stepTimeout ≤ rootBusy.tide.osc) ∧
    ((memberBusy.pipe.flight.map (·.seq)).Nodup ∧ (∀ x ∈ memberBusy.pipe.flight, progressDue memberBusy x = true) ∧
      parentLink memberBusy = some 0 ∧ (linkAt memberBusy 0).queue = []) := by decide +kernel

theorem witness_DomainMessages_sealed :
    let s := joinGood; let a := accepted s 3 0 domFlit
    flitIn s 3 6 0 false domFlit ∧ childHeard a 3 = some 0 ∧ ((childSt a 0).joining.map fun j => (j.1, j.2.2)) = some (7, 0, 0) :=
  ⟨flit_in _ _ _ _ _ _ _ (by decide) (by decide +kernel), by decide +kernel⟩

/-- The root at live step 5, and a child that is to join from a live step, with a sealed step. -/
def joinFrom (live sld : Nat) : State :=
  let s := root { childReset with joinsNext := true, link := 3, addr := 7, live := BitVec.ofNat 32 live, sealed := some (BitVec.ofNat 32 sld) }
  { s with weights := { s.weights with wLive := 5, wSealed := 5 } }

theorem witness_DomainMessages_steps :
    ([(5, 5), (4, 5), (4, 4), (6, 5)].map fun q => (decide ((childSt (joinFrom q.1 q.2) 0).live = (joinFrom q.1 q.2).weights.wLive),
      decide ((childSt (joinFrom q.1 q.2) 0).live < (joinFrom q.1 q.2).weights.wLive ∧
        (childSt (joinFrom q.1 q.2) 0).sealed = some (joinFrom q.1 q.2).weights.wLive))) = [(true, false), (false, true), (false, false), (false, false)] ∧
    (let s := joinFrom 4 4; domBoundary s = true ∧ changeWaits s = true ∧ (childSt s 0).departing = false ∧ (childSt s 0).joinsNext = true ∧
      linkOpen s 3 = true ∧ (linkAt s 3).queue = []) := by decide +kernel

theorem witness_DomainMessages_reasons :
    let s := joinGood; let f := (linkAt s (childSt s 0).link).peerFrame; let sig := leBytes 4 (sigWord0 s).toNat ++ List.replicate 12 0
    rootCfg.children[0]? = some ⟨7, 0, 0⟩ ∧ leAt sig 0 4 = (sigWord0 s).toNat ∧ leAt (List.replicate 16 0) 0 4 ≠ (sigWord0 s).toNat ∧
    leAt f 16 8 = 0 ∧ leAt f 32 2 = rootCfg.hchunks ∧ leAt f 36 4 = rootCfg.vocab ∧ leAt f 36 4 ≠ { rootCfg with vocab := 5 }.vocab ∧
    (1#32) ≠ s.weights.wLive ∧ ¬ (1#32) < s.weights.wLive ∧ rootCfg.allowOverlap = false ∧ (rootCfg.place 0).isSome = true ∧ rootCfg.place 3 = none ∧
    (childIdx s) = [0] := by decide +kernel

/-- A control word of a RACE row of sheet 3. -/
def control : CtlWord := { ctlWord 3 0 (rowIn 1 511 .running (slotStart [])) (slotStart []) false with adapter := none16 }

/-- The records of the parent: header and bytes. -/
def fromAbove : List (RecHdr × List Byte) :=
  [(⟨1, 0, 0, 24⟩, sheetOpenBytes 4 1#32 0#32 1 0), (⟨2, 0, 1, 64⟩, List.replicate 64 0), (⟨3, 0, 0, 264⟩, List.replicate 264 0),
    (⟨4, 0, 0, 12⟩, leBytes 4 1 ++ leBytes 8 0), (⟨5, 0, 0, 2⟩, leBytes 2 9), (⟨6, 0, 0, 4⟩, leBytes 4 2), (⟨7, 0, 0, 64⟩, List.replicate 64 0),
    (⟨8, 0, 0, 8⟩, leBytes 8 3), (⟨10, 0, 0, 2⟩, leBytes 2 15), (⟨9, 0, 0, 328⟩, adapterRecBytes 15 3 1 (List.replicate 320 0))]

/-- A member whose table holds version 15. -/
def memberFull : State := { memberBusy with adapters := { up.adapters with table := up.adapters.table.set 15 ⟨.current, 3, 1, 0, 1, false⟩ } }

/-- What the witnesses below ask of the state in which a record takes effect. -/
def aboveOk (a : State) : Prop :=
  fromParent a 0 = true ∧ (a.pipe.flight.map (·.seq)).Nodup ∧ a.image.cfg = some { cfg with role := 2, parent := 7 } ∧
    a.weights.wLive.toNat < (1#32).toNat ∧
    ((flightSheet a (innerSeq control.tag)).map fun x => (x.slotAt 0, x.rows.map fun q => (q.fail.any, q.slots.length))) =
      some (some (0, 0), [(false, 1)]) ∧
    ((memberSlot a 0).map fun q => (q.2.1, q.2.2)) = some (0, 0) ∧
    ((memberSlot a 0).map fun q => addEntries (heldEntries q.1) ((domGraderOf (leBytes 4 1 ++ leBytes 8 0)).filterMap
      (graderPlace { cfg with role := 2, parent := 7 }))) = some [(0, 1)] ∧
    (a.adapters.records = [] ∧ (15 : Nat) < a.adapters.table.length ∧ (adEntry a 15).phase = .free ∧
      (freeRun a (slotsNeeded { cfg with role := 2, parent := 7 } 64 1)).isSome = true ∧ slotsWritable a = true)

theorem witness_ParentRecords : ∀ q ∈ fromAbove,
    (∀ content ∈ [some q.2, none], recordReady memberBusy 0 1 q.1.kind q.1.len (recOf 1 q.1 q.2) q.1 content) ∧ aboveOk (taken memberBusy 0 1 (recOf 1 q.1 q.2) q.1) := by
  intro q hq
  obtain ⟨h1, h2⟩ := recs_ready memberBusy 0 1 fromAbove (by decide +kernel) q hq
  refine ⟨h1, ?_⟩
  rw [h2]
  clear h1 h2
  revert q
  unfold aboveOk
  decide +kernel

theorem witness_ParentRecords_adapter :
    (∀ q ∈ fromAbove.drop 9, let a := taken memberFull 0 1 (recOf 1 q.1 q.2) q.1
      (∀ content ∈ [some q.2, none], recordReady memberFull 0 1 q.1.kind q.1.len (recOf 1 q.1 q.2) q.1 content) ∧ a.adapters.records = [] ∧ (adEntry a 15).phase ≠ .free) ∧
    (let c := { cfg with role := 2, parent := 7 }; sourceOk c 64 1 (List.replicate 320 0) = true) := by
  refine ⟨fun q hq => ?_, by decide +kernel⟩
  obtain ⟨h1, h2⟩ := recs_ready memberFull 0 1 (fromAbove.drop 9) (by decide +kernel) q hq
  refine ⟨h1, ?_⟩
  rw [h2]
  clear h1 h2
  revert q
  decide +kernel

/-- A grader entry of position 0. -/
def entry0 : GraderEntry := ⟨1, 0, 0, 0, false, false, false⟩

/-- A member's sheet whose one slot lists `n` entries of position 0, its row failed or not. -/
def listedSheet (n : Nat) (failed : Bool) : Sheet :=
  { memberSheet (member false) 0 3 0 1 1 with rows := [{ rowIn 1 511 .running { slotStart [] with grader := List.replicate n entry0 } with
      fail := ⟨failed, false, false, false, false⟩ }] }

/-- The member that runs it. -/
def listing (n : Nat) (failed : Bool) : State := { memberBusy with pipe := (flying [listedSheet n failed]).pipe }

theorem entries_counted (n k : Nat) : addEntries [(0, k + 1)] (List.replicate n entry0) = [(0, k + 1 + n)] := by
  induction n generalizing k with
  | zero => rfl
  | succ n ih =>
    rw [List.replicate_succ]
    show addEntries (spSet 0 [(0, k + 1)] 0 (spGet 0 [(0, k + 1)] 0 + 1)) (List.replicate n entry0) = _
    rw [show spSet 0 [(0, k + 1)] 0 (spGet 0 [(0, k + 1)] 0 + 1) = [(0, k + 1 + 1)] by simp [spSet, spGet, spPut], ih]
    congr 2
    omega

theorem listed_entries (n : Nat) : addEntries (heldEntries (listedSheet (n + 1) false)) [entry0] = [(0, n + 2)] := by
  have h : heldEntries (listedSheet (n + 1) false) = [(0, n + 1)] := by
    refine (show _ = addEntries [(0, 0 + 1)] (List.replicate n entry0) from rfl).trans ((entries_counted n 0).trans ?_)
    congr 2
    omega
  rw [h]
  exact entries_counted 1 n

/-- GRADER of one entry of token 1. -/
def oneEntry : List (RecHdr × List Byte) := [(⟨4, 0, 0, 12⟩, leBytes 4 1 ++ leBytes 8 0)]

theorem witness_ParentRecords_listed : ∀ failed : Bool, ∀ q ∈ oneEntry, let a := taken (listing 65536 failed) 0 1 (recOf 1 q.1 q.2) q.1
    recordReady (listing 65536 failed) 0 1 4 (12 * (q.2.length / 12)) (recOf 1 q.1 q.2) q.1 (some q.2) ∧
      ((memberSlot a 0).map fun z => (z.2, z.1.seq)) = some ((0, 0), innerSeq 3) ∧ ((rowOf a (innerSeq 3) 0).map fun r => r.fail.any) = some failed := by
  intro failed q hq
  obtain ⟨h1, h2⟩ := recs_ready (listing 65536 failed) 0 1 oneEntry (by cases failed <;> decide +kernel) q hq
  refine ⟨?_, ?_⟩
  · obtain rfl : q = _ := List.mem_singleton.1 hq
    exact h1 _ (by simp)
  · rw [h2]
    clear h1 h2
    cases failed <;> (revert q; decide +kernel)

theorem witness_ParentRecords_over :
    (listing 65536 false).pipe.flight = [listedSheet 65536 false] ∧
    ∃ n ∈ addEntries (heldEntries (listedSheet 65536 false)) [entry0], 65536 < n.2 := by
  refine ⟨rfl, (0, 65537), ?_, by decide⟩
  rw [listed_entries 65535]
  exact List.mem_singleton.2 rfl

theorem witness_ChildRecords_vectors :
    vectorTail (.value 0#32) = leBytes 4 0 ∧ vectorTail (.reports [(0, 0#32)]) = leBytes 8 0 := by decide +kernel

/-- A sheet whose row's first output the child at link 3 owes. -/
def owed (due : Nat) (w : Option (List Entry)) : State :=
  { root child with pipe := (flying [{ sheet 3 4 [rowIn 1 511 .running
      { slotStart [] with due := [(0, due)], nodes := [(0, ⟨[], [], [], [(0, ⟨w, none, none, none⟩)], false, false⟩)] }] with upAt := [(0, 0)] }]).pipe }

/-- An ADAPTER_LOAD that awaits the child, its own slots written or not. -/
def awaited (written : Bool) : State :=
  { root child with adapters := { up.adapters with
      table := up.adapters.table.set 15 ⟨.loading, 3, 1, 0, 1, false⟩
      loads := [⟨0, 9, patchBlock adLoadPacket, some 15, 0, [], written, [0], true⟩] } }

/-- The records of a child: header and bytes. -/
def fromBelow : List (RecHdr × List Byte) :=
  [(⟨0x81, 0, 0, 12⟩, windrowBytes [(2, 0#32)]), (⟨0x82, 0, 0, 160⟩, List.replicate 160 0), (⟨0x83, 0, 0, 4⟩, leBytes 4 0),
    (⟨0x83, 0, 0, 8⟩, leBytes 8 0), (⟨0x84, 0, 0, 4⟩, leBytes 4 2), (⟨0x85, 0, 0, 8⟩, leBytes 8 3), (⟨0x87, 0, 0, 3⟩, leBytes 2 15 ++ leBytes 1 0),
    (⟨0x87, 0, 0, 3⟩, leBytes 2 15 ++ leBytes 1 1)]

/-- Slot 0 and pass 0 name an output that child 0 owes, with what has come of it. -/
def owedOk (a : State) (due : Nat) (w : Option (List Entry)) : Bool :=
  match owedAt a 0 0 0 with
  | some (x, i, p, q, sl) =>
    decide ((partOf (sl.nodeAt 0) 0).wind = w) && q.phase == .running && !q.score && sl.watch.isEmpty && owes sl 0 == due &&
      decide ((x.seq, i, p) = (3, 0, 0))
  | none => false

/-- The sheet that a REJECT of slot 0 names, and what PROGRESS renews. -/
def sheetOk (a : State) : Bool :=
  (match a.pipe.flight.findSome? fun x => (x.slotOf 0).bind fun q => if 0 < owes q.2.2.2 0 then some (x, q.1, q.2.1) else none with
    | some (x, i, p) => x.parentLink.isNone && decide ((x.seq, i, p) = (3, 0, 0))
    | none => false) && decide ((a.pipe.flight.map fun x => (outerSeq x, x.upAt)) = [(3, [(0, 0)])])

theorem owed_ready (due : Nat) (w : Option (List Entry)) (h : ∀ q ∈ fromBelow, q.2.length ≤ 480 ∧ inTurn 3 0x11 2 (recOf 2 q.1 q.2) (owed due w) = true ∧
      3 < 8 ∧ (owed due w).reach.links.length = 8 ∧ listens (owed due w) 3 false = true ∧
      recordWhole ((linkAt (arrives 3 2 (recOf 2 q.1 q.2) (owed due w)) 3).stream.getD 2 []) q.1 (some q.2) = true)
    (ho : ∀ q ∈ fromBelow, let a := took (owed due w) 3 2 q.1 q.2
      childOn a 3 = some 0 ∧ (a.pipe.flight.map (·.seq)).Nodup ∧ owedOk a due w = true ∧ sheetOk a = true) :
    ∀ q ∈ fromBelow, let a := taken (owed due w) 3 2 (recOf 2 q.1 q.2) q.1
    (∀ content ∈ [some q.2, none], recordReady (owed due w) 3 2 q.1.kind q.1.len (recOf 2 q.1 q.2) q.1 content) ∧ childOn a 3 = some 0 ∧
      (a.pipe.flight.map (·.seq)).Nodup ∧ owedOk a due w = true ∧ sheetOk a = true := by
  intro q hq
  obtain ⟨h1, h2⟩ := recs_ready _ 3 2 fromBelow h q hq
  exact ⟨h1, by rw [h2]; exact ho q hq⟩

theorem witness_ChildRecords : ∀ due ∈ [1, 2], ∀ w ∈ [none, some []], ∀ q ∈ fromBelow, let a := taken (owed due w) 3 2 (recOf 2 q.1 q.2) q.1
    (∀ content ∈ [some q.2, none], recordReady (owed due w) 3 2 q.1.kind q.1.len (recOf 2 q.1 q.2) q.1 content) ∧ childOn a 3 = some 0 ∧
      (a.pipe.flight.map (·.seq)).Nodup ∧ owedOk a due w = true ∧ sheetOk a = true := by
  intro due hd w hw
  obtain rfl | rfl : due = 1 ∨ due = 2 := by simpa using hd
  all_goals
    obtain rfl | rfl : w = none ∨ w = some [] := by simpa using hw
    all_goals exact owed_ready _ _ (by decide +kernel) (by decide +kernel)

theorem witness_ChildRecords_done : ∀ written : Bool, ∀ q ∈ fromBelow.drop 6, let a := taken (awaited written) 3 2 (recOf 2 q.1 q.2) q.1
    (∀ content ∈ [some q.2, none], recordReady (awaited written) 3 2 q.1.kind q.1.len (recOf 2 q.1 q.2) q.1 content) ∧ childOn a 3 = some 0 ∧
      (a.pipe.flight.map (·.seq)).Nodup ∧ (a.adapters.loads.map fun x => (x.ver, x.written)) = [(some 15, written)] := by
  intro written q hq
  obtain ⟨h1, h2⟩ := recs_ready (awaited written) 3 2 (fromBelow.drop 6) (by cases written <;> decide +kernel) q hq
  refine ⟨h1, ?_⟩
  rw [h2]
  clear h1 h2
  cases written <;> (revert q; decide +kernel)

/-- A member that runs a parent's sheet whose row 0 is as given. -/
def belowParent (r : Row) : State :=
  { member false with pipe := (flying [{ sheet (innerSeq 3) 5 [r] with parentLink := some 0 }]).pipe }

theorem witness_RakeMergeEmits_up :
    ∀ score : Bool, let o := { childOut with reports := [(5, f32One)] }
      let row := rowIn (if score then 4 else 1) 511 .running
        { slotStart [] with nodes := [(0, ⟨(7, o) :: (List.range 7).map fun k => (k, childNone), [], [], [], false, false⟩)] }
      let s := belowParent row
      parentLink s = some 0 ∧ s.power.logicOn = true ∧ s.image.cfg.isSome = true ∧ (s.pipe.flight.map (·.seq)).Nodup ∧ nodeParent (fanout s) 0 = none ∧
        (match mergeSheet s (innerSeq 3), located s (innerSeq 3) 0 with
         | some x, some (y, i, p, r, sl) => decide (x = y) && x.parentLink.isSome && decide (i = 0 ∧ p = 0) && r.phase == .running && !(sl.nodeAt 0).sent &&
             kidsIn s sl 0 && risesNow x i r sl 0 && (r.score == score) && sl.ctl.first &&
             !(mergeKids (sheetSfu s x).exp2 sl.ctl (looseOn s) false (childCount (fanout s) (remoteCount s) 0) (sl.nodeAt 0)).out.reports.isEmpty
         | _, _ => false) = true := by
  decide +kernel

theorem witness_UncutRaceDecides_below :
    ((flightSheet (belowParent (rowIn 1 511 .running (slotStart []))) (innerSeq 3)).map fun x => x.parentLink.isSome) = some true := by decide +kernel

/-- A member's GRAD row in its backward pass, of which position 0 alone has still to send chunk 0, or no position has sent it. -/
def backwardBelow (last : Bool) : State :=
  let kids (n : Nat) : GradNode := ⟨0, n, (List.range 7).map fun k => (k + 1, List.replicate 128 f32Zero)⟩
  belowParent { rowIn 4 511 .backward { slotStart [] with grads := if last then [kids (leafParent [8, 8] 0).1, kids 0] else [] } with bufRow := some 0 }

theorem witness_GradientChunkSent_up :
    ∀ last : Bool, let s := backwardBelow last
      parentLink s = some 0 ∧ leafWorks s 0 = true ∧ (s.pipe.flight.map (·.seq)).Nodup ∧
        (match s.image.cfg, mergeSheet s (innerSeq 3), located s (innerSeq 3) 0 with
         | some c, some x, some (y, i, p, r, sl) => decide (x = y) && x.parentLink.isSome && decide (i = 0 ∧ p = 0) && r.phase == .backward &&
             takesTurn c s x r p 0 sl && groupsIn c x (workAt c r p 0 sl) 0 && decide (0 < c.hchunks ∧ chunksSent sl 0 = 0) &&
             ((raiseGrad (fanout s) (remoteCount s) (looseOn s) 0 (fanout s).length (leafParent (fanout s) 0).1 (leafParent (fanout s) 0).2
               (leafDy s c x r sl 0 0 (coefsAt s c x r sl 0 0)) { sl with gradSent := sl.gradSent ++ [(0, 0)] }).2.1.isSome == last)
         | _, _, _ => false) = true := by
  decide +kernel

/-! ### Engines between a parent and a child -/

/-- The root with a flip in a state at a tide: every position sealed at `sld`, the child of this slot. -/
def rootFlip (k : ChildSt) (ph : FlipPhase) (sld tide : Nat) (arr : Nat) : State :=
  let s := root k
  let f := flipAt ph sld tide
  { s with tide := { s.tide with count := BitVec.ofNat 64 tide }, weights := f.weights, image := { s.image with cfg := some { rootCfg with arr := arr } } }

/-- The child with its last SEALED. -/
def childAt (sld : Option Nat) : ChildSt := { child with sealed := sld.map (BitVec.ofNat 32) }

theorem witness_SealArmDisarm_root :
    (∀ bs ∈ [sealPacket 1, sealPacket 0, armPacket 1, armPacket 0, disarmPacket],
      canArrive 1 bs (root child) = true ∧ patchAckCode false false rootCfg.b bs = 0) ∧
    ((root child).image.phase = 0 ∧ sourceGroup (root child) = none ∧ (root child).image.cfg = some rootCfg ∧ (root child).fabric.halted = false ∧
      rootCfg.role ≠ 2 ∧ (root child).weights.flip = .idle ∧ (root child).weights.arm = none) ∧
    (∀ ph ∈ [FlipPhase.idle, .held], let s := rootFlip child ph 0 0 0
      (0 : Nat) < s.reach.dom.children.length ∧ childIn s 0 = true ∧ linkOpen s (childSt s 0).link = true ∧ canArrive 1 disarmPacket s = true) := by
  decide +kernel

/-- The member, every position but 63 sealed at step 5, which a SEAL waits for. -/
def memberSealing : State :=
  let s := member false
  { s with weights := { s.weights with posSealed := (List.range 63).map fun k => (k, 5), seals := [theSeal] } }

theorem witness_SealTakesEffect_member :
    let s := memberSealing; let c := { cfg with role := 2, parent := 7 }
    s.power.logicOn = true ∧ s.image.cfg = some c ∧ 63 < s.part.leaves ∧ maySeal s c theSeal 63 = true ∧ s.weights.seals = [theSeal] ∧
      s.weights.flip ≠ .window ∧ s.weights.wSealed ≠ theSeal.block.stp ∧ s.fabric.unplaced = [] ∧ s.fabric.halted = false ∧
      parentLink s = some 0 ∧ s.reach.dom.ownReported ≠ theSeal.block.stp ∧ (0 : Nat) < s.part.leaves := by decide +kernel

theorem witness_FlipDecidesOrHolds_domain :
    (∀ q ∈ [(childAt (some 4), 4#32), (childAt none, 0xFFFFFFFF#32), ({ childAt (some 5) with phase := .lost }, 0xFFFFFFFF#32)],
      let s := rootFlip q.1 .armed 5 100 0
      admittedMember s = false ∧ s.weights.flipTide.toNat ≤ s.tide.count.toNat ∧ (∀ l < s.part.leaves, agrees s s.weights.flipTarget l = true) ∧
        (0 : Nat) < s.reach.dom.children.length ∧ ¬(childIn s 0 = true ∧ (childSt s 0).sealed = some s.weights.flipTarget) ∧
        (if childIn s 0 then ((childSt s 0).sealed).getD 0xFFFFFFFF#32 else 0xFFFFFFFF#32) = q.2) ∧
    (let s := rootFlip (childAt (some 5)) .armed 5 100 0; admittedMember s = false ∧ s.reach.dom.children.length = 1 ∧
      childIn s 0 = true ∧ (childSt s 0).sealed = some s.weights.flipTarget) ∧
    (let s := memberFlip .armed; admittedMember { s with weights := { s.weights with arm := some theArm } } = true) := by decide +kernel

theorem witness_SingleBankWindow_domain :
    (∀ sld ∈ [none, some 4], let s := rootFlip (childAt sld) .armed 5 100 1
      (0 : Nat) < s.reach.dom.children.length ∧ (childSt s 0).sealed ≠ some theArm.block.stp ∧ s.weights.flipTide.toNat ≤ s.tide.count.toNat) ∧
    (let s := rootFlip (childAt (some 4)) .window 5 105 1; let a := accepted s 3 0 domFlit
      flitIn s 3 6 0 false domFlit ∧ a.image.cfg = some { rootCfg with arr := 1 } ∧ rootCfg.role ≠ 2 ∧ a.weights.arm = some theArm ∧
        a.weights.flip = .window ∧ childHeard a 3 = some 0 ∧ (childSt a 0).joining = none ∧
        (∀ i < a.part.leaves, posStep a i = theArm.block.stp ∧ isUnplaced a i = false) ∧
        (∀ j < a.reach.dom.children.length, childIn a j = true ∧ (j ≠ 0 → (childSt a j).sealed = some theArm.block.stp)) ∧
        linkOpen a (childSt a 0).link = true) :=
  ⟨by decide +kernel, flit_in _ _ _ _ _ _ _ (by decide) (by decide +kernel), by decide +kernel⟩

theorem witness_FaultFencesUnit_ports :
    waitStands rootBusy (.child 0) = true ∧ waitStands (root child) (.child 0) = false ∧
    (let s := linked .up 0
     waitStands { s with reach := { s.reach with links := s.reach.links.set 3 { linkAt s 3 with queue := [.admission] } } } (.link 3) = true ∧
      waitStands s (.link 3) = false) ∧
    waitStands (reading [readFrom .mask 64] .reading 0) (.load .mask) = true ∧ waitStands up (.load .mask) = false ∧
    waitStands up .egress = false ∧
    waitStands { up with ports := { up.ports with out := [⟨0, 9, 0, 0, 0, .patchAck (patchBlock disarmPacket)⟩] } } .egress = true := by decide +kernel

/-- A relayed or own version 15 of rank 1 that child 0 has not answered yet. -/
def relayed (s : State) (await : List Nat) : State :=
  { s with adapters := { s.adapters with relays := [⟨15, 3, 1, List.replicate 64 1, await⟩] } }

theorem witness_DomainMessages_shares :
    let s := relayed (joinFrom 5 5) [0]
    s.image.cfg = some rootCfg ∧ (⟨15, 3, 1, List.replicate 64 1, [0]⟩ : Relay) ∈ s.adapters.relays ∧ (shareParts s rootCfg 1).map (·.1) = [0] ∧
      domBoundary s = true ∧ changeWaits s = true ∧ (childSt s 0).joinsNext = true ∧ linkOpen s (childSt s 0).link = true ∧
      (linkAt s (childSt s 0).link).queue = [] := by decide +kernel

/-- A member with a child of its own at the end of link 3. -/
def between (ph : FlipPhase) : State :=
  let s := memberFlip ph
  { s with
    image := { s.image with cfg := some { rootCfg with role := 2, parent := 7 } }
    reach := { s.reach with dom := { s.reach.dom with children := [child] } } }

theorem witness_DomainMessages_passed :
    ∀ ph ∈ [FlipPhase.armed, .window], let s := between ph; let a := accepted s 0 0 domFlit
      flitIn s 0 6 0 false domFlit ∧ parentLink a = some 0 ∧ a.reach.dom.admitted = true ∧ a.weights.flip = ph ∧ a.reach.dom.children.length = 1 ∧
        childIn a 0 = true ∧ linkOpen a (childSt a 0).link = true := by
  intro ph hp
  obtain rfl | rfl : ph = .armed ∨ ph = .window := by simpa using hp
  all_goals exact ⟨flit_in _ _ _ _ _ _ _ (by decide) (by decide +kernel), by decide +kernel⟩

/-- A member that runs a parent's sheet, with or without a child of its own that has it, with these positions unplaced. -/
def serving (kids : Bool) (ups : List (Nat × Nat)) (lost : List Nat) : State :=
  let s := if kids then between .idle else member false
  { s with
    pipe := (flying [{ memberSheet (member false) 0 3 0 1 1 with upAt := ups }]).pipe
    reach := { s.reach with dom := { s.reach.dom with cur := innerSeq 3 } }
    fabric := { s.fabric with unplaced := lost } }

/-- ROW_CTL, and an ADAPTER of version 15. -/
def rowAndAdapter : List (RecHdr × List Byte) :=
  [(⟨2, 0, 1, 64⟩, List.replicate 64 0), (⟨9, 0, 0, 328⟩, adapterRecBytes 15 3 1 (List.replicate 320 0))]

theorem witness_ParentRecords_lost :
    ∀ w ∈ [(serving false [] [], false), (serving false [] [5], true), (serving true [(0, 0)] [], false), (serving true [] [], true)],
      ∀ q ∈ rowAndAdapter, let a := taken w.1 0 1 (recOf 1 q.1 q.2) q.1
        (∀ content ∈ [some q.2, none], recordReady w.1 0 1 q.1.kind q.1.len (recOf 1 q.1 q.2) q.1 content) ∧
          fromParent a 0 = true ∧ (a.pipe.flight.map (·.seq)).Nodup ∧
          ((flightSheet a (innerSeq control.tag)).map fun x =>
            anyUnplaced a || decide (((x.upAt.map Prod.fst).filter (childIn a)).length ≠ remoteCount a)) = some w.2 ∧
          a.adapters.records = [] ∧ (15 : Nat) < a.adapters.table.length ∧ (adEntry a 15).phase = .free ∧ slotsWritable a = true ∧
          changeWaits a = false := by
  intro w hw q hq
  obtain ⟨h1, h2⟩ := recs_ready w.1 0 1 rowAndAdapter (by revert w; decide +kernel) q hq
  refine ⟨h1, ?_⟩
  rw [h2]
  clear h1 h2
  revert q w
  decide +kernel

theorem witness_ParentRecords_relay :
    let c := { rootCfg with role := 2, parent := 7 }; let s := serving true [(0, 0)] []
    s.image.cfg = some c ∧ s.reach.dom.children ≠ [] ∧ (freeRun s (slotsNeeded c s.part.leaves 1)).isSome = true ∧
      sourceOk c s.part.leaves 1 (List.replicate 320 0) = true := by decide +kernel

theorem witness_ChildRecords_order :
    (let s := owed 1 (some []); (owedAt s 0 0 0).map fun q => (q.2.2.2.2.nodeAt 0).statsOrder) = some [] := by decide +kernel

theorem witness_ChildRecords_relay : ∀ await ∈ [[0], [0, 1]], ∀ q ∈ fromBelow.drop 6, let s := relayed (between .idle) await
    let a := taken s 3 2 (recOf 2 q.1 q.2) q.1
    (∀ content ∈ [some q.2, none], recordReady s 3 2 q.1.kind q.1.len (recOf 2 q.1 q.2) q.1 content) ∧ childOn a 3 = some 0 ∧
      (a.pipe.flight.map (·.seq)).Nodup ∧ (a.adapters.relays.map fun y => (y.ver, y.await)) = [(15, await)] ∧ parentLink a = some 0 := by
  intro await ha q hq
  obtain ⟨h1, h2⟩ := recs_ready (relayed (between .idle) await) 3 2 (fromBelow.drop 6) (by revert await; decide +kernel) q hq
  refine ⟨h1, ?_⟩
  rw [h2]
  clear h1 h2
  revert q await
  decide +kernel

/-! ### Invariants -/

/-- Target 2 about to claim source 5 over source 9, which it holds. -/
def evClaiming : State := { evOffer with pending := [.evClaim 2] }

theorem witness_StepKeepsInvariant : Inv evClaiming ∧ ∃ u, step evClaiming = .next u := by
  refine ⟨⟨⟨by decide +kernel, by decide +kernel, by decide +kernel, by decide +kernel, by decide +kernel, ?_, by decide +kernel,
    by decide +kernel, fun k => ?_⟩, show spWf 0 _ = true by decide +kernel⟩, _, rfl⟩
  · intro x hx
    rcases (show ∀ x ∈ evOffer.events.targets, x.stack = [] ∨ x.stack = [(9, 1)] by decide +kernel) x hx with h | h <;> simp [h]
  · rw [show stacked evClaiming.events = [9] by decide +kernel, show evClaiming.events.active = 512#256 by decide +kernel, List.mem_singleton]
    refine ⟨fun h => ?_, by rintro rfl; decide⟩
    by_cases hk : k < 256
    · exact (show ∀ k : Fin 256, (512#256).getLsbD k.1 = true → k.1 = 9 by decide +kernel) ⟨k, hk⟩ h
    · rw [BitVec.getLsbD_of_ge _ _ (Nat.le_of_not_lt hk)] at h
      exact absurd h (by decide)

theorem witness_InvariantAtResetAndDepth : EventsOk evClaiming.events ∧ evTarget evOffer.events 2 ∈ evClaiming.events.targets :=
  ⟨witness_StepKeepsInvariant.1.1, by decide +kernel⟩

theorem witness_FloorNeverFalls : ∃ u, step { on with pending := [.mgImgFloor 7#32] } = .next u ∧ u.power.imgFloor = 7#32 :=
  ⟨_, rfl, by decide +kernel⟩

/-! ### Ill-formed commands, one a check -/

/-- A packet of 128 bytes with a TYPE, a byte at offset 64 and one at offset 66. -/
def pkt (ty b64 b66 : Byte) : List Byte := ty :: List.replicate 63 0 ++ [b64, 0, b66] ++ List.replicate 61 0

theorem test_packets_wellFormed :
    ([.step 0 (pkt 1 0 0), .unknownType 0 (pkt 9 0 0), .ctxOpen 0 (pkt 2 0 1), .ctxSet 0 (pkt 2 0 2), .ctxRead 0 (pkt 2 0 3),
      .ctxImport 0 (pkt 2 0 4), .ctxCancel 0 (pkt 2 0 5), .rows 0 (pkt 6 1 0), .seal 0 (pkt 6 2 0), .arm 0 (pkt 6 3 0),
      .disarm 0 (pkt 6 4 0), .adapterLoad 0 (pkt 6 5 0), .adapterRetire 0 (pkt 6 6 0)] : List Instr).all Instr.wellFormed = true ∧
    ([.step 0 (pkt 2 0 0), .step 0 [1], .unknownType 0 (pkt 1 0 0), .unknownType 0 (pkt 2 0 0), .unknownType 0 (pkt 6 0 0), .ctxOpen 0 (pkt 2 0 2),
      .ctxOpen 0 (pkt 6 0 1), .ctxSet 0 (pkt 2 0 1), .ctxRead 0 (pkt 2 0 1), .ctxImport 0 (pkt 2 0 1), .ctxCancel 0 (pkt 2 0 1),
      .ctxCancel 0 ((pkt 2 0 5).take 127), .rows 0 (pkt 6 2 0), .rows 0 (pkt 2 1 0), .seal 0 (pkt 6 1 0), .arm 0 (pkt 6 1 0), .disarm 0 (pkt 6 1 0),
      .adapterLoad 0 (pkt 6 1 0), .adapterRetire 0 (pkt 6 1 0)] : List Instr).any Instr.wellFormed = false := by decide +kernel

theorem test_numbers_refused :
    ([.scoreBatch 0 1024 0, .scoreBatch 0 0 256, .rakeMerge 0 1024 0, .rakeMerge 0 0 256, .headPassEnd 0 256,
      .readResponse (.overflow 1024 0) [] false, .readResponse (.windowPatch 0 128) [] false, .readTimeout (.windowReplay 1024 0),
      .overflowTimeout 1024 0, .overflowTimeout 0 128, .patchRowRetire 1024, .sealEffect 1024, .replayDone 1024, .rebuildDone 64,
      .shadowRebuildDone 64, .returnCopyDone 64, .leafMoveBack 64, .parityDone 64, .fault (.pan 1088) ⟨.residue 0, []⟩, .probeTimeout (.cell 1088),
      .watchdogExpiry .head ⟨0, 0, none⟩ (.pan 1088), .scrubRead 1088 [], .ctxEpochLoRead 512, .evClaim 8, .evComplete 8 0, .evPendingSet 8 0,
      .evPendingClr 8 0, .evMaskSet 8 0, .evMaskClr 8 0, .evModerationEnd 8, .sleepChange 8 true, .extInputChange 32 true, .extPulseAccept 32,
      .extHoldoffEnd 32, .extStuck 32, .phyReadyRise 8, .phyReadyFall 8, .linkStateTimeout 8, .linkTimeout 8, .hailResend 8, .hailCheck 8,
      .linkEn 8 0, .stepTimeout 14, .routeAge 65536, .registerWrite true 0 0 0, .gradientPacket 0 1024 0 0, .gradientPacket 0 0 256 0,
      .gradientPacket 0 0 0 128] : List Instr).any Instr.wellFormed = false := by decide +kernel

theorem test_register_bits_refused :
    ([.maskLoad 0, .fnLoad 0, .imgLoad 0, .stProbe 0, .gateLatch 0, .gateRelease 0x80000000#32, .rearm false 0, .freeze true 0, .flush 0 0,
      .mgReset 0, .detach 0 0, .retrain 0 0, .detach 8 4#32, .retrain 8 2#32, .flush 8 0x40000000#32] : List Instr).any Instr.wellFormed = false ∧
    ([.maskLoad 0x80000000#32, .gateRelease 0, .freeze true 0x40000000#32, .flush 7 0x40000000#32, .detach 7 4#32, .retrain 7 2#32] :
      List Instr).all Instr.wellFormed = true := by decide +kernel

theorem test_findings_refused :
    ([.imageApplied [(.pan 0, 0)], .imageApplied [(.pan 0, 8)], .imageApplied [(.cell 1088, 1)], .bootStepEnd ⟨0, [], true⟩, .bootStepEnd ⟨8, [], true⟩,
      .bootStepEnd ⟨4, [(.pan 0, 8)], true⟩, .probeEnd (.pan 0) ⟨some 8, 0, none⟩, .probeEnd (.pan 0) ⟨some 0, 0, none⟩,
      .fault (.pan 0) ⟨.brineWord 5120, []⟩, .fault (.pan 0) ⟨.brineCorrected 5119 16, []⟩, .fault (.pan 0) ⟨.residue 64, []⟩, .fault (.pan 0) ⟨.dualRail 64, []⟩,
      .fault (.pan 0) ⟨.residue 0, [(.cell 1088, .residue 0)]⟩, .fault (.pan 0) ⟨.residue 0, [(.cell 0, .residue 64)]⟩,
      .scrubRead 0 [.corrected 16], .scrubRead 0 [.uncorrectable 16],
      .fault (.pan 0) ⟨.timeout ⟨0, 0, none⟩ (.pan 1088), []⟩, .fault (.pan 0) ⟨.scrub [.corrected 16], []⟩] : List Instr).any Instr.wellFormed = false := by decide +kernel

/-- A record header of a KIND and a length. -/
def rec (kind len : Nat) : RecHdr := ⟨kind, 0, 0, len⟩

/-- A flit whose fields fit but for one. -/
def blank : FlitHdr := ⟨6, 0, 0, 0, false, false, 0, 0, List.replicate 244 0, 0, [], false⟩

theorem test_flits_refused :
    flitOk blank = true ∧
    ([.idle 8 blank, .idle 0 { blank with vc := 4 }, .idle 0 { blank with type := 256 }, .idle 0 { blank with seq := 4096 }, .idle 0 { blank with ack := 4096 },
      .idle 0 { blank with credit := 1024 }, .idle 0 { blank with cvc := 4 }, .idle 0 { blank with payload := List.replicate 243 0 },
      .hail 0 blank (List.replicate 243 0), .goodbye 0 blank 65536,
      .route 0 blank (List.replicate 61 (0, 0)), .route 0 blank [(65536, 0)], .route 0 blank [(0, 256)], .tideReq 0 blank (2 ^ 64) 0,
      .tideRsp 0 blank (2 ^ 64) 0 0 0, .tideRsp 0 blank 0 (2 ^ 64) 0 0, .tideRsp 0 blank 0 0 (2 ^ 64) 0,
      .join 0 blank 65536 (List.replicate 16 0) 0 0, .join 0 blank 0 (List.replicate 15 0) 0 0, .refuse 0 blank 256, .lost 0 blank 65536,
      .admitChild 8 blank, .sealed 8 blank 0, .domainArm 8 blank 0 0, .domainDisarm 8 blank 0 0, .fire 8 blank 0, .depart 8 blank,
      .mcast 0 blank 16 [], .mcast 0 blank 0 (List.replicate 243 0), .mcastReport 0 blank 16 0, .laneLock 8 [], .laneLock 0 [⟨[(0, 16, 0)], 0⟩],
      .laneLock 0 [⟨[(0, 0, 65536)], 0⟩]] : List Instr).any Instr.wellFormed = false := by decide +kernel

theorem test_records_refused :
    ([.sheetOpen 0 [blank] (rec 2 24) 0 0 0 0 0, .sheetOpen 0 [blank] (rec 1 24) (2 ^ 64) 0 0 0 0, .sheetOpen 0 [{ blank with vc := 4 }] (rec 1 24) 0 0 0 0 0,
      .brine 0 [blank] (rec 3 264) [], .grader 0 [blank] (rec 4 12) [], .mask 0 [blank] (rec 5 2) 65536, .watch 0 [blank] (rec 6 4) [],
      .abort 0 [blank] (rec 7 8) 0, .adapter 0 [blank] (rec 9 8) 65536 0 0 [], .adapter 0 [blank] (rec 9 7) 0 0 0 [],
      .adapter 0 [blank] (rec 9 8) 0 0 256 [], .adapterFree 0 [blank] (rec 10 2) 65536, .windrow 0 [blank] (rec 0x81 (2 ^ 32)) [],
      .stats 0 [blank] (rec 0x82 160) [], .vector 0 [blank] (rec 0x82 4) (.value 0), .vector 0 [blank] (rec 0x83 768) (.gradient 0 (List.replicate 127 0)), .reject 0 [blank] (rec 0x84 1) 256,
      .progress 0 [blank] (rec 0x85 8) (2 ^ 64), .placement 0 [blank] (rec 0x86 1) [], .adapterDone 0 [blank] (rec 0x87 3) 0 256,
      .adapterDone 0 [blank] (rec 0x187 3) 0 0, .rowCtl 0 [] (rec 3 64) control, .pass 0 [] (rec 2 64) control] :
      List Instr).any Instr.wellFormed = false := by decide +kernel

/-! ### Values that the spec works out -/

/-- The worked block of 03_arithmetic.md: 4 of its 32 weight codes and brine elements, the rest 0. -/
def workedWeights (i : Nat) : Byte := [0xD3#8, 0x96#8].getD i (if i = 16 then 0x7C#8 else 0)

/-- The brine elements 0.75, 0.3, -0.125 and 2.5. -/
def workedBrine : List F32 := [0x3F400000#32, 0x3E99999A#32, 0xBE000000#32, 0x40200000#32] ++ List.replicate 28 0

/-- 03_arithmetic.md, "one MXFP4 block": both integer forms and s0 = -24,988 * 2^-17, which is 0xBE43_3800. -/
theorem test_worked_block :
    (weightBlock .mxfp4 32 workedWeights 0).ints.take 5 = [3, -6, 8, -1, 0] ∧ (weightBlock .mxfp4 32 workedWeights 0).exp = -4 ∧
    (brineBlock workedBrine).ints.take 5 = [6144, 2458, -1024, 20480, 0] ∧ (brineBlock workedBrine).exp = -13 ∧
    blockValue (weightBlock .mxfp4 32 workedWeights 0) (brineBlock workedBrine) = 0xBE433800#32 := by decide +kernel

/-- 05_grading.md, "one Lagoon token through the lanes": the grader entry and the control word. -/
def workedEntry : GraderEntry := ⟨17, 300, 3, 0x3F000000#32, false, true, true⟩
/-- T = 0.8, rho = 1.25, phi = 0.125, pi = 0.25. -/
def workedParams : GradeParams := ⟨0x3FA00000#32, 0x3FA00000#32, 0x3F4CCCCD#32, 0x3E000000#32, 0x3E800000#32, false, 0, 0⟩

/-- Its values: word 0, the score after stages 1, 2 and 3 (-3.125, -2.625, -3.90625), and u = 11,863,283 * 2^-24. -/
theorem test_worked_lane :
    workedEntry.word0 = 0xC012C011#32 ∧ stageTemp workedParams 0xC0200000#32 = 0xC0480000#32 ∧ stageBias workedEntry 0xC0480000#32 = 0xC0280000#32 ∧
    (gradeScore id workedParams workedEntry true 57600 0 0xC0200000#32).g = 0xC07A0000#32 ∧ uniformOf 0xB504F333 = 0x3F3504F3#32 ∧
    fDiv f32One 0x3F4CCCCD#32 = 0x3FA00000#32 := by decide +kernel

/-- R104: the published vector of Philox-4x32-10 for a zero counter and a zero key begins with 0x6627_E8D5. -/
theorem test_philox_vector : philoxWord 0 0 0 0 = 0x6627E8D5 := by decide +kernel

/-- The published check value of CRC-32C, over the digits 1 to 9. -/
theorem test_crc32c_check : crc32c ((List.range 9).map fun i => BitVec.ofNat 8 (0x31 + i)) = 0xE3069283#32 := by decide +kernel

/-- R254, Table 13.2: bytes 0 to 7 of a flit with every field at a value of its own. -/
theorem test_flit_layout :
    flitHead 0x10 1 0xABC 0x123 true true 0x3FF 2 = [0x10#8, 0x01#8, 0xBC#8, 0x0A#8, 0x23#8, 0xC1#8, 0xFF#8, 0x0B#8] := by decide +kernel

/-- R251: x^10 = x^3 + 1 in the field, the generator has degree 30, and the scrambler x^58 + x^39 + 1 sends a 1 again 39 and 58 bits on. -/
theorem test_line_code :
    gfMul 512 2 = 9 ∧ gfMul 9 1 = 9 ∧ rsGenerator.length = 31 ∧ rsParity [0, 0] = List.replicate 30 0 ∧
    rsParity [1] = rsGenerator.drop 1 ∧
    ((scramble 0 (true :: List.replicate 59 false)).1.zipIdx.filterMap fun q => if q.1 then some q.2 else none) = [0, 39, 58] ∧
    threeLock 3 [(0, 3, 65534), (15, 3, 65535), (0, 3, 0)] = true ∧ threeLock 3 [(0, 3, 1), (16, 3, 2), (0, 3, 3)] = false := by decide +kernel

/-- What a command answers, read by a test. -/
def after (o : Host.Outcome State Fault Refusal) (p : State → Bool) : Bool := match o with | .next u => p u | _ => false

/-- Dambulor-1024 after the first fault, in column 17 of pan 318, and after its bed's rebuild. -/
def residueFault (p : State → Bool) : Bool := after (exec (.fault (.pan 318) ⟨.residue 17, []⟩) { State.resetOf .d1024 with power := on.power }) p

/-- 18_registers.md, Table 18.9: CTL_RESIDUE_COUNT reads 1, CTL_RESIDUE_LAST 0x813E_0011, CTL_FLT_STATUS 0x4008_0000 and PAN_FLT[318]
0x5000_0000. -/
theorem test_residue_fault_reads :
    residueFault (fun u => chipValue u 0x190 == 1#32 && chipValue u 0x194 == 0x813E0011#32 && chipValue u 0x900 == 0x40080000#32 &&
      chipValue u 0x844F8 == 0x50000000#32) = true := by decide +kernel

/-- Tables 14.4 and 18.9: once the bed's contents stand on the spare, PAN_BED_STATUS[18] reads 0x02C8_1000, and PAN_MAP[300] has SUBST 1 and
names pan 322 (0x142); no image gives it rows here. -/
theorem test_takeover_reads :
    residueFault (fun u => after (exec (.rebuildDone 18) u) fun v =>
      chipValue v 0x80048 == 0x02C81000#32 && chipValue v 0x814B0 == 0x40000142#32) = true := by decide +kernel

/-- R306: the claim of target 2 returns the offered source and pushes it with its PRIO over the one it held. -/
theorem test_claim :
    after (step evClaiming) (fun u => u.resp == some ⟨false, 5#32, false⟩ && (evTarget u.events 2).stack == [(5, 3), (9, 1)] && u.pending == []) =
      true := by decide +kernel

/-- R11 and R306: a second claim of the same offer returns 0 and changes nothing. -/
theorem test_second_claim :
    after (step evClaiming) (fun u => after (exec (.evClaim 2) u) fun v => v.resp == some ⟨false, 0#32, false⟩ && v.events == u.events) = true := by
  decide +kernel

end Sys2Proof.Tests
end

/-!
PROOF. Windrows (R29, R111, R112). Dropping what falls off a windrow at each insertion leaves the same as one cut at the end, so a windrow
is the first kw entries of the list that holds everything offered in rank order; and that list depends on the set of entries alone, since
the order of R29 decides between any two entries of different tokens.
-/

namespace Sys2Proof.Laws

open Sys2Proof.Machine

/-! ### The order of R29 -/

/-- The place of an entry in the order of R29: keys descending, then tokens ascending. -/
def rankPlace (e : Entry) : ℤ ×ₗ ℕ := toLex (-f32Ord e.key, e.tok)

theorem ranksBefore_iff (a b : Entry) :
    ranksBefore a b = true ↔ fIsNan a.key = false ∧ fIsNan b.key = false ∧ rankPlace a < rankPlace b := by
  simp only [ranksBefore, fLt, fEq, rankPlace, Prod.Lex.toLex_lt_toLex, neg_lt_neg_iff, neg_inj, Bool.or_eq_true, Bool.and_eq_true,
    Bool.not_eq_true', decide_eq_true_eq, eq_comm (a := f32Ord b.key)]
  tauto

theorem ranksBefore_trans {a b c : Entry} (hab : ranksBefore a b = true) (hbc : ranksBefore b c = true) : ranksBefore a c = true := by
  obtain ⟨ha, -, hab⟩ := (ranksBefore_iff a b).1 hab
  obtain ⟨-, hc, hbc⟩ := (ranksBefore_iff b c).1 hbc
  exact (ranksBefore_iff a c).2 ⟨ha, hc, hab.trans hbc⟩

theorem ranksBefore_asymm {a b : Entry} (hab : ranksBefore a b = true) : ¬ranksBefore b a = true := fun hba =>
  lt_asymm ((ranksBefore_iff a b).1 hab).2.2 ((ranksBefore_iff b a).1 hba).2.2

/-- The order of R29 decides between two entries. -/
def Decided (a b : Entry) : Prop := ranksBefore a b = true ∨ ranksBefore b a = true

theorem decided_of_tok_ne {a b : Entry} (ha : fIsNan a.key = false) (hb : fIsNan b.key = false) (h : a.tok ≠ b.tok) : Decided a b := by
  have hne : rankPlace a ≠ rankPlace b := fun he => h (congrArg (fun p => (ofLex p).2) he)
  exact hne.lt_or_gt.imp (fun hlt => (ranksBefore_iff a b).2 ⟨ha, hb, hlt⟩) fun hgt => (ranksBefore_iff b a).2 ⟨hb, ha, hgt⟩

/-- Entries of different tokens whose keys are numbers are decided pair by pair. -/
theorem pairwise_decided {es : List Entry} (htok : (es.map (·.tok)).Nodup) (hkey : ∀ e ∈ es, fIsNan e.key = false) :
    es.Pairwise Decided :=
  (List.pairwise_map.1 htok).imp_of_mem fun ha hb hne => decided_of_tok_ne (hkey _ ha) (hkey _ hb) hne

/-! ### Placing entries in rank order -/

theorem placeEntry_eq_orderedInsert (e : Entry) (w : List Entry) :
    placeEntry e w = w.orderedInsert (fun a b => ranksBefore a b = true) e := by
  induction w with
  | nil => rfl
  | cons x xs ih => rw [placeEntry, List.orderedInsert_cons, ih]

theorem placeEntry_perm (e : Entry) (w : List Entry) : (placeEntry e w).Perm (e :: w) :=
  placeEntry_eq_orderedInsert e w ▸ List.perm_orderedInsert _ e w

theorem mem_placeEntry {a e : Entry} {w : List Entry} : a ∈ placeEntry e w ↔ a = e ∨ a ∈ w :=
  (placeEntry_perm e w).mem_iff.trans List.mem_cons

theorem placeEntry_ranked {e : Entry} {w : List Entry} (hw : w.Pairwise fun a b => ranksBefore a b = true)
    (he : ∀ x ∈ w, Decided e x) : (placeEntry e w).Pairwise fun a b => ranksBefore a b = true := by
  induction w with
  | nil => exact List.pairwise_singleton ..
  | cons x xs ih =>
    obtain ⟨hx, hxs⟩ := List.pairwise_cons.1 hw
    obtain ⟨hex, hexs⟩ := List.forall_mem_cons.1 he
    rw [placeEntry]
    split
    next hbefore => exact hw.cons (List.forall_mem_cons.2 ⟨hbefore, fun y hy => ranksBefore_trans hbefore (hx y hy)⟩)
    next hnot =>
      refine (ih hxs hexs).cons fun y hy => ?_
      rcases mem_placeEntry.1 hy with rfl | hy
      · exact hex.resolve_left hnot
      · exact hx y hy

/-- What a list loses beyond its first `n` entries, the first `n` do not miss after a further placing. -/
theorem take_placeEntry_take (e : Entry) (n : Nat) (w : List Entry) :
    (placeEntry e (w.take n)).take n = (placeEntry e w).take n := by
  induction w generalizing n with
  | nil => rw [List.take_nil]
  | cons x xs ih =>
    cases n with
    | zero => rfl
    | succ n =>
      rw [List.take_succ_cons, placeEntry, placeEntry]
      split
      · cases n <;> simp [List.take_take]
      · rw [List.take_succ_cons, List.take_succ_cons, ih]

/-! ### Everything offered, in rank order -/

/-- All the entries placed one after another, none dropped. -/
def placeAll (w es : List Entry) : List Entry := es.foldl (fun v e => placeEntry e v) w

/-- A windrow is the first kw of all the entries placed. -/
theorem foldl_insertEntry (kw : Nat) (es w : List Entry) : es.foldl (insertEntry kw) (w.take kw) = (placeAll w es).take kw := by
  induction es generalizing w with
  | nil => rfl
  | cons e es ih =>
    calc es.foldl (insertEntry kw) ((placeEntry e (w.take kw)).take kw)
        = es.foldl (insertEntry kw) ((placeEntry e w).take kw) := by rw [take_placeEntry_take]
      _ = (placeAll (placeEntry e w) es).take kw := ih _

theorem foldl_insertEntry_nil (kw : Nat) (es : List Entry) : es.foldl (insertEntry kw) [] = (placeAll [] es).take kw := by
  simpa using foldl_insertEntry kw es []

theorem placeAll_perm (w es : List Entry) : (placeAll w es).Perm (es ++ w) := by
  induction es generalizing w with
  | nil => exact .refl w
  | cons e es ih => exact (ih _).trans (((placeEntry_perm e w).append_left es).trans List.perm_middle)

theorem placeAll_nil_perm (es : List Entry) : (placeAll [] es).Perm es := by
  simpa using placeAll_perm [] es

theorem placeAll_ranked {w es : List Entry} (hw : w.Pairwise fun a b => ranksBefore a b = true) (hes : es.Pairwise Decided)
    (hew : ∀ e ∈ es, ∀ x ∈ w, Decided e x) : (placeAll w es).Pairwise fun a b => ranksBefore a b = true := by
  induction es generalizing w with
  | nil => exact hw
  | cons e es ih =>
    obtain ⟨he, hes⟩ := List.pairwise_cons.1 hes
    obtain ⟨hew, hesw⟩ := List.forall_mem_cons.1 hew
    refine ih (placeEntry_ranked hw hew) hes fun y hy x hx => ?_
    rcases mem_placeEntry.1 hx with rfl | hx
    · exact (he y hy).symm
    · exact hesw y hy x hx

theorem placeAll_nil_ranked {es : List Entry} (hes : es.Pairwise Decided) :
    (placeAll [] es).Pairwise fun a b => ranksBefore a b = true :=
  placeAll_ranked .nil hes fun _ _ _ hx => absurd hx List.not_mem_nil

/-- The order in which decided entries are placed does not matter: two lists of them in rank order are one. -/
theorem placeAll_nil_eq_of_perm {es fs : List Entry} (h : es.Perm fs) (hes : es.Pairwise Decided) :
    placeAll [] es = placeAll [] fs := by
  have hfs : fs.Pairwise Decided := (h.pairwise_iff fun hd => hd.symm).1 hes
  exact List.Perm.eq_of_pairwise (fun _ _ _ _ hab hba => absurd hba (ranksBefore_asymm hab)) (placeAll_nil_ranked hes)
    (placeAll_nil_ranked hfs) ((placeAll_nil_perm es).trans (h.trans (placeAll_nil_perm fs).symm))

/-! ### Batches of graded scores -/

/-- The sort key of a graded score: r or g. -/
def sortKey (useR : Bool) (x : Graded) : F32 := if useR then x.r else x.g

/-- R111: not masked, and its key at least theta. -/
def isEligible (theta : F32) (useR : Bool) (x : Graded) : Bool := x.kind = .valid && fLe theta (sortKey useR x)

/-- The eligible scores of R111 as entries. -/
def eligibleEntries (theta : F32) (useR : Bool) (gs : List (Nat × Graded)) : List Entry :=
  (gs.filter fun q => isEligible theta useR q.2).map fun q => ⟨q.1, sortKey useR q.2⟩

theorem insertBatch_cons (kw : Nat) (theta : F32) (useR : Bool) (w : List Entry) (q : Nat × Graded) (gs : List (Nat × Graded)) :
    insertBatch kw theta useR w (q :: gs) = if isEligible theta useR q.2 then
      insertBatch kw theta useR (insertEntry kw w ⟨q.1, sortKey useR q.2⟩) gs else insertBatch kw theta useR w gs :=
  rfl

theorem insertBatch_eq_foldl (kw : Nat) (theta : F32) (useR : Bool) (w : List Entry) (gs : List (Nat × Graded)) :
    insertBatch kw theta useR w gs = (eligibleEntries theta useR gs).foldl (insertEntry kw) w := by
  induction gs generalizing w with
  | nil => rfl
  | cons q gs ih =>
    rw [insertBatch_cons, ih, ih]
    unfold eligibleEntries
    rw [List.filter_cons]
    split <;> rfl

/-- Batch after batch folds as one batch of all their scores. -/
theorem foldl_insertBatch (kw : Nat) (theta : F32) (useR : Bool) (xs : List (List (Nat × Graded))) (w : List Entry) :
    xs.foldl (insertBatch kw theta useR) w = (eligibleEntries theta useR xs.flatten).foldl (insertEntry kw) w := by
  induction xs generalizing w with
  | nil => rfl
  | cons gs xs ih =>
    rw [List.foldl_cons, ih, insertBatch_eq_foldl, List.flatten_cons, eligibleEntries, eligibleEntries, eligibleEntries,
      List.filter_append, List.map_append, List.foldl_append]

/-- After the last batch a windrow is the first kw of the eligible scores in rank order. -/
theorem foldl_insertBatch_nil (kw : Nat) (theta : F32) (useR : Bool) (xs : List (List (Nat × Graded))) :
    xs.foldl (insertBatch kw theta useR) [] = (placeAll [] (eligibleEntries theta useR xs.flatten)).take kw := by
  rw [foldl_insertBatch, foldl_insertEntry_nil]

theorem eligibleEntries_decided {theta : F32} {useR : Bool} {gs : List (Nat × Graded)} (htok : (gs.map (·.1)).Nodup)
    (hkey : ∀ q ∈ gs, q.2.kind = .valid → fIsNan (sortKey useR q.2) = false) :
    (eligibleEntries theta useR gs).Pairwise Decided := by
  refine pairwise_decided ?_ fun e he => ?_
  · rw [eligibleEntries, List.map_map]
    exact htok.sublist (List.filter_sublist.map _)
  · obtain ⟨q, hq, rfl⟩ := List.mem_map.1 he
    obtain ⟨hq, hel⟩ := List.mem_filter.1 hq
    exact hkey q hq (of_decide_eq_true (Bool.and_eq_true_iff.1 hel).1)

/-! ### The first entries of all -/

theorem mem_of_mem_take_placeAll {kw : Nat} {es : List Entry} {e : Entry} (he : e ∈ (placeAll [] es).take kw) : e ∈ es :=
  (placeAll_nil_perm es).mem_iff.1 (List.mem_of_mem_take he)

/-- An entry left out ranks after every entry held. -/
theorem ranksBefore_of_not_mem_take {kw : Nat} {es : List Entry} (hes : es.Pairwise Decided) {e x : Entry} (he : e ∈ es)
    (hout : e ∉ (placeAll [] es).take kw) (hx : x ∈ (placeAll [] es).take kw) : ranksBefore x e = true := by
  have hsplit := List.take_append_drop kw (placeAll [] es)
  have hdrop : e ∈ (placeAll [] es).drop kw :=
    (List.mem_append.1 (hsplit.symm ▸ (placeAll_nil_perm es).mem_iff.2 he)).resolve_left hout
  exact (List.pairwise_append.1 (hsplit.symm ▸ placeAll_nil_ranked hes)).2.2 x hx e hdrop

/-- Settles O35: a windrow is the first kw of the eligible scores in rank order, and that order does not depend on the insertions. -/
theorem windrowOrderFree : Obligations.WindrowOrderFree := by
  unfold Obligations.WindrowOrderFree
  refine ⟨fun kw es fs hperm htok hkey => ?_, fun kw theta useR bs cs => ?_, fun _ _ _ _ _ _ _ _ _ _ _ => ⟨rfl, rfl⟩⟩
  · rw [foldl_insertEntry_nil, foldl_insertEntry_nil, placeAll_nil_eq_of_perm hperm (pairwise_decided htok hkey)]
  · intro key eligible wind htok hkey
    have hdec : eligible.Pairwise Decided := eligibleEntries_decided htok hkey
    have hwind : wind bs = (placeAll [] eligible).take kw := foldl_insertBatch_nil kw theta useR bs
    rw [hwind]
    refine ⟨?_, (placeAll_nil_ranked hdec).sublist (List.take_sublist ..), fun e => mem_of_mem_take_placeAll,
      fun e he hout x => ranksBefore_of_not_mem_take hdec he hout, fun hnone => ?_, fun hperm => ?_⟩
    · rw [List.length_take, (placeAll_nil_perm eligible).length_eq]
    · rw [hnone]
      exact List.take_nil
    · have helig : eligible.Perm (eligibleEntries theta useR cs.flatten) := (hperm.filter _).map _
      rw [placeAll_nil_eq_of_perm helig hdec]
      exact foldl_insertBatch_nil kw theta useR cs

end Sys2Proof.Laws

/-!
PROOF. Completions and flushes (R307, R308). A register write of the event controller is its effect followed by the response; what a
completion, a FLUSH and a write of EV_SRC_CFG make of the controller is said once each, and the settling theorem puts them together.
-/

namespace Sys2Proof.Laws

open Sys2Proof.Machine Sys2Proof.Safety

section

variable {s : State} {t : Nat} {v : Word}

/-! ### Fields of a word -/

theorem bitOf_toNat (v : Word) (i : Nat) : bitOf v.toNat i = v.getLsbD i := by
  rw [BitVec.getLsbD, Nat.testBit_eq_decide_div_mod_eq]
  rfl

/-- The low byte of a word; bits [31:8] are reserved (R307). -/
theorem bitsOf_low_byte (n : Nat) : bitsOf n 7 0 = n % 256 := by
  simp [bitsOf]

/-! ### Writes of the chip port while the part is ON -/

theorem exec_evComplete (hon : s.power.logicOn = true) (ht : t < 8) :
    exec (.evComplete t v) s = .next (respond false 0 false (complete t (v.toNat % 256) s)) := by
  rw [← bitsOf_low_byte]
  change execEvComplete t v s = _
  simp only [execEvComplete, forUnit, chipWrite, hon, ht, decide_true, if_true]

theorem exec_flush (hon : s.power.logicOn = true) (ht : t < 8) :
    exec (.flush t v) s = .next (respond false 0 false (writeTgtCtl t v s)) := by
  change execFlush t v s = _
  simp only [execFlush, forUnit, chipWrite, hon, ht, decide_true, if_true]

theorem exec_registerWrite_chip {o : Nat} (hon : s.power.logicOn = true) (hlegal : legalAccess false o 4 = true) :
    exec (.registerWrite false o 4 v) s = .next (respond false 0 false (chipEffect o v s)) := by
  change execRegisterWrite false o 4 v s = _
  simp only [execRegisterWrite, portWrite, chipWrite, hon, hlegal, if_true, Bool.false_eq_true, if_false]

/-- A response after a change of the event controller leaves every other group. -/
theorem onlyChanges_respond_updEvents (mg : Bool) (w : Word) (err : Bool) (f : Events → Events) :
    OnlyChanges [.events, .resp] s (respond mg w err (s.updEvents f)) := by
  refine ⟨rfl, rfl, fun g hg => ?_⟩
  cases g
  case events | resp => simp at hg
  all_goals rfl

/-! ### Targets -/

theorem evTarget_modify_same {e e' : Events} {f : EvTarget → EvTarget} (ht : t < e.targets.length)
    (he : e'.targets = e.targets.modify t f) : evTarget e' t = f (evTarget e t) := by
  rw [evTarget_eq ht, evTarget, he]
  simp [ht]

theorem evTarget_modify_ne {e e' : Events} {f : EvTarget → EvTarget} {k : Nat} (hk : k ≠ t)
    (he : e'.targets = e.targets.modify t f) : evTarget e' k = evTarget e k := by
  simp [evTarget, he, hk.symm]

/-! ### Completions (R307) -/

theorem complete_zero : complete t 0 s = s := rfl

/-- A completion of the source at the top pops it and clears its active bit. -/
theorem complete_top {n p : Nat} {r : List (Nat × Nat)} (hn : n ≠ 0) (htop : (evTarget s.events t).stack = (n, p) :: r) :
    complete t n s = s.updEvents fun e =>
      { e with active := setSrc e.active n false, targets := e.targets.modify t fun x => { x with stack := r } } := by
  simp only [complete, htop, if_neg hn, if_true]
  rfl

/-- A completion of any other source is a stack fault, an occurrence of STACK_FAULT. -/
theorem complete_not_top {n : Nat} (hn : n ≠ 0) (htop : ∀ p r, (evTarget s.events t).stack ≠ (n, p) :: r) :
    complete t n s = s.updEvents fun e =>
      { e with
        pending := setSrc e.pending 65 true
        targets := e.targets.modify t fun x =>
          { x with
            faultValid := true, faultCount := min 0x7F (x.faultCount + 1)
            faultTop := ((evTarget s.events t).stack.map Prod.fst).headD 0, faultWritten := n } } := by
  simp only [complete, if_neg hn]
  cases hstack : (evTarget s.events t).stack with
  | nil => rfl
  | cons q r =>
    have hq : q.1 ≠ n := fun hq => htop q.2 r (hq ▸ hstack)
    simp only [if_neg hq]
    rfl

/-- A source whose active bit is cleared is eligible when it is pending and not masked. -/
theorem eligible_of_cleared {e e' : Events} {n : Nat} (hn : n < 256) (ha : e'.active = setSrc e.active n false) :
    eligible e' n = (e'.pending.getLsbD n && !e'.mask.getLsbD n) := by
  rw [eligible, ha, getLsbD_setSrc, if_pos ⟨rfl, hn⟩, Bool.not_false, Bool.and_true]

/-! ### FLUSH (R308) -/

/-- A write of EV_TGT_CTL apart from its FLUSH: EN and MOD_TIME, and the target's offer falls away where EN is 0. -/
def configureTarget (t : Nat) (v : Word) (s : State) : State :=
  updTarget t (fun x => { x with en := bitOf v.toNat 31, modTime := bitsOf v.toNat 15 0 })
    (if bitOf v.toNat 31 then s else s.updEvents (withdrawOffer t))

theorem writeTgtCtl_flush (hflush : bitOf v.toNat 30 = true) : writeTgtCtl t v s = flushTarget t (configureTarget t v s) :=
  if_pos hflush

theorem configureTarget_events (t : Nat) (v : Word) (s : State) : ∃ w, (configureTarget t v s).events =
    { s.events with
      withdrawn := w
      targets := s.events.targets.modify t fun x => { x with en := bitOf v.toNat 31, modTime := bitsOf v.toNat 15 0 } } := by
  unfold configureTarget
  split
  · exact ⟨_, rfl⟩
  · exact ⟨_, rfl⟩

theorem flushTarget_events (t : Nat) (s : State) : (flushTarget t s).events =
    { s.events with
      active := (evTarget s.events t).stack.foldl (fun a p => setSrc a p.1 false) s.events.active
      targets := s.events.targets.modify t fun x => { x with stack := [] } } := rfl

/-- What a write of EV_TGT_CTL with FLUSH makes of the controller: offers apart, the target's fields, its stack and the active bits of the
sources it held. -/
theorem writeTgtCtl_flush_events (ht : t < s.events.targets.length) (hflush : bitOf v.toNat 30 = true) :
    ∃ w, (writeTgtCtl t v s).events =
      { s.events with
        withdrawn := w
        active := (evTarget s.events t).stack.foldl (fun a p => setSrc a p.1 false) s.events.active
        targets := s.events.targets.modify t fun x =>
          { x with en := bitOf v.toNat 31, modTime := bitsOf v.toNat 15 0, stack := [] } } := by
  obtain ⟨w, hconf⟩ := configureTarget_events t v s
  have hheld : (evTarget (configureTarget t v s).events t).stack = (evTarget s.events t).stack := by
    rw [evTarget_modify_same ht (congrArg Events.targets hconf)]
  refine ⟨w, ?_⟩
  rw [writeTgtCtl_flush hflush, flushTarget_events, hheld, hconf, List.modify_modify_eq]
  rfl

/-! ### Writes of EV_SRC_CFG (R308) -/

theorem entryOf_of_le {o base stride n : Nat} (h : base + stride * n ≤ o) : entryOf o base stride n = none :=
  if_neg fun hc => absurd hc.2.1 (Nat.not_lt.2 h)

theorem onEntry_of_le {o base stride n : Nat} {f : Nat → State → State} {rest : State → State} (h : base + stride * n ≤ o) :
    onEntry o base stride n f rest s = rest s := by
  rw [onEntry, entryOf_of_le h]

theorem onEntry_entry {base stride n i : Nat} {f : Nat → State → State} {rest : State → State} (hs : 0 < stride) (hi : i < n) :
    onEntry (base + stride * i) base stride n f rest s = f i s := by
  have hlt : stride * i < stride * n := Nat.mul_lt_mul_of_pos_left hi hs
  rw [onEntry, entryOf, if_pos ⟨by omega, by omega, by simp⟩, Nat.add_sub_cancel_left, Nat.mul_div_cancel_left i hs]

theorem writeEv_srcCfg {k : Nat} (hk : k < 256) : writeEv (0x10400 + 4 * k) v s = s.updEvents (writeSrcCfg k v) := by
  rw [writeEv, onEntry_of_le (by omega), onEntry_of_le (by omega), onEntry_of_le (by omega), onEntry_of_le (by omega),
    onEntry_of_le (by omega), onEntry_of_le (by omega), onEntry_of_le (by omega), onEntry_entry (by omega) hk]

theorem chipEffect_srcCfg {k : Nat} (hk : k < 256) : chipEffect (0x10400 + 4 * k) v s = s.updEvents (writeSrcCfg k v) := by
  unfold chipEffect
  split
  case h_8 => rw [if_pos (by omega), writeEv_srcCfg hk]
  all_goals omega

theorem legalAccess_srcCfg {k : Nat} (hk : k < 256) : legalAccess false (0x10400 + 4 * k) 4 = true := by
  have haligned : (0x10400 + 4 * k) % 4 = 0 := by omega
  have hinside : 0x10400 + 4 * k < windowSize false := by
    change 0x10400 + 4 * k < 0x100000
    omega
  simp only [legalAccess, haligned, hinside, beq_self_eq_true, decide_true, Bool.and_self]

theorem writeSrcCfg_targets (k : Nat) (e : Events) : (writeSrcCfg k v e).targets = e.targets := rfl

end

/-- Settles O3: a completion pops the top source and no other, FLUSH empties the stack, EV_SRC_CFG leaves every stack. -/
theorem completionPopsTop : Obligations.CompletionPopsTop := by
  unfold Obligations.CompletionPopsTop
  intro s t v hon ht hlen e n stack
  refine ⟨fun hn => ?_, fun p r hn htop => ⟨?_, ?_⟩, fun hn htop => ?_, fun hflush => ?_, fun k hk => ?_⟩
  · rw [exec_evComplete hon ht, show v.toNat % 256 = 0 from hn, complete_zero]
    rfl
  · rw [exec_evComplete hon ht, complete_top hn htop]
    rfl
  · exact eligible_of_cleared (Nat.mod_lt _ (by omega)) rfl
  · rw [exec_evComplete hon ht, complete_not_top hn htop]
    rfl
  · have hlt : t < s.events.targets.length := hlen ▸ ht
    obtain ⟨w, hevents⟩ := writeTgtCtl_flush_events hlt ((bitOf_toNat v 30).trans hflush)
    have htargets := congrArg Events.targets hevents
    have hpending := congrArg Events.pending hevents
    have hmask := congrArg Events.mask hevents
    have hframe := execFlush_fine (G := [.events, .resp]) t v s (by decide) (by decide) _ (exec_flush hon ht)
    refine ⟨_, exec_flush hon ht, hframe.1, ?_, fun k => ?_, hpending, hmask, fun k hk => evTarget_modify_ne hk htargets⟩
    · exact congrArg EvTarget.stack (evTarget_modify_same hlt htargets)
    · calc (writeTgtCtl t v s).events.active.getLsbD k
          = (stack.foldl (fun a p => setSrc a p.1 false) e.active).getLsbD k := by rw [hevents]
        _ = (e.active.getLsbD k && !(stack.map Prod.fst).contains k) := getLsbD_foldl_clear stack e.active k
  · refine ⟨_, exec_registerWrite_chip hon (legalAccess_srcCfg hk), ?_, ?_⟩
    · rw [chipEffect_srcCfg hk]
      exact onlyChanges_respond_updEvents ..
    · rw [chipEffect_srcCfg hk]
      exact writeSrcCfg_targets k e

end Sys2Proof.Laws
